-- ==== Sys2Proof/Word.lean ====
section
/-! DEFINITION. Words, timestamps and the index types of the part's fixed sets of things. -/

namespace Sys2Proof

/-- A byte on the data lines, in the mirror store or in a record. -/
abbrev Byte := BitVec 8

/-- A 16-bit value of a port, a word of memory or a batch operand. -/
abbrev Half := BitVec 16

/-- The part's timestamp: microseconds since power-on or DEVICE_RESET, modulo 2^32 (00_scope, "Timestamp"; R163). -/
abbrev Time := BitVec 32

/-- Slots S0 to S3. -/
abbrev SlotId := Fin 4

/-- The seven DMA channels in the arbiter's order: indexes 0 to 3 are channels 0 to 3, indexes 4 to 6 are channels 5 to 7
(R41; there is no channel 4). -/
abbrev ChanId := Fin 7

/-- The eleven interrupt lines in priority order, highest first (R139). -/
abbrev LineId := Fin 11

/-- Region ids 0 to 15. -/
abbrev RegionId := Fin 16

/-- Timers 0 to 3. -/
abbrev TimerId := Fin 4

/-- The low byte of a 16-bit value. -/
def lowByte (v : Half) : Byte := v.truncate 8

/-- The high byte of a 16-bit value. -/
def highByte (v : Half) : Byte := (v >>> 8).truncate 8

/-- A 16-bit value from its low and high halves: the even byte is the low half (R19, R94). -/
def halfOf (lo hi : Byte) : Half := (hi.zeroExtend 16 <<< 8) ||| lo.zeroExtend 16

/-- Bring a count within a range: below Min it becomes Min, above Max it becomes Max. -/
def clamp (lo hi n : Nat) : Nat := if n < lo then lo else if hi < n then hi else n

/-- Add one, stopping at a bound (the saturating counts of notices). -/
def satInc (bound n : Nat) : Nat := if n < bound then n + 1 else bound

/-- Put an element into a list kept in rising order without repeats: sets of ids are held so, and equal sets are
equal data. -/
def setInsert {n : Nat} (x : Fin n) : List (Fin n) → List (Fin n)
  | [] => [x]
  | y :: ys => if x < y then x :: y :: ys else if x = y then y :: ys else y :: setInsert x ys

/-- Take an element out of a set of ids. -/
def setRemove {n : Nat} (x : Fin n) (xs : List (Fin n)) : List (Fin n) := xs.filter (· ≠ x)

end Sys2Proof
end

