-- ==== Sys2Proof/Config.lean ====
section
/-! DEFINITION. The part's fixed capacities and identity (00_scope "Capacities", R170), and the free values: opaque
constants with no body, which no proof can evaluate. -/

namespace Sys2Proof.Config

/-- Records the report queue holds (R164). -/
abbrev reportCapacity : Nat := 32

/-- Batches the cycle queue holds (R61). -/
abbrev queueCapacity : Nat := 8

/-- Entries of the port rule table (R32). -/
abbrev portRuleCapacity : Nat := 24

/-- The first address above the 24-bit system address space. -/
abbrev addressSpace : Nat := 0x1000000

/-- The first port number above the 16-bit port space. -/
abbrev portSpace : Nat := 0x10000

/-- Vendor code, part code and revision of HELLO (R170). -/
abbrev vendorCode : Nat := 0x2E61
abbrev partCode : Nat := 0x0216
abbrev revision : Nat := 1

/-- The largest payload of a record (R163). -/
abbrev maxPayload : Nat := 1024

/-- The most bytes a report-pipe transfer is carried to before a further record would pass it (R168). -/
abbrev transferLimit : Nat := 4096

/-- FREE VALUE (log entry 6): the rank by which the n-th master release hands a written region on. The spec fixes no
order between the regions of the written-in-grant set (R121's worked sequence: "in no particular order"). -/
opaque handOnRank : Nat → Nat → Nat

/-- FREE VALUE (log entry 7): the payload length of a record whose byte layout the manual does not give, by its kind code
and a serial number. Only the division of the report pipe into transfers (R168) reads it. -/
opaque payloadBytes : Nat → Nat → Nat

end Sys2Proof.Config
end

