-- ==== Sys2Proof/Syntax.lean ====
section
/-! DEFINITION. The commands: one constructor of `Instr` for each row of spec/opcode_table.json, and the types of their
operands. -/

namespace Sys2Proof

/-- What a request's record carries besides its payload (R163): its tag, the two flag bits that are examined, and
whether another record follows it in the same bulk transfer. -/
structure Hdr where
  tag : Nat
  posted : Bool := false
  ordered : Bool := false
  more : Bool := false
deriving DecidableEq, Repr

/-- A 12-byte batch entry as it travels (11.7): operation code, entry flags, the four bytes of the port or address field
(bytes 2 to 5, little-endian), and the operands A, B and C. -/
structure RawEntry where
  op : Byte
  flags : Byte := 0
  field : BitVec 32 := 0
  a : Half := 0
  b : Half := 0
  c : Half := 0
deriving DecidableEq, Repr

/-- The four bus clocks (02, section 2.1). -/
inductive BusClock | mhz477 | mhz600 | mhz800 | mhz1000
deriving DecidableEq, Repr

/-- The nine settings of BUS_SET as the host writes them; `clock` is `none` for a value outside the list of four
(log entry 23). The refresh period is in tenths of a microsecond (R35). -/
structure BusRequest where
  clock : Option BusClock
  wait8io : Nat
  wait16io : Nat
  wait8mem : Nat
  wait16mem : Nat
  waitLimit : Nat
  refresh : Nat
  period : Nat
  burst : Nat
deriving DecidableEq, Repr

/-- Treatment of a 16-bit access at an even port (R27, R28). -/
inductive Width | auto | force8 | force16
deriving DecidableEq, Repr

/-- Treatment of a 16-bit access at an odd port (R26). -/
inductive OddPort | split | refuse
deriving DecidableEq, Repr

/-- Whether writes to covered ports may be posted (R60). -/
inductive Post | allow | deny
deriving DecidableEq, Repr

inductive ChanKind | fill | drain | verify
deriving DecidableEq, Repr

inductive Service | single | demand | block | cascade
deriving DecidableEq, Repr

inductive StepDir | up | down
deriving DecidableEq, Repr

/-- The program CHAN_LOAD carries (R82); `none` for kind, service or step is a value outside its set (log entry 23). -/
structure ChanProgram where
  kind : Option ChanKind
  service : Option Service
  autoInit : Nat
  step : Option StepDir
  page : Byte
  baseAddress : Half
  baseCount : Half
  matchByte : Option Byte
  notify : Nat
deriving DecidableEq, Repr

inductive RegionKind | mirror | card
deriving DecidableEq, Repr

/-- The region REGION_SET carries (R106); channel_access is the list of channel numbers it names, `kind` is `none` for
a value other than MIRROR or CARD (log entry 23). -/
structure RegionRequest where
  base : Nat
  length : Nat
  kind : Option RegionKind
  access : List Nat
  master : Nat
  threshold : Nat
  age : Nat
deriving DecidableEq, Repr

inductive RelayMode | perLine | grouped
deriving DecidableEq, Repr

inductive TimerMode | oneShot | periodic
deriving DecidableEq, Repr

/-- What a card answering a cycle drives: its slot, the data lines it drives (a bit of `lines` for each of the sixteen) and their
levels, the bits of `data` on those lines. A card on the low eight lines drives 0x00FF (R23). -/
structure Answer where
  slot : SlotId
  lines : Half
  data : Half
deriving DecidableEq, Repr

/-- A sample of a shared line in a cycle, ready (R21) or the 16-bit select (R19): the slots whose cards hold or assert it, and how
many changes of the isolation switches the cycle had seen before it (log entry 37). What a card does while its slot is isolated
reaches nobody (R12). -/
structure LineSample where
  slots : List SlotId
  changes : Nat := 0
deriving DecidableEq, Repr

/-- How a cycle ran as the cards show it: the samples of ready from the last programmed clock on, in order (R21), the cards that
answered (R12), and the sample of the 16-bit select at the end of the address phase (R19), which only an access at an even port or
address looks at (R27, R29). R12 makes each line the combination of what the connected slots drive and does not say what two cards
give that drive one data line to different levels. DESIGN CHOICE (log entry 22): that level is free, the bit of `contested`, which comes
with the cycle and which nothing constrains. -/
structure BusEnd where
  held : List LineSample := []
  answers : List Answer := []
  contested : Half := 0xFFFF
  select : LineSample := ⟨[], 0⟩
deriving DecidableEq, Repr

/-- The memory address that a master's card drives, and the slot the card stands in: one with open switches reaches nobody (R12,
R118). -/
structure CardAddress where
  slot : SlotId
  addr : BitVec 24
deriving DecidableEq, Repr

/-- One 1 ms sample of a slot (R9), before the caps: currents in 10 mA, voltage in 10 mV. -/
structure Sample where
  i5 : Nat
  i12 : Nat
  v5 : Nat
deriving DecidableEq, Repr

/-- The three ways a record is refused FRAME (R165). -/
inductive FrameFault
  /-- It runs past the end of its transfer, `headerBytes` of its header being present. -/
  | overrun (headerBytes kind tag : Nat)
  /-- Its payload length is above 1,024; `more` says the transfer goes on after it. -/
  | tooLong (kind tag : Nat) (more : Bool)
  /-- Its tag is 0. -/
  | tagZero (kind : Nat) (more : Bool)
deriving DecidableEq, Repr

/-- The commands, in the table's order. Requests carry their header first. Slot, channel, region, line and timer
operands of requests are numbers as the record carries them (the owner refuses RANGE); those of events are indexes. -/
inductive Instr
  | hello (h : Hdr)
  | linkSet (h : Hdr) (units : Nat)
  | deviceReset (h : Hdr)
  | slotSet (h : Hdr) (slot limit5 limit12 hold settle : Nat)
  | slotPowerOn (h : Hdr) (slot value : Nat)
  | slotPowerOff (h : Hdr) (slot : Nat)
  | slotPulse (h : Hdr) (slot : Nat)
  | slotQuery (h : Hdr) (slot : Nat)
  | busSet (h : Hdr) (r : BusRequest)
  | busQuery (h : Hdr)
  | portRuleSet (h : Hdr) (first last : Half) (width : Option Width) (odd : Option OddPort) (waitLimit : Nat)
      (post : Option Post)
  | portRuleDrop (h : Hdr) (port : Half)
  | batch (h : Hdr) (entries : List RawEntry)
  | censusStart (h : Hdr) (first past : Nat)
  | censusStop (h : Hdr)
  | chanLoad (h : Hdr) (ch : Nat) (p : ChanProgram)
  | chanMask (h : Hdr) (ch : Nat)
  | chanUnmask (h : Hdr) (ch : Nat)
  | chanQuery (h : Hdr) (ch : Nat)
  | regionSet (h : Hdr) (id : Nat) (r : RegionRequest)
  | regionDrop (h : Hdr) (id : Nat)
  | regionFlush (h : Hdr) (id : Nat)
  | mirrorPut (h : Hdr) (addr : Nat) (bytes : List Byte)
  | mirrorGet (h : Hdr) (addr count : Nat)
  | intSet (h : Hdr) (mode : Option RelayMode) (holdoff : Nat)
  | lineSet (h : Hdr) (line masked linked : Nat)
  | intDone (h : Hdr) (lines : List Nat)
  | intQuery (h : Hdr)
  | timerLoad (h : Hdr) (timer count : Nat) (mode : Option TimerMode) (notify : Nat)
  | timerGate (h : Hdr) (timer gate clearFired clearOverrun : Nat)
  | timerBatch (h : Hdr) (timer : Nat) (entries : List RawEntry)
  | timerQuery (h : Hdr) (timer : Nat)
  | frameRefused (f : FrameFault)
  | kindOrSizeRefused (h : Hdr) (kind length getCount : Nat)
  | heldRequestRouted
  | reportRecordSent
  | noticeAdmit
  | fillPassAdmit
  | linkConfigured
  | linkReset
  | powerOn
  | watchdogStage1
  | watchdogStage2
  | rampExpiry (slot : SlotId)
  | holdExpiry (slot : SlotId)
  | settleExpiry (slot : SlotId)
  | slotSample (s0 s1 s2 s3 : Sample)
  | requestLevelChange (slot : SlotId) (ch : ChanId) (asserted : Bool)
  | interruptLevelChange (slot : SlotId) (line : LineId) (asserted : Bool)
  | holdoffExpiry
  | transferEnd (e : BusEnd)
  | shipAgeExpiry (id : RegionId)
  | masterCycle (addr : CardAddress) (word write : Bool) (data : Half)
  | waitLimitExpiry (slot : SlotId)
  | accessFirstCycleEnd (e : BusEnd)
  | batchEntryEnd (e : BusEnd)
  | pollReadEnd (e : BusEnd)
  | pollIntervalExpiry
  | delayExpiry
  | censusReadEnd (e : BusEnd)
  | refreshExpiry
  | refreshCycleEnd
  | timerExpiry (timer : TimerId)
  | timedEntryEnd (e : BusEnd)
deriving DecidableEq, Repr

end Sys2Proof
end

