-- ==== Sys2Proof/Machine/State.lean ====
section
/-! DEFINITION. The state of the part, block by block as the manual gives it, the reasons a step can stop, and the state
after power-on. Plain data throughout. -/

namespace Sys2Proof.Machine

/-- Why a step stops with a fault. -/
inductive Fault
  /-- Raised by MASTER_CYCLE for a word cycle at an odd address: R118 says a word cycle is made at an even address, so no
  master makes this one. Safe: the machine stops where the hardware has no such cycle (log entry 28). -/
  | oddMasterWord
deriving DecidableEq, Repr

/-- Why a command has no meaning. -/
inductive Refusal
  /-- Raised by `exec` for a command whose meaning is not written yet. Safe: nothing can be proved of it. -/
  | notModelled (mnemonic : String)
deriving DecidableEq, Repr

/-- A deadline: the timestamp at which it was set and its interval in microseconds (00_scope, "Timestamp"). -/
structure Deadline where
  since : Time
  len : Nat
deriving DecidableEq, Repr

/-! ### Slots (chapter 1) -/

inductive SlotState | off | ramping | held | settling | online | parked | fault
deriving DecidableEq, Repr

inductive ResetLine | asserted | released | undriven
deriving DecidableEq, Repr

inductive FaultReason | railLow | overcurrent
deriving DecidableEq, Repr

inductive FaultRail | rail5 | rail12 | both
deriving DecidableEq, Repr

inductive SlotEvent | online | parked | fault
deriving DecidableEq, Repr

/-- A SLOT notice produced and not yet placed (R15); the state it reports is read at placement. -/
structure SlotNotice where
  event : SlotEvent
  reason : Option FaultReason
  rail : Option FaultRail
  time : Time
  i5 : Nat
  i12 : Nat
  v5 : Nat
  superseded : Bool
deriving DecidableEq, Repr

/-- The slot record (01, section 1.1). -/
structure Slot where
  state : SlotState := .off
  power : Bool := false
  /-- the isolation switches are closed -/
  closed : Bool := false
  reset : ResetLine := .undriven
  limit5 : Nat := 30
  limit12 : Nat := 10
  holdTime : Nat := 20
  settleTime : Nat := 250
  timer : Option Deadline := none
  i5 : Nat := 0
  i12 : Nat := 0
  v5 : Nat := 0
  over5 : Nat := 0
  over12 : Nat := 0
  low5 : Nat := 0
  faultReason : Option FaultReason := none
  faultRail : Option FaultRail := none
  heldNotice : Option SlotNotice := none
deriving DecidableEq, Repr

/-- What the card in a slot drives on the shared request and interrupt lines: the environment's side of R12. -/
structure Drive where
  requests : List ChanId := []
  lines : List LineId := []
deriving DecidableEq, Repr

/-! ### Bus settings, port rules and cycles (chapter 2) -/

/-- The bus settings as applied (02, section 2.6); the period is in tenths of a microsecond. -/
structure BusSettings where
  clock : BusClock := .mhz800
  wait8io : Nat := 4
  wait16io : Nat := 1
  wait8mem : Nat := 4
  wait16mem : Nat := 1
  waitLimit : Nat := 16
  refresh : Bool := true
  period : Nat := 150
  burst : Nat := 16
deriving DecidableEq, Repr

/-- An entry of the port rule table (02, section 2.5). -/
structure PortRule where
  first : Half
  last : Half
  width : Width
  odd : OddPort
  waitLimit : Nat
  post : Post
deriving DecidableEq, Repr

inductive Space | io | mem
deriving DecidableEq, Repr

/-- How an access is resolved (R25 to R29): one 8-bit cycle, one 16-bit cycle, two 8-bit cycles, by the 16-bit select
sampled at the end of the first address phase (`State.resolved`), or refused with ALIGN. -/
inductive Plan | one8 | one16 | two8 | bySelect | refused
deriving DecidableEq, Repr

/-- An access in progress with everything R24 fixes when it begins. -/
structure Access where
  space : Space
  write : Bool
  addr : Nat
  value : Half
  plan : Plan
  waits8 : Nat
  waits16 : Nat
  limit : Nat
  clock : BusClock
  /-- the second cycle of two is under way -/
  second : Bool := false
  /-- what the first cycle of two brought: its byte and whether it timed out -/
  firstByte : Byte := 0
  firstTimedOut : Bool := false
  /-- the present cycle has reached its wait limit (R22) -/
  timedOut : Bool := false
  /-- for each change of the isolation switches in the present cycle, the slots connected before it, oldest first (R13, R21) -/
  switched : List (List SlotId) := []
deriving DecidableEq, Repr

inductive Target | mirror (id : RegionId) | card | nothing
deriving DecidableEq, Repr

/-- The transfer in flight (06, section 6.1). `terminal`: its count was 0, the terminal-count strobe is driven (R96). -/
structure Transfer where
  ch : ChanId
  kind : ChanKind
  sysAddr : Nat
  target : Target
  waits : Nat
  limit : Nat
  clock : BusClock
  terminal : Bool
  /-- the value moved, once it is known: for a DRAIN from the mirror store from the start (R98) -/
  data : Option Half
  timedOut : Bool := false
  /-- as an access's -/
  switched : List (List SlotId) := []
deriving DecidableEq, Repr

/-- A refresh cycle in progress (R51). -/
structure RefreshCycle where
  row : Nat
  waits : Nat
  clock : BusClock
deriving DecidableEq, Repr

/-- The cycle or cycles the part is driving. -/
inductive InFlight
  | none
  | access (a : Access)
  | transfer (t : Transfer)
  | refresh (r : RefreshCycle)
deriving DecidableEq, Repr

/-! ### Arbiter and refresh timer (chapter 3) -/

inductive Owner
  | none
  | refresh
  | dma (ch : ChanId) (master : Bool)
  | timed (t : TimerId)
  | link
  | census
deriving DecidableEq, Repr

/-- The refresh deadline in half microseconds, modulo 2^33: the period has steps of 0.5 us (log entry 9). -/
structure RefreshDeadline where
  since : BitVec 33
  len : Nat
deriving DecidableEq, Repr

/-- A REFRESH notice (R52). -/
structure RefreshNotice where
  time : Time
  owner : Owner
  missed : Nat
  episodes : Nat
deriving DecidableEq, Repr

/-- A MASTER notice with cause OVERSTAY (R49). -/
structure OverstayNotice where
  grant : Time
  time : Time
  repeats : Nat
deriving DecidableEq, Repr

inductive OpenDetail | openAddress | denied
deriving DecidableEq, Repr

/-- A MASTER notice with cause OPEN_ACCESS (R120). -/
structure OpenNotice where
  grant : Time
  addr : Nat
  write : Bool
  detail : OpenDetail
  time : Time
  repeats : Nat
deriving DecidableEq, Repr

/-- Arbiter and refresh state (03, section 3.1). -/
structure Arbiter where
  owner : Owner := .none
  burstCount : Nat := 0
  burstCap : Nat := 16
  yield : Bool := false
  owed : Nat := 0
  row : Nat := 0
  shortfall : Bool := false
  refreshAt : Option RefreshDeadline := some ⟨0, 30⟩
  heldRefresh : Option RefreshNotice := none
  overstaySent : Bool := false
  heldOverstay : Vector (Option OverstayNotice) 7 := .replicate 7 none
  /-- when the present master grant was made (R49 and R120 report it) -/
  grantTime : Time := 0
deriving DecidableEq, Repr

/-! ### Batches, timed runs and the census (chapters 4 and 10) -/

/-- One result of a batch or run: two bytes for IN and MRD, four for POLL (R64). -/
inductive EntryResult
  | word (v : Half)
  | poll (last : Half) (tries : Nat)
deriving DecidableEq, Repr

/-- Where a running batch or run stands within its entry. -/
inductive EntryStep | claiming | cycle | pollWait | delay
deriving DecidableEq, Repr

/-- The status codes (R166). -/
inductive Status
  | ok | frame | kind | size | range | state | busy | overlap | full | timeout | align | expired | cancelled
deriving DecidableEq, Repr

/-- A batch in the cycle queue (04, section 4.3). -/
structure Batch where
  tag : Nat
  entries : List RawEntry
  posted : Bool
  next : Nat := 0
  step : EntryStep := .claiming
  pollTries : Nat := 0
  pollLast : Half := 0
  /-- the end of a DELAY (delay_end), or of a POLL interval -/
  waitEnd : Option Deadline := none
  results : List EntryResult := []
  status : Status := .ok
  cancel : Bool := false
  /-- a link reset has ended the batch, its access in flight completes (R67) -/
  discard : Bool := false
deriving DecidableEq, Repr

/-- A run in the timed lane (10, section 10.3). -/
structure Run where
  timer : TimerId
  expiry : Time
  next : Nat := 0
  step : EntryStep := .claiming
  results : List EntryResult := []
  done : Nat := 0
  status : Status := .ok
  /-- a link reset has ended the run, its access in flight completes (R161) -/
  discard : Bool := false
deriving DecidableEq, Repr

inductive CensusState | idle | scanning | paused | ending
deriving DecidableEq, Repr

inductive CensusPhase | signature | length | body
deriving DecidableEq, Repr

inductive CensusReason | done | stopped
deriving DecidableEq, Repr

inductive Validity | valid | invalid | truncated
deriving DecidableEq, Repr

/-- A CENSUS_FIND notice (R73). -/
structure Finding where
  addr : Nat
  len : Nat
  sum : Byte
  validity : Validity
deriving DecidableEq, Repr

/-- The census context (04, section 4.5). -/
structure Census where
  state : CensusState := .idle
  first : Nat := 0
  past : Nat := 0
  probe : Nat := 0
  /-- R76 names no value of phase for an IDLE census. DESIGN CHOICE (log entry 34): SIGNATURE. -/
  phase : CensusPhase := .signature
  pos : Nat := 0
  /-- the first signature byte, between the two reads of phase SIGNATURE (R71) -/
  sig : Byte := 0
  len : Nat := 0
  sum : Byte := 0
  findings : Nat := 0
  bytesRead : Nat := 0
  timedOut : Nat := 0
  heldFind : Option Finding := none
  reason : Option CensusReason := none
  stopWaiters : List Nat := []
  /-- a link reset has ended the census while a read is in flight (R76) -/
  abandon : Bool := false
deriving DecidableEq, Repr

/-! ### DMA channels (chapter 5) -/

inductive ChanState | masked | ready | serving
deriving DecidableEq, Repr

inductive MaskReason | host | terminal | matched | fault | quiet | link | reset
deriving DecidableEq, Repr

inductive FaultDetail | openAddress | denied | wait
deriving DecidableEq, Repr

/-- A set of causes drawn from TERMINAL, MATCH and FAULT. -/
structure Causes where
  terminal : Bool := false
  matched : Bool := false
  fault : Bool := false
deriving DecidableEq, Repr

/-- A channel context (05, section 5.1). awaiting_pass is `awaitedRegions ≠ []` (R87). -/
structure Chan where
  programmed : Bool := false
  kind : ChanKind := .fill
  service : Service := .single
  autoInit : Bool := false
  step : StepDir := .up
  page : Byte := 0
  baseAddress : Half := 0
  currentAddress : Half := 0
  baseCount : Half := 0
  currentCount : Half := 0
  matchByte : Option Byte := none
  notifyTerminal : Bool := false
  tcFlag : Bool := false
  state : ChanState := .masked
  maskReason : Option MaskReason := some .reset
  maskPending : Option MaskReason := none
  maskWaiters : List Nat := []
  blockOpen : Bool := false
  request : Bool := false
  lastSystemAddress : Nat := 0
  causes : Causes := {}
  pendingTerminals : Nat := 0
  pendingFaults : Nat := 0
  faultDetail : Option FaultDetail := none
  faultAddress : Option Nat := none
  pendingSince : Time := 0
  awaitedRegions : List RegionId := []
deriving DecidableEq, Repr

/-! ### Memory map, mirror store and ship queues (chapters 7 and 8) -/

inductive Condition | absent | active | dropping
deriving DecidableEq, Repr

/-- The fields of a region that a REGION_SET gives, as applied (R107, R108). The defaults are those of an ABSENT entry (R111, R122).
The spec names no value of its kind, which nothing reads while it is ABSENT. DESIGN CHOICE (log entry 34): MIRROR. -/
structure RegionFields where
  base : Nat := 0
  length : Nat := 0
  kind : RegionKind := .mirror
  access : List ChanId := []
  master : Bool := false
  threshold : Option Nat := none
  age : Option Nat := none
deriving DecidableEq, Repr

/-- A ship queue entry (08, section 8.1). -/
structure ShipEntry where
  granule : Nat
  lo : Nat
  hi : Nat
  joined : Time
deriving DecidableEq, Repr

/-- The blocks a pass tells at its end. -/
structure PassWaiters where
  chans : List ChanId := []
  relay : Bool := false
  map : Bool := false
deriving DecidableEq, Repr

/-- A request whose reply waits for a removal: its tag, and whether it is the reshaping REGION_SET (whose reply carries
the successor's fields) or a REGION_DROP (R113). -/
structure DropWaiter where
  tag : Nat
  reshape : Bool
deriving DecidableEq, Repr

/-- The ship queue of a MIRROR region (08, section 8.1). -/
structure ShipQueue where
  entries : List ShipEntry := []
  dirtyTotal : Nat := 0
  ageDeadline : Option Deadline := none
  running : Bool := false
  waiters : PassWaiters := {}
  trickling : Bool := false
deriving DecidableEq, Repr

/-- An entry of the region table (07, section 7.1) with its ship queue. -/
structure Region where
  cond : Condition := .absent
  fields : RegionFields := {}
  successor : Option RegionFields := none
  dropWaiters : List DropWaiter := []
  flushWaiters : List Nat := []
  ship : ShipQueue := {}
deriving DecidableEq, Repr

/-- What the part drove in a master cycle (R119, R120). -/
structure MasterAnswer where
  select : Bool
  data : Option Half
deriving DecidableEq, Repr

/-! ### Interrupt relay (chapter 9) -/

/-- The relay's line record (09, section 9.1). -/
structure Line where
  level : Bool := false
  pending : Bool := false
  merged : Bool := false
  edgeTime : Time := 0
  masked : Bool := true
  inService : Bool := false
  linked : Option ChanId := none
  chosen : Bool := false
deriving DecidableEq, Repr

inductive Hand | empty | holdoff | flushing | claiming
deriving DecidableEq, Repr

inductive Origin | choice | holdoff
deriving DecidableEq, Repr

structure Relay where
  mode : RelayMode := .perLine
  holdoff : Nat := 0
  hand : Hand := .empty
  holdoffAt : Option Deadline := none
  origin : Origin := .choice
  awaited : List RegionId := []
deriving DecidableEq, Repr

/-! ### Interval timers (chapter 10) -/

/-- What a TIMER notice says of a run (R159). -/
structure RunReport where
  status : Status
  done : Nat
  stop : Nat
  results : List EntryResult
deriving DecidableEq, Repr

/-- A TIMER notice (R159). -/
structure TimerNotice where
  time : Time
  overrun : Bool
  expiries : Nat
  run : Option RunReport
  replaced : Nat
deriving DecidableEq, Repr

/-- The timer record (10, section 10.1). Its `run` field is where the timer's run stands in the lane (`runState`). -/
structure Timer where
  counter : Nat := 0
  holding : Nat := 0
  mode : TimerMode := .oneShot
  gate : Bool := false
  notify : Bool := false
  fired : Bool := false
  overrun : Bool := false
  batch : Option (List RawEntry) := none
  expiries : Nat := 0
  heldNotice : Option TimerNotice := none
  /-- the counter stood at 0 when a microsecond passed: the expiry is to be taken (R152) -/
  due : Bool := false
deriving DecidableEq, Repr

/-! ### Records of the report pipe (chapter 11) -/

inductive RunState | absent | queued | running
deriving DecidableEq, Repr

/-- A QUIET notice (R173). -/
structure QuietNotice where
  stage : Nat
  time : Time
  lastRecord : Time
  interval : Nat
  replaced : Nat
deriving DecidableEq, Repr

/-- A piece of a FILL notice (R128). -/
structure Piece where
  addr : Nat
  bytes : List Byte
deriving DecidableEq, Repr

/-- One line of an INTERRUPT notice (R145). -/
structure LineReport where
  line : Nat
  merged : Bool
  edgeTime : Time
  level : Bool
deriving DecidableEq, Repr

/-- What a reply carries after its status. -/
inductive Body
  | empty
  /-- a reply refused FRAME, KIND or SIZE: the kind code as read (11.7) -/
  | kindCode (k : Nat)
  | hello (vendor part revision slots : Nat) (chans lines : List Nat) (regions store rules batches entries timers
      stored reports payload : Nat) (now : Time)
  | linkInterval (units : Nat)
  | slotSettings (limit5 limit12 hold settle : Nat)
  | slotRecord (r : Slot) (remaining : Option Nat) (noticeHeld : Bool)
  | busSettings (b : BusSettings)
  | busQuery (b : BusSettings) (owner : Owner) (owed row : Nat) (shortfall : Bool) (depth : Nat) (state : CensusState)
      (first past probe findings bytesRead timedOut : Nat)
  | portRule (r : PortRule)
  | batch (done stop : Nat) (results : List EntryResult)
  | chan (c : Chan) (awaitingPass : Bool)
  | region (id : RegionId) (f : RegionFields)
  | bytes (bs : List Byte)
  | relaySettings (mode : RelayMode) (holdoff : Nat)
  | line (number : Nat) (l : Line)
  | lines (ns : List Nat)
  | relayQuery (mode : RelayMode) (holdoff : Nat) (hand : Hand) (origin : Option Origin) (remaining : Option Nat)
      (awaited : List RegionId) (lines : List (Nat × Line))
  | timer (number : Nat) (t : Timer) (run : RunState) (noticeHeld : Bool)
  | stored (n : Nat)
  | timerQuery (number : Nat) (t : Timer) (run : RunState) (next : Option Nat) (noticeHeld : Bool)
deriving DecidableEq, Repr

/-- The notices (11, sections 11.3 and 11.8). -/
inductive Notice
  | quiet (n : QuietNotice)
  | slot (id : SlotId) (n : SlotNotice) (state : SlotState)
  | interrupt (origin : Origin) (time : Time) (lines : List LineReport)
  | channel (number : Nat) (causes : Causes) (terminals faults : Nat) (detail : Option FaultDetail)
      (faultAddress : Option Nat) (since : Time) (state : ChanState) (reason : Option MaskReason) (page : Byte)
      (currentAddress currentCount : Half) (lastSystemAddress : Nat)
  | fill (id : RegionId) (pieces : List Piece)
  | overstay (number : Nat) (n : OverstayNotice)
  | openAccess (number : Nat) (n : OpenNotice)
  | refresh (n : RefreshNotice)
  | timer (number : Nat) (n : TimerNotice)
  | censusFind (f : Finding)
  | censusEnd (findings bytesRead timedOut : Nat) (reason : Option CensusReason)
deriving DecidableEq, Repr

/-- A record of the report queue: a reply with its kind code, tag, status and content, or a notice. -/
inductive Report
  | reply (kind tag : Nat) (status : Status) (body : Body)
  | notice (n : Notice)
deriving DecidableEq, Repr

/-- A reply that is still to be placed, all but its moment. -/
structure PendingReply where
  kind : Nat
  tag : Nat
  body : Body
deriving DecidableEq, Repr

/-- Work on the mirror store that waits for a moment when no transfer is in flight (R92, R105, R115, R116), with the
replies placed when it is done. -/
inductive StoreOp
  | put (addr : Nat) (bytes : List Byte) (reply : Option PendingReply)
  | get (addr count : Nat) (reply : Option PendingReply)
  | zero (base length : Nat) (replies : List PendingReply)
deriving DecidableEq, Repr

/-! ### The link unit (chapter 11) -/

inductive HoldCause | ordered | queueFull
deriving DecidableEq, Repr

inductive Parser | idle | inTransfer | discarding
deriving DecidableEq, Repr

/-- Link unit state (11, section 11.1). -/
structure Link where
  configured : Bool := false
  parser : Parser := .idle
  /-- records the host has offered and the part has not read yet (R164: "not taken and not lost") -/
  pipe : List Instr := []
  /-- the records behind the one being read from the pipe, while that one is served; empty between two steps -/
  behind : List Instr := []
  reservations : Nat := 0
  reports : List Report := []
  held : Option (Instr × HoldCause) := none
  /-- in units of 10 ms; 0 is off -/
  interval : Nat := 0
  stage : Nat := 0
  watchdogAt : Option Deadline := none
  lastRecord : Time := 0
  heldQuiet : Option QuietNotice := none
  /-- the DEVICE_RESET reply has not yet left the report pipe (R174) -/
  awaitReset : Bool := false
  /-- bytes of the report-pipe transfer under way (R168) -/
  transferBytes : Nat := 0
deriving DecidableEq, Repr

/-- The state of the part and the queue of waiting commands. -/
structure State where
  now : Time
  slots : Vector Slot 4
  sampleAt : Deadline
  drives : Vector Drive 4
  bus : BusSettings
  rules : List PortRule
  queue : List Batch
  cancelled : List Nat
  lane : List Run
  census : Census
  inFlight : InFlight
  orphan : Bool
  lastClocks : Nat
  arb : Arbiter
  chans : Vector Chan 7
  regions : Vector Region 16
  store : List Host.Cell
  storeWaits : List StoreOp
  openSent : Bool
  written : List RegionId
  heldOpen : Vector (Option OpenNotice) 7
  lastMaster : Option MasterAnswer
  fillLine : List RegionId
  relay : Relay
  lines : Vector Line 11
  timers : Vector Timer 4
  link : Link
  free : Nat
  pending : List Instr
deriving DecidableEq, Repr

/-- The machine right after power-on: R17, R38, R54, R68, R76, R91, R122, R138, R151, R162, R176, each through the default
values of its block's structure. -/
def State.reset : State where
  now := 0
  slots := .replicate 4 {}
  sampleAt := ⟨0, 1000⟩
  drives := .replicate 4 {}
  bus := {}
  rules := []
  queue := []
  cancelled := []
  lane := []
  census := {}
  inFlight := .none
  orphan := false
  lastClocks := 0
  arb := {}
  chans := .replicate 7 {}
  regions := .replicate 16 {}
  store := []
  storeWaits := []
  openSent := false
  written := []
  heldOpen := .replicate 7 none
  lastMaster := none
  fillLine := []
  relay := {}
  lines := .replicate 11 {}
  timers := .replicate 4 {}
  link := {}
  free := 0
  pending := []

end Sys2Proof.Machine
end

