-- ==== Sys2Proof/Machine/Operands.lean ====
section
/-! DEFINITION. What the operands of commands mean: kind codes and payload lengths (R166, 11.8), the numbers of slots,
channels, lines, regions and timers (R1, R77, R106, R139, R152), the fields of batch entries (11.7, R59), and the system
address (R93, R94). -/

namespace Sys2Proof.Machine

/-! ### Kind codes (11.8) -/

abbrev kHello : Nat := 0x01
abbrev kLinkSet : Nat := 0x02
abbrev kDeviceReset : Nat := 0x03
abbrev kSlotSet : Nat := 0x08
abbrev kSlotPower : Nat := 0x09
abbrev kSlotPulse : Nat := 0x0A
abbrev kSlotQuery : Nat := 0x0B
abbrev kBusSet : Nat := 0x10
abbrev kBusQuery : Nat := 0x11
abbrev kPortRuleSet : Nat := 0x12
abbrev kPortRuleDrop : Nat := 0x13
abbrev kBatch : Nat := 0x14
abbrev kCensusStart : Nat := 0x15
abbrev kCensusStop : Nat := 0x16
abbrev kChanLoad : Nat := 0x18
abbrev kChanMask : Nat := 0x19
abbrev kChanUnmask : Nat := 0x1A
abbrev kChanQuery : Nat := 0x1B
abbrev kRegionSet : Nat := 0x20
abbrev kRegionDrop : Nat := 0x21
abbrev kRegionFlush : Nat := 0x22
abbrev kMirrorPut : Nat := 0x23
abbrev kMirrorGet : Nat := 0x24
abbrev kIntSet : Nat := 0x28
abbrev kLineSet : Nat := 0x29
abbrev kIntDone : Nat := 0x2A
abbrev kIntQuery : Nat := 0x2B
abbrev kTimerLoad : Nat := 0x30
abbrev kTimerGate : Nat := 0x31
abbrev kTimerBatch : Nat := 0x32
abbrev kTimerQuery : Nat := 0x33

/-- A reply has its request's kind code plus 0x80 (11.8). -/
def replyKind (kind : Nat) : Nat := kind + 0x80

/-- The kind of a reply refused FRAME, KIND or SIZE (11.7). -/
abbrev refusedKind : Nat := 0x80

/-- The payload lengths 11.8 allows a request kind; `none` for a code that is no request kind. -/
def allowedLength (kind : Nat) : Option (Nat → Bool) :=
  match kind with
  | 0x01 | 0x03 | 0x11 | 0x16 | 0x2B => some (· == 0)
  | 0x02 | 0x09 | 0x13 | 0x28 => some (· == 2)
  | 0x08 | 0x15 => some (· == 8)
  | 0x0A | 0x0B | 0x19 | 0x1A | 0x1B | 0x21 | 0x22 | 0x33 => some (· == 1)
  | 0x10 | 0x12 => some (· == 10)
  | 0x14 => some fun n => 12 ≤ n && n ≤ 768 && n % 12 == 0
  | 0x18 => some (· == 14)
  | 0x20 => some (· == 16)
  | 0x23 => some fun n => 5 ≤ n && n ≤ 1020
  | 0x24 | 0x30 => some (· == 6)
  | 0x29 => some (· == 3)
  | 0x2A => some fun n => 1 ≤ n && n ≤ 11
  | 0x31 => some (· == 4)
  | 0x32 => some fun n => 1 ≤ n && n ≤ 193 && (n - 1) % 12 == 0
  | _ => none

/-- R166's two checks of a record: KIND, then SIZE (which takes in a MIRROR_GET count outside 1 to 1,016). -/
def recordCheck (kind length getCount : Nat) : Status :=
  match allowedLength kind with
  | none => .kind
  | some ok =>
    if !ok length then .size
    else if kind == kMirrorGet && (getCount < 1 || 1016 < getCount) then .size
    else .ok

/-! ### Numbers of things -/

/-- Slot numbers 0 to 3 (R1). -/
def slotOf (n : Nat) : Option SlotId := if h : n < 4 then some ⟨n, h⟩ else none

/-- Timer numbers 0 to 3 (R152). -/
def timerOf (n : Nat) : Option TimerId := if h : n < 4 then some ⟨n, h⟩ else none

/-- Region ids 0 to 15 (R106). -/
def regionOf (n : Nat) : Option RegionId := if h : n < 16 then some ⟨n, h⟩ else none

/-- Channel numbers 0 to 3 and 5 to 7; 4 and 8 or more name no channel (R77). -/
def chanOf (n : Nat) : Option ChanId :=
  if h : n < 4 then some ⟨n, by omega⟩
  else if h : 5 ≤ n ∧ n < 8 then some ⟨n - 1, by omega⟩
  else none

/-- The bus's number of a channel. -/
def chanNumber (c : ChanId) : Nat := if c.val < 4 then c.val else c.val + 1

/-- Channels 5 to 7 move words (R94). -/
def isWord (c : ChanId) : Bool := 4 ≤ c.val

/-- The bus numbers of the lines in priority order (R139). -/
def lineNumbers : List Nat := [9, 10, 11, 12, 14, 15, 3, 4, 5, 6, 7]

/-- The bus's number of a line. -/
def lineNumber (l : LineId) : Nat := lineNumbers.getD l.val 0

/-- The line of a bus number, if it is one of the eleven (R139). -/
def lineOf (n : Nat) : Option LineId := (List.finRange 11).find? (fun l => lineNumber l = n)

/-- Every number of a list as an index; `none` if one names nothing. -/
def allOf {α : Type} (f : Nat → Option α) : List Nat → Option (List α)
  | [] => some []
  | n :: ns =>
    match f n, allOf f ns with
    | some x, some xs => some (x :: xs)
    | _, _ => none

/-- The set of channels a list of numbers names, in the order of the channels; `none` if one names no channel (R106). -/
def accessSet (ns : List Nat) : Option (List ChanId) := (allOf chanOf ns).map fun cs => cs.foldr setInsert []

/-! ### Batch entries (04, section 4.1; 11.7) -/

/-- The eleven operations of an entry. -/
inductive Op | in8 | in16 | out8 | out16 | mrd8 | mrd16 | mwr8 | mwr16 | poll8 | poll16 | delay
deriving DecidableEq, Repr

/-- The operation codes (11.7). -/
def opOf (code : Byte) : Option Op :=
  match code.toNat with
  | 0x01 => some .in8
  | 0x02 => some .in16
  | 0x03 => some .out8
  | 0x04 => some .out16
  | 0x05 => some .mrd8
  | 0x06 => some .mrd16
  | 0x07 => some .mwr8
  | 0x08 => some .mwr16
  | 0x09 => some .poll8
  | 0x0A => some .poll16
  | 0x0B => some .delay
  | _ => none

def Op.isPoll : Op → Bool
  | .poll8 | .poll16 => true
  | _ => false

def Op.isMemory : Op → Bool
  | .mrd8 | .mrd16 | .mwr8 | .mwr16 => true
  | _ => false

def Op.isWrite : Op → Bool
  | .out8 | .out16 | .mwr8 | .mwr16 => true
  | _ => false

/-- The operation reads or writes 16 bits. -/
def Op.isWide : Op → Bool
  | .in16 | .out16 | .mrd16 | .mwr16 | .poll16 => true
  | _ => false

/-- The eight operations a timed run may hold (R156). -/
def Op.isTimed : Op → Bool
  | .poll8 | .poll16 | .delay => false
  | _ => true

/-- The port field: bytes 2 to 4 of the entry (11.7). -/
def entryPort (e : RawEntry) : Nat := e.field.toNat % 0x1000000

/-- The POLL interval: byte 5 of the entry, in units of 10 us. -/
def entryInterval (e : RawEntry) : Nat := e.field.toNat / 0x1000000

/-- The memory address: bytes 2 to 5 of the entry. -/
def entryAddress (e : RawEntry) : Nat := e.field.toNat

/-- The strict flag of a POLL: bit 0 of the entry flags. -/
def entryStrict (e : RawEntry) : Bool := e.flags.getLsbD 0

/-- R59's first check: the operation is one of the eleven. -/
def opOk (e : RawEntry) : Bool := (opOf e.op).isSome

/-- R59's second check: ports within 16 bits, memory addresses within 24. -/
def addressOk (e : RawEntry) : Bool :=
  match opOf e.op with
  | some .delay => true
  | some op => if op.isMemory then entryAddress e < Config.addressSpace else entryPort e < Config.portSpace
  | none => true

/-- R59's third check: a POLL has tries, a DELAY has a duration. -/
def operandOk (e : RawEntry) : Bool :=
  match opOf e.op with
  | some .poll8 | some .poll16 => e.c ≠ 0
  | some .delay => e.a ≠ 0
  | _ => true

/-- R156's first check: the operation is one of the eight of a timed run. -/
def timedOpOk (e : RawEntry) : Bool := (opOf e.op).any Op.isTimed

/-- The index of the first entry a check refuses. -/
def firstFailing (check : RawEntry → Bool) (es : List RawEntry) : Option Nat := es.findIdx? (fun e => !check e)

/-- The checks of R59 in order; the index of the entry at fault. -/
def batchFault (es : List RawEntry) : Option Nat :=
  (firstFailing opOk es).orElse fun _ => (firstFailing addressOk es).orElse fun _ => firstFailing operandOk es

/-! ### The system address of a transfer (R93, R94) -/

/-- page and channel-local address combined: a byte channel's 64 KiB block, a word channel's 128 KiB block with the low
bit of page cleared. -/
def systemAddress (c : ChanId) (page : Byte) (addr : Half) : Nat :=
  if isWord c then page.toNat / 2 * 2 * 65536 + 2 * addr.toNat else page.toNat * 65536 + addr.toNat

/-- The present system address of a channel (R110). -/
def Chan.presentAddress (c : ChanId) (ch : Chan) : Nat := systemAddress c ch.page ch.currentAddress

/-- `rounded up to the next multiple of 64, then clamped` (R108). -/
def appliedThreshold (n : Nat) : Nat := clamp 64 1024 ((n + 63) / 64 * 64)

/-- ship_age in whole milliseconds, clamped (R108). -/
def appliedAge (n : Nat) : Nat := clamp 1 100 n

/-- The refresh period in tenths of a microsecond: rounded to the nearest 0.5 us, then clamped (R35). -/
def appliedPeriod (n : Nat) : Nat := clamp 100 200 ((n + 2) / 5 * 5)

/-- A port rule's wait limit: 0 is kept, otherwise 2 to 1,000 (R32). -/
def appliedRuleLimit (n : Nat) : Nat := if n = 0 then 0 else clamp 2 1000 n

/-- The watchdog interval in 10 ms units: 0 is off, otherwise 5 to 500 (R171). -/
def appliedInterval (n : Nat) : Nat := if n = 0 then 0 else clamp 5 500 n

/-- BUS_SET's fields brought within their ranges (R35). -/
def appliedBus (clock : BusClock) (r : BusRequest) : BusSettings where
  clock := clock
  wait8io := clamp 0 7 r.wait8io
  wait16io := clamp 0 7 r.wait16io
  wait8mem := clamp 0 7 r.wait8mem
  wait16mem := clamp 0 7 r.wait16mem
  waitLimit := clamp 2 1000 r.waitLimit
  refresh := r.refresh ≠ 0
  period := appliedPeriod r.period
  burst := clamp 1 255 r.burst

end Sys2Proof.Machine
end

