-- ==== Sys2Proof/Machine/Layout.lean ====
section
/-! DEFINITION. The byte layouts the manual gives (11.7, 11.8): the record header, the status codes, the batch entry, the
FILL and INTERRUPT notices, the kind codes of records from the part, and the length of a record on the report pipe (R168). -/

namespace Sys2Proof.Machine

/-- The low n bytes of a number, little-endian (00 Conventions, "Numbers on the link"). -/
def leBytes : Nat → Nat → List Byte
  | 0, _ => []
  | n + 1, v => BitVec.ofNat 8 v :: leBytes n (v / 256)

/-- The number that bytes spell, little-endian. -/
def ofLe : List Byte → Nat
  | [] => 0
  | b :: bs => b.toNat + 256 * ofLe bs

/-- The status codes (11.7). -/
def Status.code : Status → Nat
  | .ok => 0x00
  | .frame => 0x01
  | .kind => 0x02
  | .size => 0x03
  | .range => 0x04
  | .state => 0x05
  | .busy => 0x06
  | .overlap => 0x07
  | .full => 0x08
  | .timeout => 0x09
  | .align => 0x0A
  | .expired => 0x0B
  | .cancelled => 0x0C

/-! ### The record header -/

/-- A 6-byte record header (11.7). -/
structure Header where
  kind : Byte
  flags : Byte
  tag : Half
  length : Half
deriving DecidableEq, Repr

def Header.encode (h : Header) : List Byte :=
  [h.kind, h.flags, lowByte h.tag, highByte h.tag, lowByte h.length, highByte h.length]

/-- The header of at least six bytes, with the bytes that follow it. -/
def Header.decode : List Byte → Option (Header × List Byte)
  | k :: f :: t0 :: t1 :: l0 :: l1 :: rest => some (⟨k, f, halfOf t0 t1, halfOf l0 l1⟩, rest)
  | _ => none

/-- POSTED is bit 0 of the flags, ORDERED bit 1; the others are not examined (11.7, R166). -/
def Header.toHdr (h : Header) (more : Bool) : Hdr :=
  { tag := h.tag.toNat, posted := h.flags.getLsbD 0, ordered := h.flags.getLsbD 1, more := more }

/-! ### The batch entry -/

/-- The operation codes (11.7). -/
def Op.code : Op → Byte
  | .in8 => 0x01
  | .in16 => 0x02
  | .out8 => 0x03
  | .out16 => 0x04
  | .mrd8 => 0x05
  | .mrd16 => 0x06
  | .mwr8 => 0x07
  | .mwr16 => 0x08
  | .poll8 => 0x09
  | .poll16 => 0x0A
  | .delay => 0x0B

/-- The four bytes of the field, the least significant first. -/
def fieldOf (b0 b1 b2 b3 : Byte) : BitVec 32 := b3 ++ b2 ++ b1 ++ b0

def encodeEntry (e : RawEntry) : List Byte :=
  [e.op, e.flags, e.field.extractLsb' 0 8, e.field.extractLsb' 8 8, e.field.extractLsb' 16 8, e.field.extractLsb' 24 8,
    lowByte e.a, highByte e.a, lowByte e.b, highByte e.b, lowByte e.c, highByte e.c]

/-- One entry of twelve bytes, with the bytes that follow it (11.7). -/
def decodeEntry : List Byte → Option (RawEntry × List Byte)
  | op :: fl :: f0 :: f1 :: f2 :: f3 :: a0 :: a1 :: b0 :: b1 :: c0 :: c1 :: rest =>
    some (⟨op, fl, fieldOf f0 f1 f2 f3, halfOf a0 a1, halfOf b0 b1, halfOf c0 c1⟩, rest)
  | _ => none

/-- The entries of a payload, `n` at most; `none` where bytes are left over or an entry is cut short. -/
def decodeEntries : Nat → List Byte → Option (List RawEntry)
  | _, [] => some []
  | 0, _ :: _ => none
  | n + 1, bs =>
    match decodeEntry bs with
    | none => none
    | some (e, rest) => (decodeEntries n rest).map (e :: ·)

/-- A payload of entries. -/
def encodeEntries (es : List RawEntry) : List Byte := es.flatMap encodeEntry

/-! ### Notices -/

/-- The kind codes of notices (11.8). -/
def Notice.kind : Notice → Nat
  | .quiet .. => 0xC0
  | .slot .. => 0xC1
  | .interrupt .. => 0xC2
  | .channel .. => 0xC3
  | .fill .. => 0xC4
  | .overstay .. => 0xC5
  | .openAccess .. => 0xC5
  | .refresh .. => 0xC6
  | .timer .. => 0xC7
  | .censusFind .. => 0xC8
  | .censusEnd .. => 0xC9

def Report.kind : Report → Nat
  | .reply k _ _ _ => k
  | .notice n => n.kind

/-- A piece of a FILL notice: system address, length, the bytes in address order (11.8). -/
def Piece.encode (p : Piece) : List Byte := leBytes 4 p.addr ++ leBytes 2 p.bytes.length ++ p.bytes

/-- The payload of a FILL notice (11.8). -/
def fillPayload (id : RegionId) (ps : List Piece) : List Byte :=
  [BitVec.ofNat 8 id.val, BitVec.ofNat 8 ps.length] ++ ps.flatMap Piece.encode

/-- One line of an INTERRUPT notice: its number, the flags merged (bit 0) and level (bit 1), edge_time (11.8). -/
def LineReport.encode (r : LineReport) : List Byte :=
  [BitVec.ofNat 8 r.line, BitVec.ofNat 8 (r.merged.toNat + 2 * r.level.toNat)] ++ leBytes 4 r.edgeTime.toNat

/-- The payload of an INTERRUPT notice (11.8). -/
def interruptPayload (o : Origin) (time : Time) (ls : List LineReport) : List Byte :=
  [match o with
    | .choice => 0x00
    | .holdoff => 0x01, BitVec.ofNat 8 ls.length] ++ leBytes 4 time.toNat ++ ls.flatMap LineReport.encode

/-! ### The length of a record on the report pipe -/

/-- The payload length of a record from the part: from the layouts above where the manual gives one, otherwise a free value,
within R163's 0 to 1,024 (log entry 7). -/
def Report.payloadLength (r : Report) (free : Nat) : Nat :=
  match r with
  | .reply _ _ _ .empty => 1
  | .reply _ _ _ (.kindCode _) => 2
  | .reply _ _ _ (.bytes bs) => 1 + bs.length
  | .notice (.fill id ps) => (fillPayload id ps).length
  | .notice (.interrupt o t ls) => (interruptPayload o t ls).length
  | r => min Config.maxPayload (Config.payloadBytes r.kind free)

end Sys2Proof.Machine
end

