-- ==== Sys2Proof/Machine/Ops.lean ====
section
/-! DEFINITION. The named operations every meaning is written over: deadlines, one-block updates of the state, replies,
the mirror store's memory and its invariant, slot records entering a state, ship queue entries. -/

namespace Sys2Proof.Machine

/-! ### Deadlines (00_scope, "Timestamp") -/

/-- The value of the timestamp at which a deadline falls due. -/
def Deadline.due (d : Deadline) : Time := d.since + BitVec.ofNat 32 d.len

/-- The time elapsed since a deadline was set, reckoned modulo 2^32. -/
def Deadline.elapsed (d : Deadline) (now : Time) : Nat := (now - d.since).toNat

/-- The present time reaches a deadline when the elapsed time equals or passes its interval. -/
def Deadline.reached (d : Deadline) (now : Time) : Bool := d.len ≤ d.elapsed now

/-- Microseconds left of a deadline's interval. -/
def Deadline.remaining (d : Deadline) (now : Time) : Nat := d.len - d.elapsed now

/-- A deadline that may be absent is reached. -/
def reachedBy (d : Option Deadline) (now : Time) : Bool := d.any (·.reached now)

/-- A deadline a number of milliseconds from now. -/
def inMillis (now : Time) (ms : Nat) : Deadline := ⟨now, ms * 1000⟩

/-- The timestamp in half microseconds, modulo 2^33. -/
def halfMicros (now : Time) : BitVec 33 := now.zeroExtend 33 <<< 1

/-- The refresh deadline is reached (log entry 9). -/
def RefreshDeadline.reached (d : RefreshDeadline) (now : Time) : Bool := d.len ≤ (halfMicros now - d.since).toNat

/-- The refresh deadline one applied period after now (R53); the period is in tenths of a microsecond. -/
def refreshFrom (now : Time) (period : Nat) : RefreshDeadline := ⟨halfMicros now, period / 5⟩

/-- refresh_deadline moved on by one period (R50). -/
def RefreshDeadline.moveOn (d : RefreshDeadline) (period : Nat) : RefreshDeadline :=
  ⟨d.since + BitVec.ofNat 33 d.len, period / 5⟩

/-! ### Updates of one block -/

def State.modSlot (s : State) (i : SlotId) (f : Slot → Slot) : State := { s with slots := s.slots.set i (f s.slots[i]) }
def State.modDrive (s : State) (i : SlotId) (f : Drive → Drive) : State :=
  { s with drives := s.drives.set i (f s.drives[i]) }
def State.modChan (s : State) (c : ChanId) (f : Chan → Chan) : State := { s with chans := s.chans.set c (f s.chans[c]) }
def State.modRegion (s : State) (r : RegionId) (f : Region → Region) : State :=
  { s with regions := s.regions.set r (f s.regions[r]) }
def State.modLine (s : State) (l : LineId) (f : Line → Line) : State := { s with lines := s.lines.set l (f s.lines[l]) }
def State.modTimer (s : State) (t : TimerId) (f : Timer → Timer) : State :=
  { s with timers := s.timers.set t (f s.timers[t]) }
def State.modArb (s : State) (f : Arbiter → Arbiter) : State := { s with arb := f s.arb }
def State.modLink (s : State) (f : Link → Link) : State := { s with link := f s.link }
def State.modRelay (s : State) (f : Relay → Relay) : State := { s with relay := f s.relay }
def State.modCensus (s : State) (f : Census → Census) : State := { s with census := f s.census }
def State.modShip (s : State) (r : RegionId) (f : ShipQueue → ShipQueue) : State :=
  s.modRegion r fun g => { g with ship := f g.ship }

/-- Fold an operation of the state over a list of things. -/
def State.each {α : Type} (s : State) (xs : List α) (f : α → State → State) : State := xs.foldl (fun t x => f x t) s

/-! ### Replies and notices (R164, R167) -/

/-- The link unit's part in placing a reply: it joins the tail and one reservation is released with it. A reply has its
room only by a reservation, and with none held (a link reset has cleared it) nothing is placed (R175; log entry 18). -/
def Link.place (l : Link) (r : Report) : Link :=
  if l.reservations = 0 then l else { l with reports := l.reports ++ [r], reservations := l.reservations - 1 }

/-- Place the reply to a request of the given kind and tag. -/
def State.reply (s : State) (kind tag : Nat) (st : Status) (body : Body) : State :=
  s.modLink (·.place (.reply (replyKind kind) tag st body))

/-- A refusal carries the status alone (11.7). -/
def State.refuse (s : State) (kind tag : Nat) (st : Status) : State := s.reply kind tag st .empty

/-- A reply refused FRAME, KIND or SIZE (11.7). -/
def State.replyRefused (s : State) (tag : Nat) (st : Status) (kindRead : Nat) : State :=
  s.modLink (·.place (.reply refusedKind tag st (.kindCode kindRead)))

/-- A reservation is released without a reply (R64). -/
def State.release (s : State) : State := s.modLink fun l => { l with reservations := l.reservations - 1 }

/-- A notice that has been admitted joins the tail of the report queue (R167). -/
def State.notice (s : State) (n : Notice) : State := s.modLink fun l => { l with reports := l.reports ++ [.notice n] }

/-! ### The mirror store (R105) -/

/-- The byte at an address; an unlisted address reads 0x00 (log entry 5). -/
def Memory.read : List Host.Cell → Nat → Byte
  | [], _ => 0
  | (k, v) :: m, a => if k = a then v else Memory.read m a

/-- Write one byte, keeping the list in rising order and free of zero entries. -/
def Memory.write : List Host.Cell → Nat → Byte → List Host.Cell
  | [], a, v => if v = 0 then [] else [(a, v)]
  | (k, w) :: m, a, v =>
    if a < k then (if v = 0 then (k, w) :: m else (a, v) :: (k, w) :: m)
    else if a = k then (if v = 0 then m else (a, v) :: m)
    else (k, w) :: Memory.write m a v

/-- Write bytes at rising addresses. -/
def Memory.writeAll (m : List Host.Cell) (a : Nat) : List Byte → List Host.Cell
  | [] => m
  | b :: bs => Memory.writeAll (Memory.write m a b) (a + 1) bs

/-- Bytes at rising addresses. -/
def Memory.readAll (m : List Host.Cell) (a n : Nat) : List Byte := (List.range n).map fun i => Memory.read m (a + i)

/-- Set every byte of an extent to 0x00 (R105). -/
def Memory.zero (m : List Host.Cell) (base length : Nat) : List Host.Cell :=
  m.filter fun c => c.1 < base || base + length ≤ c.1

/-- The canonical form: addresses strictly rising, no listed byte 0x00. -/
def Memory.wf : List Host.Cell → Bool
  | [] => true
  | [(_, v)] => v ≠ 0
  | (k, v) :: (k', v') :: m => v ≠ 0 && k < k' && Memory.wf ((k', v') :: m)

/-- The word at an even address: the even byte is the low half (R94). -/
def Memory.readHalf (m : List Host.Cell) (a : Nat) : Half := halfOf (Memory.read m a) (Memory.read m (a + 1))

/-! ### Slot records (R1) -/

/-- The table of R1: power on. -/
def powerIn : SlotState → Bool
  | .off | .fault => false
  | .ramping | .held | .settling | .online | .parked => true

/-- The table of R1: isolation switches closed. -/
def closedIn : SlotState → Bool
  | .off | .ramping | .fault => false
  | .held | .settling | .online | .parked => true

/-- The table of R1: the reset line. -/
def resetIn : SlotState → ResetLine
  | .off | .fault => .undriven
  | .ramping | .held | .parked => .asserted
  | .settling | .online => .released

/-- A slot enters a state with its switches, its reset line and the timer of that state. -/
def Slot.enter (sl : Slot) (st : SlotState) (timer : Option Deadline) : Slot :=
  { sl with state := st, power := powerIn st, closed := closedIn st, reset := resetIn st, timer := timer }

/-- A slot produces a SLOT notice: it becomes the held notice, superseded if one was held (R15). -/
def Slot.produce (sl : Slot) (now : Time) (ev : SlotEvent) : Slot :=
  let n : SlotNotice :=
    { event := ev
      reason := if ev = .fault then sl.faultReason else none
      rail := if ev = .fault then sl.faultRail else none
      time := now, i5 := sl.i5, i12 := sl.i12, v5 := sl.v5
      superseded := sl.heldNotice.isSome }
  { sl with heldNotice := some n }

/-- Entry to FAULT (R10): switches open, timer and counters gone, a FAULT notice produced. -/
def Slot.trip (sl : Slot) (now : Time) (reason : FaultReason) (rail : Option FaultRail) : Slot :=
  { (sl.enter .fault none) with
    over5 := 0, over12 := 0, low5 := 0, faultReason := some reason, faultRail := rail }.produce now .fault

/-- Entry to HELD (R4): the hold timer runs hold_time milliseconds from now. -/
def Slot.hold (sl : Slot) (now : Time) : Slot := sl.enter .held (some (inMillis now sl.holdTime))

/-- Entry to ONLINE (R5). -/
def Slot.goOnline (sl : Slot) (now : Time) : Slot := (sl.enter .online none).produce now .online

/-- Entry to SETTLING (R4); a settle_time of 0 passes through to ONLINE at once (R5). -/
def Slot.settle (sl : Slot) (now : Time) : Slot :=
  let sl' := sl.enter .settling (some (inMillis now sl.settleTime))
  if sl.settleTime = 0 then sl'.goOnline now else sl'

/-! ### Ship queue entries (R124, R125) -/

/-- The size of an entry's span. -/
def ShipEntry.span (e : ShipEntry) : Nat := e.hi - e.lo + 1

/-- The entry widened to take in a place of its granule. -/
def ShipEntry.widen (e : ShipEntry) (place : Nat) : ShipEntry := { e with lo := min e.lo place, hi := max e.hi place }

/-- age_deadline: joined of the head entry plus ship_age; absent while the queue is empty (08, section 8.1). -/
def ageOf (entries : List ShipEntry) (ageMs : Nat) : Option Deadline :=
  entries.head?.map fun e => ⟨e.joined, ageMs * 1000⟩

/-- A byte a card has written: widen the granule's entry where it stands, or join a new entry at the tail. -/
def markEntry (entries : List ShipEntry) (granule place : Nat) (now : Time) : List ShipEntry :=
  if entries.any (·.granule == granule) then
    entries.map fun e => if e.granule == granule then e.widen place else e
  else entries ++ [⟨granule, place, place, now⟩]

/-- The number of offsets a mark gains (R124): 1 for a new entry, the widening of the span otherwise. -/
def markGain (entries : List ShipEntry) (granule place : Nat) : Nat :=
  match entries.find? (·.granule == granule) with
  | some e => (e.widen place).span - e.span
  | none => 1

/-- R124 on a region's queue: `off` is the byte's offset from the region's base. -/
def ShipQueue.mark (q : ShipQueue) (ageMs : Nat) (now : Time) (off : Nat) : ShipQueue :=
  let g := off / 64
  let p := off % 64
  let es := markEntry q.entries g p now
  { q with
    entries := es
    dirtyTotal := q.dirtyTotal + markGain q.entries g p
    ageDeadline := if q.entries.isEmpty then ageOf es ageMs else q.ageDeadline }

/-- R125 for the entries a pass takes from the head: `rest` stays. -/
def ShipQueue.take (q : ShipQueue) (ageMs : Nat) (taken rest : List ShipEntry) : ShipQueue :=
  { q with
    entries := rest
    dirtyTotal := q.dirtyTotal - (taken.map ShipEntry.span).sum
    ageDeadline := ageOf rest ageMs }

end Sys2Proof.Machine
end

