-- ==== Sys2Proof/Machine/Flags.lean ====
section
/-! DEFINITION. The conditions the rules read whenever they ask for them and that are not stored: eligibility (R139), room
in the report queue (R164, R167), lookups and held extents (R104), a region in use (R110), trickle (R134, R135), claims on
the bus (R42), the claimants for the report queue in their fixed order (R167), where a timer's run stands. -/

namespace Sys2Proof.Machine

/-! ### The report queue (R164, R167) -/

/-- Entries of the report queue that are free. -/
def Link.freeEntries (l : Link) : Nat := Config.reportCapacity - l.reports.length

/-- The link unit reads only when the free entries exceed reservations by 2 or more (R164), configured (R163), with no
held request (R169) and no DEVICE_RESET reply waiting to leave (R174). -/
def Link.canRead (l : Link) : Bool :=
  l.configured && !l.awaitReset && l.held.isNone && l.reservations + 2 ≤ l.freeEntries

/-- A record the host has offered, in the pipe or behind the one being served, can be read now. While the parser discards the rest of
a transfer (R165), the records at the front are dropped and not read. DESIGN CHOICE (log entry 48): no record is then waiting to be
read, also where one of a later transfer stands behind them, so that a notice may be admitted first. -/
def Link.readWaiting (l : Link) : Bool := !(l.pipe.isEmpty && l.behind.isEmpty) && l.parser ≠ .discarding && l.canRead

/-- A notice is admitted when free entries exceed reservations; a record that can be read is read first (R167). While the
DEVICE_RESET reply waits nothing joins behind it (R174; log entry 12). -/
def Link.canAdmit (l : Link) : Bool :=
  l.configured && !l.awaitReset && l.reservations < l.freeEntries && !l.readWaiting

/-! ### The region table (R104) -/

/-- The address lies in the extent base to base + length − 1. -/
def RegionFields.contains (f : RegionFields) (a : Nat) : Bool := f.base ≤ a && a < f.base + f.length

/-- Two extents share an address. -/
def RegionFields.meets (f g : RegionFields) : Bool := f.base < g.base + g.length && g.base < f.base + f.length

/-- The whole range of n bytes from a lies in the extent. -/
def RegionFields.covers (f : RegionFields) (a n : Nat) : Bool := f.base ≤ a && a + n ≤ f.base + f.length

/-- The extents an entry holds against other regions (R104). -/
def Region.held (r : Region) : List RegionFields :=
  match r.cond with
  | .absent => []
  | .active => [r.fields]
  | .dropping => r.fields :: r.successor.toList

/-- A lookup finds the ACTIVE entry whose extent contains the address, or none (R104). -/
def State.regionAt (s : State) (a : Nat) : Option RegionId :=
  (List.finRange 16).find? fun id => s.regions[id].cond = .active && s.regions[id].fields.contains a

/-- The entry is a MIRROR region, ACTIVE or DROPPING: it owns a ship queue (08, section 8.1). -/
def Region.isMirror (r : Region) : Bool := r.cond ≠ .absent && r.fields.kind = .mirror

/-- The MIRROR region, ACTIVE or DROPPING, that contains an address (R87, R112, R133). -/
def State.mirrorAt (s : State) (a : Nat) : Option RegionId :=
  (List.finRange 16).find? fun id => s.regions[id].isMirror && s.regions[id].fields.contains a

/-- The bus is held by a master (R47). -/
def Owner.isMaster : Owner → Bool
  | .dma _ m => m
  | _ => false

/-- The channel owns the bus, as a transferring channel or as a master. -/
def Owner.isChan (o : Owner) (c : ChanId) : Bool :=
  match o with
  | .dma c' _ => c' = c
  | _ => false

/-- A region in use (R110). -/
def State.inUse (s : State) (id : RegionId) : Bool :=
  (List.finRange 7).any (fun c =>
    s.chans[c].service ≠ .cascade && s.chans[c].state ≠ .masked &&
      s.regions[id].fields.contains (s.chans[c].presentAddress c)) ||
  (s.arb.owner.isMaster && s.regions[id].fields.master)

/-! ### Lines and trickle (R12, R134, R135, R139) -/

/-- A slot is connected while its isolation switches are closed (R12). -/
def State.connected (s : State) (i : SlotId) : Bool := s.slots[i].closed

/-- The level of a request line: asserted while any connected slot asserts it (R12). -/
def State.requestLevel (s : State) (c : ChanId) : Bool :=
  (List.finRange 4).any fun i => s.connected i && s.drives[i].requests.contains c

/-- The level of an interrupt line (R12). -/
def State.lineLevel (s : State) (l : LineId) : Bool :=
  (List.finRange 4).any fun i => s.connected i && s.drives[i].lines.contains l

/-- A line is eligible when pending is set, masked is clear and in_service is clear (R139). -/
def Line.eligible (l : Line) : Bool := l.pending && !l.masked && !l.inService

/-- The eligible lines in priority order. -/
def State.eligibleLines (s : State) : List LineId := (List.finRange 11).filter fun l => s.lines[l].eligible

/-- The lines of the notice in hand, in priority order. -/
def State.chosenLines (s : State) : List LineId := (List.finRange 11).filter fun l => s.lines[l].chosen

/-- A channel is in trickle (R134): a line linked to it is asserted and its kind is FILL. DEDUCED (log entry 44): a CASCADE
context's kind counts too, as R134 asks for the kind alone; the note under R81, that kind acts on nothing under CASCADE, is read
of the channel's service. -/
def State.inTrickle (s : State) (c : ChanId) : Bool :=
  s.chans[c].kind = .fill &&
    (List.finRange 11).any fun l => s.lines[l].linked = some c && s.lines[l].level

/-- A MIRROR region is trickling while it holds the last_system_address of a channel in trickle (R135). -/
def State.isTrickling (s : State) (id : RegionId) : Bool :=
  s.regions[id].isMirror &&
    (List.finRange 7).any fun c => s.inTrickle c && s.regions[id].fields.contains s.chans[c].lastSystemAddress

/-! ### Claims on the card bus (R42) -/

/-- The seven DMA channels' claim: the SERVING channel of lowest number (R41). -/
def State.servingChan (s : State) : Option ChanId := (List.finRange 7).find? fun c => s.chans[c].state = .serving

/-- The timed lane claims while its head run has an entry to perform. -/
def State.timedClaims (s : State) : Option TimerId :=
  match s.lane with
  | r :: _ => if r.step = .claiming && !r.discard then some r.timer else none
  | [] => none

/-- The link lane claims while the head batch has a cycle entry, or a POLL read, to perform. -/
def State.linkClaims (s : State) : Bool :=
  match s.queue with
  | b :: _ => b.step = .claiming && !b.discard
  | [] => false

/-- The census claims while it has its next read to perform: SCANNING, and not asked to stop (R70, R75). -/
def State.censusClaims (s : State) : Bool :=
  s.census.state = .scanning && s.census.reason = none && !s.census.abandon

/-- A claim of class 3 to 6 is present: refresh with owed 1 to 3, the timed lane, the link lane or the census (R45). -/
def State.lowerClaim (s : State) : Bool :=
  (1 ≤ s.arb.owed && s.arb.owed ≤ 3) || s.timedClaims.isSome || s.linkClaims || s.censusClaims

/-- Some claim is present. -/
def State.anyClaim (s : State) : Bool := s.servingChan.isSome || 1 ≤ s.arb.owed || s.lowerClaim

/-- A transfer is in flight. After a DEVICE_RESET its cycle may still be completing, but the record is gone (R91). -/
def State.transferring (s : State) : Bool :=
  match s.inFlight with
  | .transfer _ => !s.orphan
  | _ => false

/-! ### Claimants for the report queue (R167) -/

/-- The notices that wait for admission, by block. -/
inductive Claimant
  | quiet
  | slot (i : SlotId)
  | interrupt
  | channel (c : ChanId)
  | fill (id : RegionId)
  | overstay (c : ChanId)
  | openAccess (c : ChanId)
  | refresh
  | timer (t : TimerId)
  | censusFind
  | censusEnd
deriving DecidableEq, Repr

/-- A CHANNEL notice is a claimant while it has causes and awaits no pass (R88). -/
def Chan.noticeReady (ch : Chan) : Bool :=
  (ch.causes.terminal || ch.causes.matched || ch.causes.fault) && ch.awaitedRegions.isEmpty

/-- The CENSUS_END notice exists once the scan is over and its last read and finding are done with (R74, R75). -/
def Census.endReady (c : Census) : Bool := c.state = .ending && c.heldFind.isNone

/-- The first claimant in the fixed order of held notices (R167). -/
def State.firstClaimant (s : State) : Option Claimant :=
  if s.link.heldQuiet.isSome then some .quiet
  else match (List.finRange 4).find? fun i => s.slots[i].heldNotice.isSome with
  | some i => some (.slot i)
  | none =>
  if s.relay.hand = .claiming then some .interrupt
  else match (List.finRange 7).find? fun c => s.chans[c].noticeReady with
  | some c => some (.channel c)
  | none =>
  match s.fillLine with
  | id :: _ => some (.fill id)
  | [] =>
  match (List.finRange 7).find? fun c => s.arb.heldOverstay[c].isSome || s.heldOpen[c].isSome with
  | some c => some (if s.arb.heldOverstay[c].isSome then .overstay c else .openAccess c)
  | none =>
  if s.arb.heldRefresh.isSome then some .refresh
  else match (List.finRange 4).find? fun t => s.timers[t].heldNotice.isSome with
  | some t => some (.timer t)
  | none =>
  if s.census.heldFind.isSome then some .censusFind
  else if s.census.endReady then some .censusEnd
  else none

/-! ### Timers -/

/-- Where a timer's run stands in the timed lane (10, section 10.1): the head is RUNNING, the others are QUEUED. -/
def State.runState (s : State) (t : TimerId) : RunState :=
  match s.lane with
  | [] => .absent
  | r :: rs => if r.timer = t then .running else if rs.any (·.timer = t) then .queued else .absent

end Sys2Proof.Machine
end

