-- ==== Sys2Proof/Machine/Shipping.lean ====
section
/-! DEFINITION. Work on the mirror store and ship passes: store work that waits for a transfer's end (R92, R105), region
placement and removal (R105, R107, R111, R113), pass begin and end, demands, triggers and trickle (R124 to R136), and the
building of a FILL notice (R127, R128). -/

namespace Sys2Proof.Machine

/-! ### Work on the mirror store -/

/-- Place a reply that waited for its moment. -/
def State.replyNow (s : State) (r : PendingReply) : State := s.reply r.kind r.tag .ok r.body

/-- Put, get or zero whole, and place the replies that wait for it (R105, R115, R116). -/
def State.applyStoreOp (op : StoreOp) (s : State) : State :=
  match op with
  | .put addr bytes reply =>
    let s := { s with store := Memory.writeAll s.store addr bytes }
    match reply with
    | some r => s.replyNow r
    | none => s
  | .get addr count reply =>
    match reply with
    | some r => s.replyNow { r with body := .bytes (Memory.readAll s.store addr count) }
    | none => s
  | .zero base length replies =>
    { s with store := Memory.zero s.store base length }.each replies fun r t => t.replyNow r

/-- Store work is applied at a moment when no transfer is in flight: at once, or at the end of the one in flight
(R92; log entry 17). -/
def State.submitStoreOp (op : StoreOp) (s : State) : State :=
  if s.transferring then { s with storeWaits := s.storeWaits ++ [op] } else s.applyStoreOp op

/-- The work that waited, at the boundary of a transfer. -/
def State.runStoreWaits (s : State) : State :=
  { s with storeWaits := [] }.each s.storeWaits State.applyStoreOp

/-! ### Placement and removal of regions -/

/-- A region is placed ACTIVE with the fields given; a MIRROR region's extent is zeroed and its queue created empty, and
the replies follow the zeroing (R105, R107, R113). DESIGN CHOICE (log entry 17): with a transfer in flight the entry is ACTIVE at
once, before its zeroing and reply at the boundary. DEDUCED (log entry 39): a region placed over the last_system_address of a
channel in trickle is trickling at once (R135 against R138's "trickling no"). -/
def State.placeRegion (id : RegionId) (f : RegionFields) (replies : List PendingReply) (s : State) : State :=
  let s := s.modRegion id fun _ => { cond := .active, fields := f }
  let s := s.modShip id fun q => { q with trickling := s.isTrickling id }
  match f.kind with
  | .mirror => s.submitStoreOp (.zero f.base f.length replies)
  | .card => s.each replies fun r t => t.replyNow r

/-- The reply a drop waiter gets: the reshaping request's carries the successor's fields (R113). -/
def DropWaiter.reply (w : DropWaiter) (id : RegionId) (f : RegionFields) : PendingReply :=
  if w.reshape then ⟨kRegionSet, w.tag, .region id f⟩ else ⟨kRegionDrop, w.tag, .empty⟩

/-- Removal at the end of the drop's pass (R111, R113): the entry becomes ABSENT with every field cleared, or its successor
is placed at once, and the drop waiters are answered. -/
def State.removeRegion (id : RegionId) (s : State) : State :=
  let r := s.regions[id]
  let s := { s with written := setRemove id s.written }
  match r.successor with
  | some f => s.placeRegion id f (r.dropWaiters.map fun w => w.reply id f)
  | none =>
    (s.modRegion id fun _ => {}).each r.dropWaiters fun w t => t.replyNow (w.reply id {})

/-! ### Ship passes -/

/-- The interrupt relay is told that a pass has ended (R143). -/
def State.relayPassEnded (id : RegionId) (s : State) : State :=
  s.modRelay fun r =>
    let aw := setRemove id r.awaited
    { r with awaited := aw, hand := if r.hand = .flushing && aw.isEmpty then .claiming else r.hand }

/-- The memory map is told that a pass has ended: flush waiters are answered, a DROPPING region is removed (R111, R114). -/
def State.mapPassEnded (id : RegionId) (s : State) : State :=
  let r := s.regions[id]
  let s := (s.modRegion id fun g => { g with flushWaiters := [] }).each r.flushWaiters
    fun tag t => t.replyNow ⟨kRegionFlush, tag, .empty⟩
  if r.cond = .dropping then s.removeRegion id else s

/-- A pass ends: it becomes IDLE and every demander is told (R130). -/
def State.endPass (id : RegionId) (s : State) : State :=
  let w := s.regions[id].ship.waiters
  let s := s.modShip id fun q => { q with running := false, waiters := {} }
  let s := s.each w.chans fun c t => t.modChan c fun ch => { ch with awaitedRegions := setRemove id ch.awaitedRegions }
  let s := if w.relay then s.relayPassEnded id else s
  if w.map then s.mapPassEnded id else s

/-- A pass begins on an IDLE region (R126): with an empty queue it ends at once, otherwise the region joins the fill line. -/
def State.beginPass (id : RegionId) (s : State) : State :=
  let s := s.modShip id fun q => { q with running := true }
  if s.regions[id].ship.entries.isEmpty then s.endPass id else { s with fillLine := s.fillLine ++ [id] }

/-- A trigger, or a demand that records nobody: it begins a pass on an IDLE region and has no further effect on a running
one (R126). -/
def State.trigger (id : RegionId) (s : State) : State :=
  if s.regions[id].isMirror && !s.regions[id].ship.running then s.beginPass id else s

/-- The blocks that demand passes (R133). -/
inductive Demander | chan (c : ChanId) | relay | map
deriving DecidableEq, Repr

/-- The demander joins pass_waiters. -/
def PassWaiters.add (w : PassWaiters) : Demander → PassWaiters
  | .chan c => { w with chans := setInsert c w.chans }
  | .relay => { w with relay := true }
  | .map => { w with map := true }

/-- A demand on a MIRROR region begins or joins its pass and records the demander (R126, R133). -/
def State.demand (id : RegionId) (d : Demander) (s : State) : State :=
  let s := s.modShip id fun q => { q with waiters := q.waiters.add d }
  if s.regions[id].ship.running then s else s.beginPass id

/-! ### Card writes, triggers and trickle -/

/-- The memory map hands on a byte a card has written into an ACTIVE MIRROR region (R117, R124). -/
def State.handByte (id : RegionId) (off : Nat) (s : State) : State :=
  s.modRegion id fun r => { r with ship := r.ship.mark (r.fields.age.getD 0) s.now off }

/-- The threshold trigger (R131). -/
def State.thresholdCheck (id : RegionId) (s : State) : State :=
  let r := s.regions[id]
  if r.isMirror && r.fields.threshold.any (· ≤ r.ship.dirtyTotal) then s.trigger id else s

/-- One region begins or stops trickling, and ships what it has queued while it trickles (R135). -/
def State.trickleRegion (id : RegionId) (s : State) : State :=
  let t := s.isTrickling id
  let s := s.modShip id fun q => { q with trickling := t }
  if t && !s.regions[id].ship.entries.isEmpty then s.trigger id else s

/-- Trickle is looked at again: after a change of a linked line's level, of a link, of a channel's kind or of a
last_system_address, and after a card write (R134, R135). DESIGN CHOICE (log entry 25): regions that begin to trickle in one step
join the fill line in the order of their numbers. -/
def State.trickleUpdate (s : State) : State := s.each (List.finRange 16) State.trickleRegion

/-! ### The FILL notice (R127, R128) -/

/-- A piece while it is being packed: the region offset of its first byte and its length. -/
structure Span where
  off : Nat
  len : Nat
deriving DecidableEq, Repr

/-- An entry extends the last piece if the piece's last entry ends its granule, the entry is the next granule and starts it. -/
def ShipEntry.extends (last e : ShipEntry) : Bool := last.hi = 63 && e.granule = last.granule + 1 && e.lo = 0

/-- Take entries from the head while the next one fits in the payload (R127). `used` is the payload so far, `last` the entry
just taken, `done` the pieces so far, newest first. Answers the pieces in order and the entries left. -/
def packEntries (used : Nat) (last : Option ShipEntry) (done : List Span) :
    List ShipEntry → List Span × List ShipEntry
  | [] => (done.reverse, [])
  | e :: es =>
    match done with
    | d :: ds =>
      if last.any (·.extends e) then
        if used + e.span ≤ Config.maxPayload then
          packEntries (used + e.span) (some e) (⟨d.off, d.len + e.span⟩ :: ds) es
        else (done.reverse, e :: es)
      else if used + 6 + e.span ≤ Config.maxPayload then
        packEntries (used + 6 + e.span) (some e) (⟨e.granule * 64 + e.lo, e.span⟩ :: done) es
      else (done.reverse, e :: es)
    | [] =>
      if used + 6 + e.span ≤ Config.maxPayload then
        packEntries (used + 6 + e.span) (some e) [⟨e.granule * 64 + e.lo, e.span⟩] es
      else ([], e :: es)

/-- The piece with its bytes as the store holds them now (R128). -/
def Span.piece (m : List Host.Cell) (base : Nat) (sp : Span) : Piece :=
  ⟨base + sp.off, Memory.readAll m (base + sp.off) sp.len⟩

/-- The admitted pass at the head of the fill line takes entries into one FILL notice, places it, and ends or joins the
tail of the fill line again (R127). -/
def State.admitFill (id : RegionId) (s : State) : State :=
  let s := { s with fillLine := s.fillLine.tail }
  let r := s.regions[id]
  let packed := packEntries 2 none [] r.ship.entries
  let taken := r.ship.entries.take (r.ship.entries.length - packed.2.length)
  let s := s.modShip id fun q => q.take (r.fields.age.getD 0) taken packed.2
  let s := s.notice (.fill id (packed.1.map (Span.piece s.store r.fields.base)))
  if packed.2.isEmpty then s.endPass id else { s with fillLine := s.fillLine ++ [id] }

/-- FILL passes are admitted while there is room and a pass is the first claimant (R129, R167); a copy is made when no
transfer is in flight (R127), so this also runs at the boundary between two transfers (log entry 16). -/
def State.admitFills : Nat → State → State
  | 0, s => s
  | n + 1, s =>
    if s.link.canAdmit && !s.transferring then
      match s.firstClaimant with
      | some (.fill id) => State.admitFills n (s.admitFill id)
      | _ => s
    else s

end Sys2Proof.Machine
end

