-- ==== Sys2Proof/Machine/RelayHand.lean ====
section
/-! DEFINITION. The interrupt relay's notice in hand: forming it with its linked passes (R143), the PER_LINE choice (R141),
the GROUPED holdoff (R142), withdrawal (R144) and placement (R145), and the latching of levels and edges (R140). -/

namespace Sys2Proof.Machine

/-- The demand for one chosen line: the MIRROR region that holds its linked channel's last_system_address (R143). -/
def State.demandLinked (l : LineId) (s : State) : State :=
  match s.lines[l].linked with
  | none => s
  | some c =>
    match s.mirrorAt s.chans[c].lastSystemAddress with
    | none => s
    | some id => (s.modRelay fun r => { r with awaited := setInsert id r.awaited }).demand id .relay

/-- A notice is formed of the lines given: they are chosen, the linked passes are demanded, and the hand waits for them or
claims (R143). The spec does not order the demands of several lines. DESIGN CHOICE (log entry 25): in the lines' priority order, in
which their regions join the fill line. -/
def State.formNotice (ls : List LineId) (o : Origin) (s : State) : State :=
  let s := s.each ls fun l t => t.modLine l fun r => { r with chosen := true }
  let s := s.modRelay fun r => { r with origin := o }
  let s := s.each ls State.demandLinked
  s.modRelay fun r => { r with hand := if r.awaited.isEmpty then .claiming else .flushing }

/-- The holdoff expires (R142): every line eligible at that moment is chosen into one notice, or none is formed and the
hand is EMPTY (the check made again then finds no eligible line). -/
def State.expireHoldoff (s : State) : State :=
  let s := s.modRelay fun r => { r with hand := .empty, holdoffAt := none }
  match s.eligibleLines with
  | [] => s
  | ls => s.formNotice ls .holdoff

/-- The check of R141 or R142, according to the mode, made whenever the hand may be EMPTY with a line eligible. A holdoff
of 0 expires as soon as it starts. -/
def State.relayCheck (s : State) : State :=
  if s.relay.hand ≠ .empty then s
  else match s.relay.mode, s.eligibleLines with
  | _, [] => s
  | .perLine, l :: _ => s.formNotice [l] .choice
  | .grouped, _ =>
    let s := s.modRelay fun r => { r with hand := .holdoff, holdoffAt := some ⟨s.now, r.holdoff * 10⟩ }
    if s.relay.holdoff = 0 then s.expireHoldoff else s

/-- A line leaves the notice in hand; with no chosen line left the notice is discarded and the check made at once (R144). -/
def State.withdraw (l : LineId) (s : State) : State :=
  let was := s.lines[l].chosen
  let s := s.modLine l fun r => { r with chosen := false }
  if was && s.chosenLines.isEmpty && (s.relay.hand = .flushing || s.relay.hand = .claiming) then
    s.modRelay fun r => { r with hand := .empty, awaited := [] }
  else s

/-- What an INTERRUPT notice says of a line (R145). -/
def State.lineReport (s : State) (l : LineId) : LineReport :=
  let r := s.lines[l]
  ⟨lineNumber l, r.merged, r.edgeTime, r.level⟩

/-- The notice in hand is admitted (R145): built and placed, its lines go into service, the hand empties, and the relay
makes its check. -/
def State.admitInterrupt (s : State) : State :=
  let ls := s.chosenLines
  let s := s.notice (.interrupt s.relay.origin s.now (ls.map s.lineReport))
  let s := s.each ls fun l t => t.modLine l fun r =>
    { r with pending := false, merged := false, inService := true, chosen := false }
  (s.modRelay fun r => { r with hand := .empty, awaited := [] }).relayCheck

/-- A change of level of a line's record: a rise is latched as an edge, masked or not (R140). -/
def Line.setLevel (r : Line) (now : Time) (level : Bool) : Line :=
  if level && !r.level then
    if r.pending then { r with level := true, merged := true }
    else { r with level := true, pending := true, edgeTime := now }
  else { r with level := level }

/-- The line follows the shared level (R12, R140). -/
def State.syncLine (l : LineId) (s : State) : State :=
  let level := s.lineLevel l
  s.modLine l fun r => r.setLevel s.now level

end Sys2Proof.Machine
end

