-- ==== Sys2Proof/Machine/Transfers.lean ====
section
/-! DEFINITION. DMA channels and transfers: pending causes (R87), masks (R83, R86), the start of a transfer with stages 1 and
2 and the address fault (R92 to R95), and stages 3 to 7 at its end (R96 to R101). -/

namespace Sys2Proof.Machine

/-! ### Causes and masks -/

/-- A cause drawn from TERMINAL, MATCH and FAULT, a fault with its detail and address. -/
inductive Cause
  | terminal
  | matched
  | fault (d : FaultDetail) (addr : Nat)
deriving DecidableEq, Repr

def Causes.none (c : Causes) : Bool := !(c.terminal || c.matched || c.fault)

/-- The unreported notice takes a cause in (R87). -/
def Chan.addCause (ch : Chan) (now : Time) (k : Cause) : Chan :=
  let ch := { ch with pendingSince := if ch.causes.none then now else ch.pendingSince }
  match k with
  | .terminal =>
    { ch with causes := { ch.causes with terminal := true }, pendingTerminals := satInc 255 ch.pendingTerminals }
  | .matched => { ch with causes := { ch.causes with matched := true } }
  | .fault d a =>
    { ch with
      causes := { ch.causes with fault := true }
      pendingFaults := satInc 255 ch.pendingFaults
      faultDetail := some d
      faultAddress := some a }

/-- A cause joins the channel's unreported notice and a flush pass is demanded on the MIRROR region that holds its
last_system_address, if one does (R87). -/
def State.addCause (c : ChanId) (k : Cause) (s : State) : State :=
  let s := s.modChan c (·.addCause s.now k)
  match s.mirrorAt s.chans[c].lastSystemAddress with
  | none => s
  | some id => (s.modChan c fun ch => { ch with awaitedRegions := setInsert id ch.awaitedRegions }).demand id (.chan c)

/-- The replies of every tag in mask_waiters are placed, in the order the masks were taken (R83). -/
def State.answerMasks (c : ChanId) (s : State) : State :=
  let ws := s.chans[c].maskWaiters
  (s.modChan c fun ch => { ch with maskWaiters := [] }).each ws fun tag t => t.reply kChanMask tag .ok .empty

/-- The channel becomes MASKED with a reason; a pending mask is gone and its waiters are answered (R83, R86). -/
def State.maskChan (c : ChanId) (reason : MaskReason) (s : State) : State :=
  (s.modChan c fun ch => { ch with state := .masked, maskReason := some reason, maskPending := none }).answerMasks c

/-! ### Stages 1 and 2 -/

/-- The outcome of stage 2 (R95, R117): a target, or an address fault with its detail. -/
inductive Lookup
  | target (t : Target)
  | fault (d : FaultDetail)
deriving DecidableEq, Repr

/-- The region lookup of a FILL or DRAIN transfer; a VERIFY makes none (R95). -/
def State.lookup (s : State) (c : ChanId) (kind : ChanKind) (addr : Nat) : Lookup :=
  match kind with
  | .verify => .target .nothing
  | .fill | .drain =>
    match s.regionAt addr with
    | none => .fault .openAddress
    | some id =>
      let f := s.regions[id].fields
      if f.access.contains c then
        match f.kind with
        | .mirror => .target (.mirror id)
        | .card => .target .card
      else .fault .denied

/-- The store's byte or word at an address, for a channel's width. The spec does not say what the high eight lines carry where a
byte channel drains. DESIGN CHOICE (log entry 38): 0x00. -/
def State.storeValue (s : State) (c : ChanId) (addr : Nat) : Half :=
  if isWord c then Memory.readHalf s.store addr else (Memory.read s.store addr).zeroExtend 16

/-- The transfer that stages 1 and 2 make, with the settings captured (R92, R20). A DRAIN from the mirror store has its
data from the start (R98). -/
def State.newTransfer (s : State) (c : ChanId) (target : Target) : Transfer :=
  let ch := s.chans[c]
  let addr := ch.presentAddress c
  { ch := c, kind := ch.kind, sysAddr := addr, target := target
    waits := if isWord c then s.bus.wait16mem else s.bus.wait8mem
    limit := s.bus.waitLimit
    clock := s.bus.clock
    terminal := ch.currentCount = 0
    data := match ch.kind, target with
      | .drain, .mirror _ => some (s.storeValue c addr)
      | _, _ => none }

/-- The next transfer of the owner starts (R92); an address fault masks the channel with no cycle (R95). The flag says
whether a transfer is in flight. -/
def State.startTransfer (c : ChanId) (s : State) : State × Bool :=
  let addr := s.chans[c].presentAddress c
  match s.lookup c s.chans[c].kind addr with
  | .target t => ({ s with inFlight := .transfer (s.newTransfer c t) }, true)
  | .fault d => ((s.addCause c (.fault d addr)).maskChan c .fault, false)

/-! ### Cycle lengths and outcomes (R19, R21, R22) -/

/-- The bus clock in units of 10 kHz (02, section 2.1). -/
def clockRate : BusClock → Nat
  | .mhz477 => 477
  | .mhz600 => 600
  | .mhz800 => 800
  | .mhz1000 => 1000

/-- The first clock edge at or after a wait limit in microseconds, counted from the start of the command phase (R22). -/
def limitClocks (clock : BusClock) (us : Nat) : Nat := (us * clockRate clock + 99) / 100

/-- The wait limit ends the command phase: it has been seen to (WAIT_LIMIT_EXPIRY), or ready was held at every sample up to
the first edge at or after it (R22). -/
def cycleTimesOut (seen : Bool) (waits limit : Nat) (clock : BusClock) (held : Nat) : Bool :=
  seen || (held ≠ 0 && limitClocks clock limit ≤ waits + held)

/-- The length of a cycle in clocks: w + 3 + e, or the wait limit's clocks between an address and an end phase (R21, R22). -/
def cycleClocks (timedOut : Bool) (waits limit : Nat) (clock : BusClock) (held : Nat) : Nat :=
  if timedOut then limitClocks clock limit + 2 else waits + 3 + held

/-- A slot was connected when a number of changes of the switches had come in the cycle: of those that the cycle has seen, each
kept with the slots connected before it, the next one tells; after the last, the switches as they stand (log entry 37). -/
def State.connectedAfter (s : State) (switched : List (List SlotId)) (changes : Nat) (slot : SlotId) : Bool :=
  match switched[changes]? with
  | some before => before.contains slot
  | none => s.connected slot

/-- A sample finds its line held or asserted: some card does so whose slot was connected then (R12, R13, R21). -/
def State.finds (s : State) (switched : List (List SlotId)) (x : LineSample) : Bool :=
  x.slots.any (s.connectedAfter switched x.changes)

/-- The number of samples that found ready held (R21's e): those up to the first that finds it released. -/
def State.readyHeld (s : State) (switched : List (List SlotId)) (e : BusEnd) : Nat :=
  (e.held.takeWhile (s.finds switched)).length

/-- The data lines that the connected cards of a list of answers drive high, and those that they drive low (R12). -/
def State.drivenLines (s : State) (as : List Answer) : Half × Half :=
  as.foldr (fun a p => if s.connected a.slot then (p.1 ||| a.lines &&& a.data, p.2 ||| a.lines &&& ~~~a.data) else p) (0, 0)

/-- The data lines at the end phase of a read, each the combination of what the connected cards drive on it (R12): a line that no one
drives reads 1, held high by its pull-up (R23); one driven to one level has that level; one driven to both has the level that came with
the cycle, which no rule gives. DESIGN CHOICE (log entry 22). -/
def State.dataLines (s : State) (e : BusEnd) : Half :=
  let p := s.drivenLines e.answers
  ~~~p.2 ||| p.1 &&& e.contested

/-- The byte on the low data lines at the end phase (R19). -/
def State.lowLines (s : State) (e : BusEnd) : Byte := lowByte (s.dataLines e)

/-- The byte on the high data lines at the end phase. -/
def State.highLines (s : State) (e : BusEnd) : Byte := highByte (s.dataLines e)

/-! ### Stages 4 to 7 -/

/-- The value a FILL takes from the lines: all ones on a wait fault (R97), else what they carry. -/
def State.fillData (s : State) (c : ChanId) (timedOut : Bool) (e : BusEnd) : Half :=
  if isWord c then (if timedOut then 0xFFFF else halfOf (s.lowLines e) (s.highLines e))
  else (if timedOut then 0xFF else s.lowLines e).zeroExtend 16

/-- Stage 4 of a FILL into the mirror store: the byte or word is stored and each byte handed to the fill shipper, the even
one first (R98, R124). -/
def State.storeCardBytes (id : RegionId) (addr : Nat) (bytes : List Byte) (s : State) : State :=
  let off := addr - s.regions[id].fields.base
  let s := { s with store := Memory.writeAll s.store addr bytes }
  s.each (List.range bytes.length) fun i t => t.handByte id (off + i)

/-- The bytes of a value for a channel's width, the low half first. -/
def bytesOf (word : Bool) (v : Half) : List Byte := if word then [lowByte v, highByte v] else [lowByte v]

/-- Stages 5 and 6 on the context, with the reload of auto_init (R99, R100). A BLOCK run closes at its terminal count (R80). R86 has
block_open stay yes where MATCH or FAULT masks a run, and the spec does not say which holds when that is on the terminal transfer.
DEDUCED (log entry 43): the run closes there too, as R80 names the count and not the reason. -/
def Chan.advance (ch : Chan) (addr : Nat) : Chan :=
  let terminal := ch.currentCount = 0
  let ch' :=
    { ch with
      lastSystemAddress := addr
      currentAddress := match ch.step with
        | .up => ch.currentAddress + 1
        | .down => ch.currentAddress - 1
      currentCount := ch.currentCount - 1
      tcFlag := if terminal then true else ch.tcFlag }
  if terminal then
    { ch' with
      currentAddress := if ch.autoInit then ch.baseAddress else ch'.currentAddress
      currentCount := if ch.autoInit then ch.baseCount else ch'.currentCount
      blockOpen := if ch.service = .block then false else ch.blockOpen }
  else ch'

/-- Stage 7: a FILL byte channel's byte equals its match value, the cycle having ended OK (R101). -/
def Chan.matches (ch : Chan) (c : ChanId) (timedOut : Bool) (data : Half) : Bool :=
  ch.kind = .fill && !isWord c && !timedOut && ch.matchByte = some (lowByte data)

/-- The mask reason when a transfer raises one or more of FAULT, MATCH and TERMINAL (R86). -/
def raisedReason (fault matched terminal : Bool) : Option MaskReason :=
  if fault then some .fault else if matched then some .matched else if terminal then some .terminal else none

/-- What the service mode makes of the channel at the end of a transfer that raised no mask (R79, R80). `terminal` is a
reloaded terminal count. -/
def Chan.afterTransfer (ch : Chan) (terminal : Bool) : Chan :=
  match ch.service with
  | .single | .demand => if ch.request then ch else { ch with state := .ready }
  | .block => if terminal && !ch.request then { ch with state := .ready } else ch
  | .cascade => ch

/-- Stages 4 to 7, the causes and the mask of a transfer that ends, all together (R92, R97 to R101, R86). -/
def State.settleTransfer (t : Transfer) (timedOut : Bool) (e : BusEnd) (s : State) : State :=
  let c := t.ch
  let ch := s.chans[c]
  let data := s.fillData c timedOut e
  let terminal := ch.currentCount = 0
  let hit := ch.matches c timedOut data
  let s := match ch.kind, t.target with
    | .fill, .mirror id => s.storeCardBytes id t.sysAddr (bytesOf (isWord c) data)
    | _, _ => s
  let s := (s.modChan c (·.advance t.sysAddr)).modArb fun a => { a with burstCount := a.burstCount + 1 }
  let s := s.trickleUpdate
  let s := match ch.kind, t.target with
    | .fill, .mirror id => s.thresholdCheck id
    | _, _ => s
  let s := if terminal && ch.notifyTerminal then s.addCause c .terminal else s
  let s := if hit then s.addCause c .matched else s
  let s := if timedOut then s.addCause c (.fault .wait t.sysAddr) else s
  match raisedReason timedOut hit (terminal && !ch.autoInit), ch.maskPending with
  | some r, _ => s.maskChan c r
  | none, some r => s.maskChan c r
  | none, none => s.modChan c (·.afterTransfer terminal)

/-- The tenure goes on after a transfer (R44, R46, R79, R80): not under SINGLE, not at the burst cap, not after a terminal
count, not once the channel has left SERVING, not while a refresh is urgent. -/
def State.tenureGoesOn (s : State) (c : ChanId) (terminal : Bool) : Bool :=
  s.chans[c].state = .serving && (s.chans[c].service = .demand || s.chans[c].service = .block) &&
    !terminal && s.arb.burstCount < s.arb.burstCap && s.arb.owed < 4

end Sys2Proof.Machine
end

