-- ==== Sys2Proof/Machine/Accesses.lean ====
section
/-! DEFINITION. Accesses of the cycle engine: the governing port rule (R31), the resolution of width (R24 to R29), the end of
the first and of the last cycle (R22, R23, R30), and what the part drives on the bus meanwhile (R19, R20, R51, R96). -/

namespace Sys2Proof.Machine

/-- The entry of the port rule table whose range contains a port (R31). -/
def State.ruleFor (s : State) (port : Nat) : Option PortRule :=
  s.rules.find? fun r => r.first.toNat ≤ port && port ≤ r.last.toNat

/-- How a 16-bit I/O access resolves (R26 to R28); without a rule, width AUTO and odd SPLIT (R31). -/
def ioPlan (rule : Option PortRule) (port : Nat) : Plan :=
  if port % 2 = 1 then
    match rule.map PortRule.odd with
    | some .refuse => .refused
    | _ => .two8
  else
    match rule.map PortRule.width with
    | some .force8 => .two8
    | some .force16 => .one16
    | _ => .bySelect

/-- The wait limit of a port's cycles: the rule's, or the bus default when it is 0 or no rule covers the port (R20). -/
def ruleLimit (rule : Option PortRule) (dflt : Nat) : Nat :=
  match rule with
  | some r => if r.waitLimit = 0 then dflt else r.waitLimit
  | none => dflt

/-- An I/O access as it begins (R24, R25 to R28). -/
def State.ioAccess (s : State) (write wide : Bool) (port : Nat) (value : Half) : Access where
  space := .io
  write := write
  addr := port
  value := value
  plan := if wide then ioPlan (s.ruleFor port) port else .one8
  waits8 := s.bus.wait8io
  waits16 := s.bus.wait16io
  limit := ruleLimit (s.ruleFor port) s.bus.waitLimit
  clock := s.bus.clock

/-- A memory access as it begins (R24, R25, R29). -/
def State.memAccess (s : State) (write wide : Bool) (addr : Nat) (value : Half) : Access where
  space := .mem
  write := write
  addr := addr
  value := value
  plan := if !wide then .one8 else if addr % 2 = 1 then .two8 else .bySelect
  waits8 := s.bus.wait8mem
  waits16 := s.bus.wait16mem
  limit := s.bus.waitLimit
  clock := s.bus.clock

/-- The access an entry asks for (R56, R57). -/
def State.entryAccess (s : State) (e : RawEntry) (op : Op) : Access :=
  if op.isMemory then s.memAccess op.isWrite op.isWide (entryAddress e) e.a
  else s.ioAccess op.isWrite op.isWide (entryPort e) e.a

/-- The address of the cycle an access is in: the second of two follows at the next port modulo 65,536, or the next address
modulo 16,777,216 (R26, R29). -/
def Access.cycleAddr (a : Access) : Nat :=
  if a.second then (a.addr + 1) % (match a.space with | .io => Config.portSpace | .mem => Config.addressSpace)
  else a.addr

/-- How an access ended: the value of a read, the outcome (OK, TIMEOUT or ALIGN), and the last cycle's length in clocks,
none where no cycle was performed. -/
structure AccessEnd where
  value : Half
  status : Status
  clocks : Option Nat
deriving DecidableEq, Repr

/-- How an access stands resolved once the select has been sampled, at the end of the first address phase: under AUTO and at an even
memory address one 16-bit cycle if a slot connected then asserts the select, two 8-bit cycles if none does (R12, R19, R27, R29). -/
def State.resolved (s : State) (a : Access) (e : BusEnd) : Plan :=
  match a.plan with
  | .bySelect => if s.finds a.switched e.select then .one16 else .two8
  | p => p

/-- The first cycle of an access resolved into two ends and the second follows (R30). An access resolved otherwise has no such
moment. -/
def State.firstCycleEnd (s : State) (a : Access) (e : BusEnd) : Option (Access × Nat) :=
  if a.second then none
  else if s.resolved a e = .two8 then
    let held := s.readyHeld a.switched e
    let out := cycleTimesOut a.timedOut a.waits8 a.limit a.clock held
    some ({ a with
        plan := .two8, second := true, timedOut := false, switched := []
        firstByte := if out then 0xFF else s.lowLines e
        firstTimedOut := out },
      cycleClocks out a.waits8 a.limit a.clock held)
  else none

/-- The access ends with its last cycle (R25 to R30); `none` while the first of two cycles is still to end. -/
def State.accessEnd (s : State) (a : Access) (e : BusEnd) : Option AccessEnd :=
  let held := s.readyHeld a.switched e
  let out8 := cycleTimesOut a.timedOut a.waits8 a.limit a.clock held
  let out16 := cycleTimesOut a.timedOut a.waits16 a.limit a.clock held
  let lo : Byte := if out8 then 0xFF else s.lowLines e
  match s.resolved a e with
  | .refused => some ⟨0, .align, none⟩
  | .one8 =>
    some ⟨lo.zeroExtend 16, if out8 then .timeout else .ok, some (cycleClocks out8 a.waits8 a.limit a.clock held)⟩
  | .one16 | .bySelect =>
    some ⟨if out16 then 0xFFFF else halfOf (s.lowLines e) (s.highLines e), if out16 then .timeout else .ok,
      some (cycleClocks out16 a.waits16 a.limit a.clock held)⟩
  | .two8 =>
    if a.second then
      some ⟨halfOf a.firstByte lo, if a.firstTimedOut || out8 then .timeout else .ok,
        some (cycleClocks out8 a.waits8 a.limit a.clock held)⟩
    else none

/-- The part's record of a finished cycle: nothing in flight, its length kept. -/
def State.cycleDone (clocks : Option Nat) (s : State) : State :=
  { s with inFlight := .none, orphan := false, lastClocks := clocks.getD s.lastClocks }

/-! ### What the part drives (R19, R20, R47, R51, R96) -/

/-- The address lines, strobes, acknowledge, terminal-count strobe and data the part drives in a command phase. -/
structure Pins where
  addr : Nat
  ioRead : Bool := false
  ioWrite : Bool := false
  memRead : Bool := false
  memWrite : Bool := false
  refresh : Bool := false
  ack : Option ChanId := none
  terminalCount : Bool := false
  data : Option Half := none
deriving DecidableEq, Repr

/-- The data an access's cycle drives for a write: the whole value, or one byte on the low lines (R19). The spec does not say
what the high eight lines carry in an 8-bit write cycle. DESIGN CHOICE (log entry 38): 0x00; in a first cycle whose width the
select still decides, the value's high byte, whatever the select turns out to be. -/
def Access.driven (a : Access) : Option Half :=
  if !a.write then none
  else match a.plan with
  | .one16 | .bySelect => some a.value
  | _ => some ((if a.second then highByte a.value else lowByte a.value).zeroExtend 16)

/-- The pins of an access's cycle (R19). -/
def Access.pins (a : Access) : Pins where
  addr := a.cycleAddr
  ioRead := a.space = .io && !a.write
  ioWrite := a.space = .io && a.write
  memRead := a.space = .mem && !a.write
  memWrite := a.space = .mem && a.write
  data := a.driven

/-- The pins of a transfer's cycle: the strobes of R96's table for a FILL or DRAIN, none for a VERIFY. -/
def Transfer.pins (t : Transfer) : Pins where
  addr := t.sysAddr
  ioRead := t.kind = .fill
  memWrite := t.kind = .fill
  memRead := t.kind = .drain
  ioWrite := t.kind = .drain
  ack := some t.ch
  terminalCount := t.terminal
  data := t.data

/-- What the part drives in the command phase of the cycle in progress; `none` on an idle bus and under a master grant, where
it drives the acknowledge alone (R40, R47). An access refused with ALIGN performs no cycle. -/
def State.pins (s : State) : Option Pins :=
  match s.inFlight with
  | .none => none
  | .access a => if a.plan = .refused then none else some a.pins
  | .transfer t => some t.pins
  | .refresh r => some { addr := r.row, refresh := true, memRead := true }

/-- The acknowledge line the part drives: a transfer's, or the master's for the whole of its tenure (R44, R47). -/
def State.acknowledge (s : State) : Option ChanId :=
  match s.inFlight, s.arb.owner with
  | .transfer t, _ => some t.ch
  | _, .dma c true => some c
  | _, _ => none

/-- What the card in a slot sees of the card bus: the pins of the cycle in progress and the acknowledge while its isolation switches
are closed; with them open no cycle, no strobe, no acknowledge and no refresh cycle (R12). -/
def State.seenBy (s : State) (i : SlotId) : Option Pins × Option ChanId :=
  if s.connected i then (s.pins, s.acknowledge) else (none, none)

end Sys2Proof.Machine
end

