-- ==== Sys2Proof/Machine/Arbitration.lean ====
section
/-! DEFINITION. The bus arbiter: the choice among the claims present (R41, R45), the grant and the start of each kind of tenure
(R43, R44, R47, R51), tenure ends with the yield flag (R45), and the release by a master (R48, R121). -/

namespace Sys2Proof.Machine

/-- A claim on the bus. -/
inductive Claim | refresh | dma (c : ChanId) | timed (t : TimerId) | link | census
deriving DecidableEq, Repr

/-- The first claim of class 3 to 6 (R41): refresh, the timed lane, the link lane, the census. -/
def State.lowerPick (s : State) : Option Claim :=
  if 1 ≤ s.arb.owed then some .refresh
  else match s.timedClaims with
  | some t => some (.timed t)
  | none => if s.linkClaims then some .link else if s.censusClaims then some .census else none

/-- The DMA class (R41, class 2). -/
def State.dmaPick (s : State) : Option Claim := s.servingChan.map .dma

/-- The claim granted at a grant point and the yield flag after it (R41, R45). -/
def State.pick (s : State) : Option Claim × Bool :=
  if 4 ≤ s.arb.owed then (some .refresh, s.arb.yield)
  else if s.arb.yield then
    match s.lowerPick with
    | some k => (some k, false)
    | none => (s.dmaPick, false)
  else (s.dmaPick.orElse fun _ => s.lowerPick, false)

/-- The head batch's entry and operation. -/
def Batch.entry (b : Batch) : Option (RawEntry × Op) :=
  match b.entries[b.next]? with
  | some e => (opOf e.op).map fun op => (e, op)
  | none => none

/-- The entry of a run: its timer's stored batch at `next`. -/
def State.runEntry (s : State) (r : Run) : Option (RawEntry × Op) :=
  match (s.timers[r.timer].batch.getD [])[r.next]? with
  | some e => (opOf e.op).map fun op => (e, op)
  | none => none

/-- Replace the head of a list. -/
def modHead {α : Type} (f : α → α) : List α → List α
  | [] => []
  | x :: xs => f x :: xs

/-- The bus has an owner and its first cycle. -/
def State.own (o : Owner) (f : InFlight) (s : State) : State :=
  (s.modArb fun a => { a with owner := o }) |> fun t => { t with inFlight := f }

/-- The timed lane is granted: its head run's entry is performed within one tenure (R158). -/
def State.grantTimed (t : TimerId) (s : State) : State :=
  match s.lane with
  | r :: _ =>
    match s.runEntry r with
    | some (e, op) =>
      { s with lane := modHead (fun r => { r with step := .cycle }) s.lane }.own (.timed t) (.access (s.entryAccess e op))
    | none => s
  | [] => s

/-- The link lane is granted: its head batch's entry, or POLL read, is performed within one tenure (R62). -/
def State.grantLink (s : State) : State :=
  match s.queue with
  | b :: _ =>
    match b.entry with
    | some (e, op) =>
      { s with queue := modHead (fun b => { b with step := .cycle }) s.queue }.own .link (.access (s.entryAccess e op))
    | none => s
  | [] => s

/-- The census is granted one 8-bit memory read at pos (R70). -/
def State.grantCensus (s : State) : State :=
  s.own .census (.access (s.memAccess false false s.census.pos 0))

/-- Refresh is granted one refresh cycle (R51). -/
def State.grantRefresh (s : State) : State :=
  s.own .refresh (.refresh ⟨s.arb.row, s.bus.wait8mem, s.bus.clock⟩)

/-- A master grant (R47, R120, R121). -/
def State.grantMaster (c : ChanId) (s : State) : State :=
  { (s.modArb fun a => { a with owner := .dma c true, overstaySent := false, grantTime := s.now }) with
    inFlight := .none, openSent := false, written := [] }

/-- A transfer grant (R44): burst_count 0, burst_cap the limit in force; a BLOCK run opens (R80). -/
def State.beginTenure (c : ChanId) (s : State) : State :=
  let s := s.modArb fun a => { a with owner := .dma c false, burstCount := 0, burstCap := s.bus.burst }
  s.modChan c fun ch => { ch with blockOpen := if ch.service = .block then true else ch.blockOpen }

/-- A grant point (R41). An address fault on the first transfer ends the tenure at once and the arbiter grants again (R95);
each such fault masks a channel, so the fuel of 8 (seven channels and one more) is never used up. -/
def State.grant : Nat → State → State
  | 0, s => s.modArb fun a => { a with owner := .none }
  | n + 1, s =>
    let p := s.pick
    let s := s.modArb fun a => { a with owner := .none, yield := p.2 }
    match p.1 with
    | none => s
    | some .refresh => s.grantRefresh
    | some (.timed t) => s.grantTimed t
    | some .link => s.grantLink
    | some .census => s.grantCensus
    | some (.dma c) =>
      if s.chans[c].service = .cascade then s.grantMaster c
      else
        let r := (s.beginTenure c).startTransfer c
        if r.2 then r.1 else State.grant n r.1

/-- A tenure ends, whatever its claimant, and the arbiter grants the bus again (R40). -/
def State.grantPoint (s : State) : State := s.grant 8

/-- The cycle that a DEVICE_RESET left in flight has ended (R38, R54): the settings and the port rules take their power-on values
after it, and the bus is free for a grant point. DESIGN CHOICE (log entry 21): also where a BUS_SET or PORT_RULE_SET was taken
meanwhile; one that had stopped the refresh timer has it started again. -/
def State.orphanEnd (s : State) : State :=
  let b : BusSettings := {}
  let s := s.modArb fun a => { a with refreshAt := if s.bus.refresh then a.refreshAt else some (refreshFrom s.now b.period) }
  { s with bus := b, rules := [] }.grantPoint

/-- A claim appears while owner is none: it is granted at once (R40). With a tenure in progress it waits for its end. -/
def State.arbitrate (s : State) : State :=
  if s.arb.owner = .none && s.anyClaim then s.grantPoint else s

/-- A tenure under SINGLE, DEMAND or BLOCK ends (R45): yield is set if it reached its cap, one transfer under SINGLE, with a
claim of class 3 to 6 waiting. -/
def State.endDmaTenure (c : ChanId) (s : State) : State :=
  let cap := if s.chans[c].service = .single then 1 else s.arb.burstCap
  (s.modArb fun a => { a with yield := a.yield || (cap ≤ a.burstCount && s.lowerClaim) }).grantPoint

/-- The written regions in the order they are handed on: by a rank the spec leaves free (log entry 6). -/
def rankInsert (rank : Nat → Nat) (x : RegionId) : List RegionId → List RegionId
  | [] => [x]
  | y :: ys => if rank x.val ≤ rank y.val then x :: y :: ys else y :: rankInsert rank x ys

/-- The end of a grant: every region the master wrote gets a flush pass, and the set becomes empty (R121, R133). -/
def State.handOn (s : State) : State :=
  let ids := s.written.foldr (rankInsert (Config.handOnRank s.free)) []
  { s with written := [], free := s.free + 1 }.each ids State.trigger

/-- The master's request is deasserted (R48, R81): the channel enters READY, or MASKED with its pending reason; the written
regions are handed on; the arbiter grants. -/
def State.masterRelease (c : ChanId) (s : State) : State :=
  let s := match s.chans[c].maskPending with
    | some r => s.modChan c fun ch => { ch with state := .masked, maskReason := some r, maskPending := none }
    | none => s.modChan c fun ch => { ch with state := .ready }
  s.handOn.grantPoint

end Sys2Proof.Machine
end

