-- ==== Sys2Proof/Machine/Batches.lean ====
section
/-! DEFINITION. The cycle queue (chapter 4): acceptance (R59 to R61), the running batch (R62, R63), POLL and DELAY (R57, R58),
the end of a batch (R64), cancellation (R65) and the link reset's discard (R67), with the commands that end its entries. -/

namespace Sys2Proof.Machine

/-- The batch begins its entry `next` (R62): a DELAY runs from now, any other entry claims the bus. -/
def Batch.begin (b : Batch) (now : Time) : Batch :=
  match b.entry with
  | some (e, .delay) => { b with step := .delay, waitEnd := some ⟨now, e.a.toNat⟩ }
  | _ => { b with step := .claiming, pollTries := 0, pollLast := 0, waitEnd := none }

/-- The head of the queue becomes RUNNING (R61, R62). -/
def State.startHead (s : State) : State := { s with queue := modHead (·.begin s.now) s.queue }

/-- The replies of batches cancelled while QUEUED follow the running one's, in the order the batches were accepted (R65). -/
def State.answerCancelled (s : State) : State :=
  { s with cancelled := [] }.each s.cancelled fun tag t => t.reply kBatch tag .cancelled (.batch 0 255 [])

/-- The head batch, as it now stands, ends and leaves the queue (R64, R65, R67): its reply is placed unless it is posted and
OK, when its reservation is released; a discarded batch has no reply. The next batch begins after that. -/
def State.endBatch (stop : Nat) (s : State) : State :=
  match s.queue with
  | [] => s
  | b :: rest =>
    let s := if b.discard then s
      else if b.posted && b.status = .ok then s.release
      else s.reply kBatch b.tag b.status (.batch b.next stop b.results)
    { s.answerCancelled with queue := rest }.startHead

/-- Change the head batch. -/
def State.modBatch (f : Batch → Batch) (s : State) : State := { s with queue := modHead f s.queue }

/-- stop_index of a batch that ended without fault. -/
abbrev noStop : Nat := 255

/-- The head batch's entry has ended without fault (R62, R65): it counts as done, and the batch goes on, ends, or stops because
it is cancelled. -/
def State.entryDone (s : State) : State :=
  let s := s.modBatch fun b => { b with next := b.next + 1 }
  match s.queue with
  | [] => s
  | b :: _ =>
    if b.discard then s.endBatch noStop
    else if b.cancel then (s.modBatch fun b => { b with status := .cancelled }).endBatch noStop
    else if b.next < b.entries.length then s.startHead
    else s.endBatch noStop

/-- The head batch stops at its entry with a fault (R63). -/
def State.entryFault (st : Status) (s : State) : State :=
  match s.queue with
  | [] => s
  | b :: _ => (s.modBatch fun b => { b with status := st }).endBatch b.next

/-- The head batch's entry is abandoned by the cancellation (R65): the stop index is the entry's, or none for a batch that was
still claiming. -/
def State.abandonEntry (stop : Nat) (s : State) : State :=
  (s.modBatch fun b => { b with status := .cancelled }).endBatch stop

/-- A result joins the head batch's results. -/
def State.addResult (r : EntryResult) (s : State) : State := s.modBatch fun b => { b with results := b.results ++ [r] }

/-- The access of an IN, OUT, MRD or MWR entry has ended (R56, R62, R63). -/
def State.finishEntry (op : Op) (r : AccessEnd) (s : State) : State :=
  let s := if op.isWrite then s else s.addResult (.word r.value)
  if r.status = .ok then s.entryDone else s.entryFault r.status

/-- For POLL8 only the low bytes of mask and expected take part (R57). -/
def pollMatches (op : Op) (e : RawEntry) (v : Half) : Bool :=
  if op = .poll8 then lowByte v &&& lowByte e.a = lowByte e.b else v &&& e.a = e.b

/-- A POLL read has ended (R57, R63, R65). -/
def State.finishPoll (e : RawEntry) (op : Op) (r : AccessEnd) (s : State) : State :=
  let s := if r.status = .align then s
    else s.modBatch fun b => { b with pollTries := b.pollTries + 1, pollLast := r.value }
  match s.queue with
  | [] => s
  | b :: _ =>
    let result := EntryResult.poll b.pollLast b.pollTries
    if r.status ≠ .ok then (s.addResult result).entryFault r.status
    else if pollMatches op e r.value then (s.addResult result).entryDone
    else if e.c.toNat ≤ b.pollTries then
      if entryStrict e then (s.addResult result).entryFault .expired else (s.addResult result).entryDone
    else if b.discard then s.endBatch noStop
    else if b.cancel then (s.addResult result).abandonEntry b.next
    else if entryInterval e = 0 then s.modBatch fun b => { b with step := .claiming }
    else s.modBatch fun b => { b with step := .pollWait, waitEnd := some ⟨s.now, entryInterval e * 10⟩ }

/-- BATCH_ENTRY_END: a batch entry's access ends (R62 to R66); with the access of a POLL it has nothing to do. -/
def execBatchEntryEnd (e : BusEnd) (s : State) : Host.Outcome State Fault Refusal :=
  match s.inFlight, s.arb.owner with
  | .access a, .link =>
    match s.accessEnd a e with
    | none => .next s
    | some r =>
      if s.orphan then .next (s.cycleDone r.clocks).orphanEnd
      else match s.queue.head?.bind Batch.entry with
      | some (_, op) =>
        if op.isPoll then .next s
        else .next ((s.cycleDone r.clocks).finishEntry op r).grantPoint
      | none => .next s
  | _, _ => .next s

/-- POLL_READ_END: a POLL read ends (R57). -/
def execPollReadEnd (e : BusEnd) (s : State) : Host.Outcome State Fault Refusal :=
  match s.inFlight, s.arb.owner with
  | .access a, .link =>
    match s.accessEnd a e with
    | none => .next s
    | some r =>
      if s.orphan then .next (s.cycleDone r.clocks).orphanEnd
      else match s.queue.head?.bind Batch.entry with
      | some (en, op) =>
        if op.isPoll then .next ((s.cycleDone r.clocks).finishPoll en op r).grantPoint
        else .next s
      | none => .next s
  | _, _ => .next s

/-- POLL_INTERVAL_EXPIRY: the next read claims the bus (R57). -/
def execPollIntervalExpiry (s : State) : Host.Outcome State Fault Refusal :=
  match s.queue with
  | b :: _ =>
    if b.step = .pollWait && reachedBy b.waitEnd s.now then
      .next (s.modBatch fun b => { b with step := .claiming, waitEnd := none }).arbitrate
    else .next s
  | [] => .next s

/-- DELAY_EXPIRY: the delay has run out, the next entry claims the bus or the batch ends (R58). -/
def execDelayExpiry (s : State) : Host.Outcome State Fault Refusal :=
  match s.queue with
  | b :: _ =>
    if b.step = .delay && reachedBy b.waitEnd s.now then .next (s.entryDone).arbitrate else .next s
  | [] => .next s

/-- ACCESS_FIRST_CYCLE_END: the first cycle of an access resolved into two ends and the second follows at once within the same
tenure (R24, R30). -/
def execAccessFirstCycleEnd (e : BusEnd) (s : State) : Host.Outcome State Fault Refusal :=
  match s.inFlight with
  | .access a =>
    match s.firstCycleEnd a e with
    | some (a', clocks) => .next { s with inFlight := .access a', lastClocks := clocks }
    | none => .next s
  | _ => .next s

/-- WAIT_LIMIT_EXPIRY: ready is still held, by the card of the slot named, when the wait limit of the cycle in progress is
reached (R22). A refresh cycle does not sample ready (R20), an isolated slot cannot hold it (R12). -/
def execWaitLimitExpiry (slot : SlotId) (s : State) : Host.Outcome State Fault Refusal :=
  if !s.connected slot then .next s
  else match s.inFlight with
  | .access a => .next (if a.plan = .refused then s else { s with inFlight := .access { a with timedOut := true } })
  | .transfer t => .next { s with inFlight := .transfer { t with timedOut := true } }
  | _ => .next s

/-! ### Requests -/

/-- The OUT entries of a batch are governed by no DENY rule in the table as it stands (R60). -/
def State.mayPost (s : State) (es : List RawEntry) : Bool :=
  es.all fun e => match opOf e.op with
    | some .out8 | some .out16 => (s.ruleFor (entryPort e)).all fun r => r.post = .allow
    | _ => true

/-- A batch handed to the cycle engine: refused by R59, or accepted at the tail of the queue, at once the head of an empty
one (R60, R61). -/
def serveBatch (h : Hdr) (es : List RawEntry) (s : State) : State :=
  match batchFault es with
  | some i => s.reply kBatch h.tag .range (.batch 0 i [])
  | none =>
    let b : Batch := { tag := h.tag, entries := es, posted := h.posted && s.mayPost es }
    let s' := { s with queue := s.queue ++ [b] }
    (if s.queue.isEmpty then s'.startHead else s').arbitrate

/-- Watchdog stage 2 on the cycle queue (R65): QUEUED batches leave at once with their replies held; the running one stops
where it stands, or at the end of its access. -/
def State.cancelBatches (s : State) : State :=
  match s.queue with
  | [] => s
  | b :: rest =>
    let s := { s with
      cancelled := s.cancelled ++ rest.map Batch.tag
      queue := [{ b with cancel := true }] }
    if b.discard then s
    else match b.step with
      | .claiming => s.abandonEntry noStop
      | .pollWait => (s.addResult (.poll b.pollLast b.pollTries)).abandonEntry b.next
      | .delay => s.abandonEntry b.next
      | .cycle => s

/-- A link reset on the cycle queue (R67): every batch leaves without a reply, the running one after its access in flight. -/
def State.discardBatches (s : State) : State :=
  { s with
    cancelled := []
    queue := match s.queue with
      | b :: _ => if b.step = .cycle then [{ b with discard := true }] else []
      | [] => [] }

end Sys2Proof.Machine
end

