-- ==== Sys2Proof/Machine/Timers.lean ====
section
/-! DEFINITION. Interval timers (chapter 10): the count (R152), expiry (R153), the TIMER requests (R154 to R157), timed runs
(R158), TIMER notices (R159), and what watchdog stage 1 and a link reset do (R160, R161). -/

namespace Sys2Proof.Machine

/-! ### Notices and expiries -/

/-- A TIMER notice is produced (R159): expiries becomes 0; a held notice is replaced and counted. -/
def Timer.produce (t : Timer) (time : Time) (run : Option RunReport) : Timer :=
  let replaced := match t.heldNotice with
    | some n => satInc 255 n.replaced
    | none => 0
  { t with expiries := 0, heldNotice := some ⟨time, t.overrun, t.expiries, run, replaced⟩ }

/-- The timer's own part of an expiry (R153): fired, expiries, reload or gate off, and overrun when a run of its batch is
still in the lane. -/
def Timer.expire (t : Timer) (run : RunState) : Timer :=
  { t with
    fired := true
    expiries := satInc 255 t.expiries
    overrun := t.overrun || (t.batch.isSome && run ≠ .absent)
    counter := match t.mode with
      | .periodic => t.holding
      | .oneShot => 0
    gate := match t.mode with
      | .periodic => t.gate
      | .oneShot => false
    due := false }

/-- TIMER_EXPIRY: a gated counter that stood at 0 expires (R152, R153). -/
def execTimerExpiry (t : TimerId) (s : State) : Host.Outcome State Fault Refusal :=
  if s.timers[t].gate && s.timers[t].due then
    let run := s.runState t
    let s := s.modTimer t fun r => r.expire run
    match s.timers[t].batch with
    | none => .next (if s.timers[t].notify then s.modTimer t fun r => r.produce s.now none else s)
    | some _ =>
      if run = .absent then
        let r : Run := { timer := t, expiry := s.now }
        .next { s with lane := s.lane ++ [r] }.arbitrate
      else .next s
  else .next s

/-- One microsecond of the count (R152): a gated counter decreases, or stands at 0 and is due to expire. -/
def Timer.tick (t : Timer) : Timer :=
  if t.gate then (if t.counter = 0 then { t with due := true } else { t with counter := t.counter - 1 }) else t

/-! ### Timed runs (R158) -/

/-- The head run ends and leaves the lane; its timer produces its notice if notify is yes at that moment (R158, R159). A
discarded run produces none (R161). DEDUCED (log entry 41): a TIMER_LOAD that sets notify to no during the run leaves it without
a notice; R154 says both that such a load does not stop the notice and that notify is read when it would be produced. -/
def State.endRun (stop : Nat) (s : State) : State :=
  match s.lane with
  | [] => s
  | r :: rest =>
    let s := { s with lane := rest }
    if !r.discard && s.timers[r.timer].notify then
      s.modTimer r.timer fun t => t.produce r.expiry (some ⟨r.status, r.done, stop, r.results⟩)
    else s

/-- Change the head run. -/
def State.modRun (f : Run → Run) (s : State) : State := { s with lane := modHead f s.lane }

/-- The access of the head run's entry has ended (R158). -/
def State.finishRunEntry (op : Op) (a : AccessEnd) (s : State) : State :=
  let s := if op.isWrite then s else s.modRun fun r => { r with results := r.results ++ [.word a.value] }
  match s.lane with
  | [] => s
  | r :: _ =>
    if r.discard then s.endRun noStop
    else if a.status = .ok then
      let s := s.modRun fun r => { r with done := r.done + 1, next := r.next + 1, step := .claiming }
      if r.next + 1 < (s.timers[r.timer].batch.getD []).length then s else s.endRun noStop
    else (s.modRun fun r => { r with status := a.status }).endRun r.next

/-- TIMED_ENTRY_END: a timed run's entry access ends (R158). -/
def execTimedEntryEnd (e : BusEnd) (s : State) : Host.Outcome State Fault Refusal :=
  match s.inFlight, s.arb.owner with
  | .access a, .timed _ =>
    match s.accessEnd a e with
    | none => .next s
    | some r =>
      if s.orphan then .next (s.cycleDone r.clocks).orphanEnd
      else match s.lane.head?.bind s.runEntry with
      | some (_, op) => .next ((s.cycleDone r.clocks).finishRunEntry op r).grantPoint
      | none => .next s
  | _, _ => .next s

/-! ### Requests -/

/-- The timer a request names, or RANGE before any other check (R152). -/
def State.withTimer (kind : Nat) (h : Hdr) (n : Nat) (f : TimerId → State → State) (s : State) : State :=
  match timerOf n with
  | none => s.refuse kind h.tag .range
  | some t => f t s

/-- A timer's record as a reply carries it: of a held notice only that there is one (R157). -/
def Timer.reported (t : Timer) : Timer := { t with heldNotice := none, due := false }

/-- The reply that carries a timer's record as it stands (R154, R155). The rules give it no timer number. DESIGN CHOICE (log entry 46):
it carries the number too, as TIMER_QUERY's does. -/
def State.replyTimer (kind tag : Nat) (t : TimerId) (s : State) : State :=
  s.reply kind tag .ok (.timer t.val s.timers[t].reported (s.runState t) s.timers[t].heldNotice.isSome)

def serveTimerLoad (h : Hdr) (n count : Nat) (mode : Option TimerMode) (notify : Nat) : State → State :=
  State.withTimer kTimerLoad h n fun t s =>
    match mode with
    | none => s.refuse kTimerLoad h.tag .range
    | some m =>
      if 16777215 < count then s.refuse kTimerLoad h.tag .range
      else if s.timers[t].gate && s.timers[t].mode = .periodic then s.refuse kTimerLoad h.tag .busy
      else (s.modTimer t fun r =>
        { r with counter := count, holding := count, mode := m, notify := notify ≠ 0, due := false }).replyTimer
          kTimerLoad h.tag t

/-- The gate takes the value given; a stopped counter is no longer due (R153, R155). -/
def Timer.setGate (r : Timer) (on : Bool) : Timer := { r with gate := on, due := r.due && on }

def serveTimerGate (h : Hdr) (n gate clearFired clearOverrun : Nat) : State → State :=
  State.withTimer kTimerGate h n fun t s =>
    (s.modTimer t fun r =>
      let r := r.setGate (gate ≠ 0)
      { r with
        fired := if clearFired ≠ 0 then false else r.fired
        overrun := if clearOverrun ≠ 0 then false else r.overrun }).replyTimer kTimerGate h.tag t

def serveTimerBatch (h : Hdr) (n : Nat) (es : List RawEntry) : State → State :=
  State.withTimer kTimerBatch h n fun t s =>
    if !es.all timedOpOk then s.refuse kTimerBatch h.tag .range
    else if !es.all addressOk then s.refuse kTimerBatch h.tag .range
    else if s.runState t ≠ .absent then s.refuse kTimerBatch h.tag .busy
    else
      (s.modTimer t fun r => { r with batch := if es.isEmpty then none else some es }).reply kTimerBatch h.tag .ok
        (.stored es.length)

/-- The index of the next entry of a timer's RUNNING run (R157). -/
def State.runNext (s : State) (t : TimerId) : Option Nat :=
  match s.lane with
  | r :: _ => if r.timer = t then some r.next else none
  | [] => none

/-- TIMER_QUERY (R157). DESIGN CHOICE (log entry 46): its reply carries the timer's number beside R157's list. -/
def serveTimerQuery (h : Hdr) (n : Nat) : State → State :=
  State.withTimer kTimerQuery h n fun t s =>
    (s.reply kTimerQuery h.tag .ok
      (.timerQuery t.val s.timers[t].reported (s.runState t) (s.runNext t) s.timers[t].heldNotice.isSome)).modTimer t
        fun r => { r with fired := false }

/-! ### Watchdog and link reset -/

/-- Every timer's gate becomes off (R160, R161). -/
def State.gatesOff (s : State) : State := { s with timers := s.timers.map (·.setGate false) }

/-- The timed lane is emptied; a run whose access is in flight stops at its end (R161). -/
def State.discardRuns (s : State) : State :=
  { s with
    lane := match s.lane with
      | r :: _ => if r.step = .cycle then [{ r with discard := true }] else []
      | [] => [] }

end Sys2Proof.Machine
end

