-- ==== Sys2Proof/Machine/CensusScan.lean ====
section
/-! DEFINITION. The ROM census (chapter 4, section 4.5): start and stop (R69, R75), reads (R70 to R72), findings (R73), the end
of the scan (R74) and what the resets and the watchdog do (R76). -/

namespace Sys2Proof.Machine

/-- 1 MiB: a census probes and reads below it (R69, R72). -/
abbrev censusTop : Nat := 0x100000

/-- The CENSUS_END notice is placed, the census becomes IDLE, and the waiting stops are answered (R74). -/
def State.admitCensusEnd (s : State) : State :=
  let c := s.census
  let s := s.notice (.censusEnd c.findings c.bytesRead c.timedOut c.reason)
  (s.modCensus fun c => { c with state := .idle, stopWaiters := [] }).each c.stopWaiters
    fun tag t => t.reply kCensusStop tag .ok .empty

/-- The held finding is placed; a PAUSED census returns to SCANNING and claims its next read (R73). -/
def State.admitCensusFind (s : State) : State :=
  match s.census.heldFind with
  | none => s
  | some f =>
    ((s.notice (.censusFind f)).modCensus fun c =>
      { c with heldFind := none, state := if c.state = .paused then .scanning else c.state }).arbitrate

/-- A census notice just produced is offered to the link unit at once (R73, R74). -/
def State.offerCensus (s : State) : State :=
  if s.link.canAdmit then
    match s.firstClaimant with
    | some .censusEnd => s.admitCensusEnd
    | _ => s
  else s

/-- The scan is over (R74): reason DONE, or the reason a stop has set (R75). With a finding held too the state is ENDING (log
entry 36). -/
def Census.finish (c : Census) : Census :=
  { c with state := .ending, reason := some (c.reason.getD .done) }

/-- The next probe, at or past the end of the range or not; the scan goes on in phase SIGNATURE (R71, R72). -/
def Census.nextProbe (c : Census) (step : Nat) : Census :=
  let c := { c with probe := c.probe + step, pos := c.probe + step, phase := .signature }
  if c.past ≤ c.probe then c.finish else c

/-- A finding is produced (R73) and the probe moves on. -/
def Census.find (c : Census) (sum : Byte) (v : Validity) (step : Nat) : Census :=
  { c with findings := c.findings + 1, heldFind := some ⟨c.probe, c.len, sum, v⟩ }.nextProbe step

/-- The length of a ROM rounded up to a multiple of 2 KiB: the step to the next probe (R72). -/
def romStep (len : Nat) : Nat := (len * 512 + 2047) / 2048 * 2048

/-- The byte read is taken by the present phase (R71, R72). -/
def Census.takeByte (c : Census) (b : Byte) : Census :=
  match c.phase with
  | .signature =>
    if c.pos = c.probe then { c with sig := b, pos := c.probe + 1 }
    else if c.sig = 0x55 && b = 0xAA then { c with sum := 0xFF, phase := .length, pos := c.probe + 2 }
    else c.nextProbe 0x800
  | .length =>
    let c := { c with len := b.toNat, sum := c.sum + b }
    if b = 0 then c.find c.sum .invalid 0x800 else { c with phase := .body, pos := c.probe + 3 }
  | .body =>
    let c := { c with sum := c.sum + b, pos := c.pos + 1 }
    if c.pos = c.probe + c.len * 512 then
      c.find c.sum (if c.sum = 0 then .valid else .invalid) (romStep c.len)
    else if c.pos = censusTop then c.find c.sum .truncated (romStep c.len)
    else c

/-- What a census read leaves of a census that a stop may have ended meanwhile (R73, R75). -/
def Census.afterRead (c : Census) : Census :=
  if c.reason.isSome then c.finish
  else if c.heldFind.isSome then { c with state := .paused }
  else c

/-- A census read ends (R70): counted, the byte taken, all ones on a TIMEOUT. -/
def Census.readEnd (c : Census) (b : Byte) (timedOut : Bool) : Census :=
  { c with bytesRead := c.bytesRead + 1, timedOut := if timedOut then c.timedOut + 1 else c.timedOut }.takeByte b

/-- The finding just produced is offered at once: admitted if there is room and no claimant before it, held otherwise, when the
census pauses (R73). A scan that has come to its end offers its CENSUS_END notice next (R74). -/
def State.offerFinding (s : State) : State :=
  let s := if s.link.canAdmit && s.firstClaimant = some .censusFind then
      match s.census.heldFind with
      | some f => (s.notice (.censusFind f)).modCensus fun c => { c with heldFind := none }
      | none => s
    else s
  s

/-- The read that a link reset left in flight has completed, and the census is IDLE (R76): a CENSUS_STOP that came since then is
answered, as one that finds it IDLE is (R75; log entry 20). -/
def State.abandonCensus (s : State) : State :=
  (s.modCensus fun c => { c with state := .idle, heldFind := none, stopWaiters := [], abandon := false }).each
    s.census.stopWaiters fun tag t => t.reply kCensusStop tag .ok .empty

/-- CENSUS_READ_END: a census read ends (R70 to R75). DEDUCED (log entry 29): the read that a link reset left in flight is taken
whole, so that bytes_read, timed_out, findings and probe move as for any read, though a finding it makes is discarded (R76). -/
def execCensusReadEnd (e : BusEnd) (s : State) : Host.Outcome State Fault Refusal :=
  match s.inFlight, s.arb.owner with
  | .access a, .census =>
    match s.accessEnd a e with
    | none => .next s
    | some r =>
      if s.orphan then .next (s.cycleDone r.clocks).orphanEnd
      else
        let s := (s.cycleDone r.clocks).modCensus fun c => c.readEnd (lowByte r.value) (r.status = .timeout)
        .next (if s.census.abandon then s.abandonCensus
          else (s.offerFinding.modCensus Census.afterRead).offerCensus).grantPoint
  | _, _ => .next s

/-! ### Requests, watchdog and resets -/

def serveCensusStart (h : Hdr) (first past : Nat) (s : State) : State :=
  if first % 0x800 ≠ 0 || past % 0x800 ≠ 0 || past ≤ first || censusTop < past then s.refuse kCensusStart h.tag .range
  else if s.census.state ≠ .idle then s.refuse kCensusStart h.tag .busy
  else
    ((s.modCensus fun c =>
      { c with
        state := .scanning, first := first, past := past, probe := first, pos := first, phase := .signature
        findings := 0, bytesRead := 0, timedOut := 0, reason := none, stopWaiters := [] }).reply
          kCensusStart h.tag .ok .empty).arbitrate

/-- The census's read is in flight: it owns the bus. -/
def State.censusReading (s : State) : Bool := s.arb.owner = .census && !s.orphan

/-- A census in progress is stopped (R75): a read in flight completes first, a scan already ending keeps its reason. -/
def State.stopCensus (s : State) : State :=
  match s.census.state with
  | .idle | .ending => s
  | .scanning =>
    if s.censusReading then s.modCensus fun c => { c with reason := some .stopped }
    else s.modCensus fun c => { c with reason := some .stopped, state := .ending }
  | .paused => s.modCensus fun c => { c with reason := some .stopped, state := .ending }

def serveCensusStop (h : Hdr) (s : State) : State :=
  match s.census.state with
  | .idle => s.reply kCensusStop h.tag .ok .empty
  | _ => (s.modCensus fun c => { c with stopWaiters := c.stopWaiters ++ [h.tag] }).stopCensus.offerCensus

/-- A link reset ends the census without a notice; a read in flight completes (R76). -/
def State.linkResetCensus (s : State) : State :=
  if s.census.state = .idle then s.modCensus fun c => { c with stopWaiters := [] }
  else if s.censusReading then
    s.modCensus fun c => { c with heldFind := none, stopWaiters := [], abandon := true }
  else s.modCensus fun c => { c with state := .idle, heldFind := none, stopWaiters := [] }

end Sys2Proof.Machine
end

