-- ==== Sys2Proof/Machine/Channels.lean ====
section
/-! DEFINITION. The DMA controller's commands: TRANSFER_END (R92 to R103) and the CHAN requests (R82 to R85), CHANNEL notices
(R88), and the masks of watchdog stage 1 and a link reset (R89, R90). -/

namespace Sys2Proof.Machine

/-- The end of a transfer of the owner: its stages, the store work and FILL copies that waited for the boundary, then the next
transfer of the tenure or the tenure's end (R44, R92, R95). The spec does not order the two kinds of waiting work. DESIGN CHOICE
(log entry 17): store work first, then FILL copies, which therefore carry what a MIRROR_PUT that waited has put. -/
def State.endTransfer (t : Transfer) (timedOut : Bool) (e : BusEnd) (s : State) : State :=
  let terminal := s.chans[t.ch].currentCount = 0
  let s := (s.settleTransfer t timedOut e).runStoreWaits.admitFills 33
  if s.tenureGoesOn t.ch terminal then
    let r := s.startTransfer t.ch
    if r.2 then r.1 else r.1.endDmaTenure t.ch
  else s.endDmaTenure t.ch

/-- TRANSFER_END: a transfer's cycle ends (R92). A cycle left by a DEVICE_RESET completes and its outcome is discarded (R38). -/
def execTransferEnd (e : BusEnd) (s : State) : Host.Outcome State Fault Refusal :=
  match s.inFlight with
  | .transfer t =>
    let held := s.readyHeld t.switched e
    let out := cycleTimesOut t.timedOut t.waits t.limit t.clock held
    let s' := s.cycleDone (some (cycleClocks out t.waits t.limit t.clock held))
    if s.orphan then .next s'.orphanEnd else .next (s'.endTransfer t out e)
  | _ => .next s

/-! ### Requests -/

/-- The channel a request names, or RANGE before any other check (R77). -/
def State.withChan (kind : Nat) (h : Hdr) (n : Nat) (f : ChanId → State → State) (s : State) : State :=
  match chanOf n with
  | none => s.refuse kind h.tag .range
  | some c => f c s

/-- The context after a CHAN_LOAD that is taken (R82). -/
def Chan.load (ch : Chan) (p : ChanProgram) (kind : ChanKind) (service : Service) (step : StepDir) : Chan :=
  { ch with
    programmed := true
    kind := kind
    service := service
    autoInit := p.autoInit ≠ 0
    step := step
    page := p.page
    baseAddress := p.baseAddress
    currentAddress := p.baseAddress
    baseCount := p.baseCount
    currentCount := p.baseCount
    matchByte := p.matchByte
    notifyTerminal := p.notify ≠ 0
    tcFlag := false
    blockOpen := false
    causes := {}
    pendingTerminals := 0
    pendingFaults := 0
    faultDetail := none
    faultAddress := none
    awaitedRegions := [] }

def serveChanLoad (h : Hdr) (n : Nat) (p : ChanProgram) : State → State :=
  State.withChan kChanLoad h n fun c s =>
    match p.kind, p.service, p.step with
    | some k, some v, some d =>
      if p.matchByte.isSome && (isWord c || k ≠ .fill) then s.refuse kChanLoad h.tag .range
      else if s.chans[c].state = .serving then s.refuse kChanLoad h.tag .busy
      else ((s.modChan c fun ch => ch.load p k v d).reply kChanLoad h.tag .ok .empty).trickleUpdate
    | _, _, _ => s.refuse kChanLoad h.tag .range

def serveChanMask (h : Hdr) (n : Nat) : State → State :=
  State.withChan kChanMask h n fun c s =>
    if s.chans[c].state = .serving && s.arb.owner.isChan c then
      let s := s.modChan c fun ch => { ch with maskPending := some .host }
      if s.arb.owner.isMaster then s.reply kChanMask h.tag .ok .empty
      else s.modChan c fun ch => { ch with maskWaiters := ch.maskWaiters ++ [h.tag] }
    else
      (s.modChan c fun ch => { ch with state := .masked, maskReason := some .host }).reply kChanMask h.tag .ok .empty

/-- The state a MASKED channel enters when it is unmasked (R84). -/
def Chan.unmask (ch : Chan) : Chan :=
  { ch with
    maskReason := none
    state := if (ch.blockOpen && ch.service = .block) || ch.request then .serving else .ready }

def serveChanUnmask (h : Hdr) (n : Nat) : State → State :=
  State.withChan kChanUnmask h n fun c s =>
    if !s.chans[c].programmed then s.refuse kChanUnmask h.tag .state
    else if s.chans[c].maskPending.isSome then s.refuse kChanUnmask h.tag .busy
    else if s.chans[c].state = .masked then
      ((s.modChan c Chan.unmask).reply kChanUnmask h.tag .ok .empty).arbitrate
    else s.reply kChanUnmask h.tag .ok .empty

/-- The context as CHAN_QUERY carries it. R85 says "every field of the context" and lists them without programmed, mask_waiters
and pending_since. DEDUCED (log entry 42): programmed goes with the nine program fields; the waiting tags and pending_since are
left out, as in the list. -/
def Chan.reported (ch : Chan) : Chan := { ch with maskWaiters := [], pendingSince := 0 }

def serveChanQuery (h : Hdr) (n : Nat) : State → State :=
  State.withChan kChanQuery h n fun c s =>
    (s.reply kChanQuery h.tag .ok
      (.chan s.chans[c].reported (!s.chans[c].awaitedRegions.isEmpty))).modChan c fun ch => { ch with tcFlag := false }

/-! ### CHANNEL notices -/

/-- A channel's CHANNEL notice is built from its context at this moment and placed, and its pending fields are cleared (R88). -/
def State.admitChannel (c : ChanId) (s : State) : State :=
  let ch := s.chans[c]
  let detail := if ch.causes.fault then ch.faultDetail else none
  let addr := if ch.causes.fault then ch.faultAddress else none
  (s.notice (.channel (chanNumber c) ch.causes ch.pendingTerminals ch.pendingFaults detail addr ch.pendingSince ch.state
      ch.maskReason ch.page ch.currentAddress ch.currentCount ch.lastSystemAddress)).modChan c fun ch =>
    { ch with causes := {}, pendingTerminals := 0, pendingFaults := 0, faultDetail := none, faultAddress := none }

/-! ### Watchdog stage 1 and link reset -/

/-- Stage 1 masks a channel with reason QUIET, an owner at the end of its tenure (R89). -/
def State.quietChan (c : ChanId) (s : State) : State :=
  if s.chans[c].state = .masked then s
  else if s.chans[c].state = .serving && s.arb.owner.isChan c then
    s.modChan c fun ch => { ch with maskPending := some .quiet }
  else s.maskChan c .quiet

/-- A link reset masks every channel with reason LINK, an owner at its transfer boundary or the master's release; the masks'
waiters are gone (R90). -/
def State.linkChan (c : ChanId) (s : State) : State :=
  if s.chans[c].state = .serving && s.arb.owner.isChan c then
    s.modChan c fun ch => { ch with maskPending := some .link, maskWaiters := [] }
  else
    s.modChan c fun ch =>
      { ch with state := .masked, maskReason := some .link, maskPending := none, maskWaiters := [] }

end Sys2Proof.Machine
end

