-- ==== Sys2Proof/Machine/Lines.lean ====
section
/-! DEFINITION. The shared request and interrupt lines: the levels every connected slot makes together (R12 to R14), what a
change of level does to a channel (R78 to R81) and to the relay (R140). -/

namespace Sys2Proof.Machine

/-- A channel that does not hold the bus sees its request change (R78 to R81). -/
def Chan.requestChange (ch : Chan) (level : Bool) : Chan :=
  let ch' := { ch with request := level }
  match ch.state with
  | .masked => ch'
  | .ready => if level then { ch' with state := .serving } else ch'
  | .serving =>
    if level then ch'
    else match ch.service with
    | .single | .demand => { ch' with state := .ready }
    | .block => if ch.blockOpen then ch' else { ch' with state := .ready }
    | .cascade =>
      match ch.maskPending with
      | some r => { ch' with state := .masked, maskReason := some r, maskPending := none }
      | none => { ch' with state := .ready }

/-- The channel follows its shared request line. The owner's is recorded and looked at when its transfer ends, or by
`syncRequests` for a master (R79, R81). -/
def State.syncRequest (c : ChanId) (s : State) : State :=
  let level := s.requestLevel c
  if level = s.chans[c].request then s
  else if s.arb.owner.isChan c && s.chans[c].state = .serving then s.modChan c fun ch => { ch with request := level }
  else s.modChan c (·.requestChange level)

/-- Every channel follows its line; a master whose request is deasserted releases the bus (R48); a new claim is granted on an
idle bus (R40). -/
def State.syncRequests (s : State) : State :=
  let s := s.each (List.finRange 7) State.syncRequest
  let s := match s.arb.owner with
    | .dma c true => if s.chans[c].request then s else s.masterRelease c
    | _ => s
  s.arbitrate

/-- Every interrupt line follows its shared level; trickle and the relay's check follow (R135, R140 to R142). The spec does not
order what several lines that change together bring. DESIGN CHOICE (log entry 25): passes that trickle begins join the fill line
before those that the relay's check demands (R143). -/
def State.syncLines (s : State) : State := (s.each (List.finRange 11) State.syncLine).trickleUpdate.relayCheck

/-- A change of the isolation switches in the cycle on the bus: the slots connected before it are kept (R13, R21). -/
def InFlight.addChange (before : List SlotId) : InFlight → InFlight
  | .access a => .access { a with switched := a.switched ++ [before] }
  | .transfer t => .transfer { t with switched := t.switched ++ [before] }
  | f => f

/-- The connected slots, in order. -/
def State.connectedSlots (s : State) : List SlotId := (List.finRange 4).filter s.connected

/-- Where the switches stand otherwise than in an earlier state, the cycle on the bus has seen a change of them. -/
def State.noteSwitches (s was : State) : State :=
  if s.connectedSlots = was.connectedSlots then s else { s with inFlight := s.inFlight.addChange was.connectedSlots }

/-- A slot's switches may have opened or closed since an earlier state: whatever its card drives leaves or joins the shared lines
(R13, R14). -/
def State.syncShared (s was : State) : State := (s.noteSwitches was).syncLines.syncRequests

/-- A member is put into or taken out of a list, which stays free of repeats. -/
def setMember {n : Nat} (x : Fin n) (present : Bool) (xs : List (Fin n)) : List (Fin n) :=
  if present then setInsert x xs else setRemove x xs

/-- REQUEST_LEVEL_CHANGE: the card of a slot asserts or drops a DMA request (R12, R78). -/
def execRequestLevelChange (slot : SlotId) (c : ChanId) (asserted : Bool) (s : State) :
    Host.Outcome State Fault Refusal :=
  .next (s.modDrive slot fun d => { d with requests := setMember c asserted d.requests }).syncRequests

/-- INTERRUPT_LEVEL_CHANGE: the card of a slot raises or drops an interrupt line (R12, R140). -/
def execInterruptLevelChange (slot : SlotId) (l : LineId) (asserted : Bool) (s : State) :
    Host.Outcome State Fault Refusal :=
  .next (s.modDrive slot fun d => { d with lines := setMember l asserted d.lines }).syncLines

end Sys2Proof.Machine
end

