-- ==== Sys2Proof/Machine/SlotPower.lean ====
section
/-! DEFINITION. The slot power controller's commands (chapter 1): the SLOT requests (R2, R6, R7, R11, R16), the bring-up
expiries (R3 to R5), the millisecond sample and its trips (R9, R10), and parking (R8). -/

namespace Sys2Proof.Machine

/-- The slot a request names, or RANGE before any other check (R1). -/
def State.withSlot (kind : Nat) (h : Hdr) (n : Nat) (f : SlotId → State → State) (s : State) : State :=
  match slotOf n with
  | none => s.refuse kind h.tag .range
  | some i => f i s

/-- SLOT_SET's four settings, clamped (R11). -/
def Slot.applySettings (sl : Slot) (limit5 limit12 hold settle : Nat) : Slot :=
  { sl with
    limit5 := clamp 5 40 limit5
    limit12 := clamp 1 15 limit12
    holdTime := clamp 1 1000 hold
    settleTime := clamp 0 5000 settle }

def serveSlotSet (h : Hdr) (n limit5 limit12 hold settle : Nat) : State → State :=
  State.withSlot kSlotSet h n fun i s =>
    let s := s.modSlot i (·.applySettings limit5 limit12 hold settle)
    let sl := s.slots[i]
    s.reply kSlotSet h.tag .ok (.slotSettings sl.limit5 sl.limit12 sl.holdTime sl.settleTime)

/-- Entry to RAMPING (R2). -/
def Slot.ramp (sl : Slot) (now : Time) : Slot :=
  { (sl.enter .ramping (some (inMillis now 50))) with
    over5 := 0, over12 := 0, low5 := 0, faultReason := none, faultRail := none }

/-- Entry to OFF from any other state (R6). -/
def Slot.turnOff (sl : Slot) : Slot :=
  { (sl.enter .off none) with over5 := 0, over12 := 0, low5 := 0, faultReason := none, faultRail := none }

/-- SLOT_POWER with the value on (R2). -/
def servePowerOn (h : Hdr) (n : Nat) : State → State :=
  State.withSlot kSlotPower h n fun i s =>
    match s.slots[i].state with
    | .off => (s.modSlot i (·.ramp s.now)).reply kSlotPower h.tag .ok .empty
    | .fault => s.refuse kSlotPower h.tag .state
    | _ => s.reply kSlotPower h.tag .ok .empty

/-- SLOT_POWER with the value off (R6). -/
def servePowerOff (h : Hdr) (n : Nat) : State → State :=
  State.withSlot kSlotPower h n fun i s =>
    match s.slots[i].state with
    | .off => s.reply kSlotPower h.tag .ok .empty
    | _ => ((s.modSlot i Slot.turnOff).syncShared s).reply kSlotPower h.tag .ok .empty

/-- SLOT_POWER carries a value: 0 is off and any non-zero value is on (R2). -/
def serveSlotPower (h : Hdr) (n value : Nat) (s : State) : State :=
  if value = 0 then servePowerOff h n s else servePowerOn h n s

def serveSlotPulse (h : Hdr) (n : Nat) : State → State :=
  State.withSlot kSlotPulse h n fun i s =>
    match s.slots[i].state with
    | .held | .settling | .online | .parked => (s.modSlot i (·.hold s.now)).reply kSlotPulse h.tag .ok .empty
    | _ => s.refuse kSlotPulse h.tag .state

/-- The slot record as SLOT_QUERY carries it (R16): of the timer the remaining time, of a held notice only that there is one. -/
def Slot.reported (sl : Slot) : Slot := { sl with timer := none, heldNotice := none }

def serveSlotQuery (h : Hdr) (n : Nat) : State → State :=
  State.withSlot kSlotQuery h n fun i s =>
    let sl := s.slots[i]
    s.reply kSlotQuery h.tag .ok
      (.slotRecord sl.reported (sl.timer.map fun d => (d.remaining s.now + 999) / 1000) sl.heldNotice.isSome)

/-! ### Expiries -/

/-- RAMP_EXPIRY: the rail is judged, and the slot enters HELD or FAULT (R3, R4, R10, R14). -/
def execRampExpiry (i : SlotId) (s : State) : Host.Outcome State Fault Refusal :=
  if s.slots[i].state = .ramping && reachedBy s.slots[i].timer s.now then
    .next ((s.modSlot i fun sl =>
      if 475 ≤ sl.v5 then sl.hold s.now else sl.trip s.now .railLow none).syncShared s)
  else .next s

/-- HOLD_EXPIRY: reset is released (R4, R5). -/
def execHoldExpiry (i : SlotId) (s : State) : Host.Outcome State Fault Refusal :=
  if s.slots[i].state = .held && reachedBy s.slots[i].timer s.now then .next (s.modSlot i (·.settle s.now))
  else .next s

/-- SETTLE_EXPIRY: the slot enters ONLINE (R5). -/
def execSettleExpiry (i : SlotId) (s : State) : Host.Outcome State Fault Refusal :=
  if s.slots[i].state = .settling && reachedBy s.slots[i].timer s.now then .next (s.modSlot i (·.goOnline s.now))
  else .next s

/-! ### Samples and trips -/

/-- A count of consecutive samples beyond a limit. -/
def runCount (beyond : Bool) (n : Nat) : Nat := if beyond then n + 1 else 0

/-- One sample (R9): the latest values, capped, and the counters of a powered slot. -/
def Slot.sample (sl : Slot) (m : Sample) : Slot :=
  let sl := { sl with i5 := min m.i5 1000, i12 := min m.i12 1000, v5 := min m.v5 600 }
  if sl.power then
    { sl with
      over5 := runCount (sl.limit5 * 10 < sl.i5) sl.over5
      over12 := runCount (sl.limit12 * 10 < sl.i12) sl.over12
      low5 := if sl.closed then runCount (sl.v5 < 475) sl.low5 else sl.low5 }
  else sl

/-- The rail or rails whose counter has reached 5 (R10). -/
def Slot.overRail (sl : Slot) : Option FaultRail :=
  if 5 ≤ sl.over5 then (if 5 ≤ sl.over12 then some .both else some .rail5)
  else if 5 ≤ sl.over12 then some .rail12
  else none

/-- The trip a sample brings, if any: an overload before a low rail (R10). -/
def Slot.tripAfter (sl : Slot) (now : Time) : Slot :=
  if !sl.power then sl
  else match sl.overRail with
  | some r => sl.trip now .overcurrent (some r)
  | none => if 5 ≤ sl.low5 then sl.trip now .railLow none else sl

/-- SLOT_SAMPLE: each slot's sample of this millisecond (R9, R10). The next falls due one millisecond later. -/
def execSlotSample (s0 s1 s2 s3 : Sample) (s : State) : Host.Outcome State Fault Refusal :=
  if s.sampleAt.reached s.now then
    let one (i : SlotId) (m : Sample) (t : State) : State := t.modSlot i fun sl => (sl.sample m).tripAfter s.now
    .next ((one 3 s3 (one 2 s2 (one 1 s1 (one 0 s0 { s with sampleAt := ⟨s.sampleAt.due, 1000⟩ })))).syncShared s)
  else .next s

/-! ### Parking -/

/-- Stage 2 parks a slot in HELD, SETTLING or ONLINE (R8). -/
def Slot.park (sl : Slot) (now : Time) : Slot :=
  match sl.state with
  | .held | .settling | .online => (sl.enter .parked none).produce now .parked
  | _ => sl

/-- A held SLOT notice is placed with the slot's state at this moment (R15). -/
def State.admitSlot (i : SlotId) (s : State) : State :=
  match s.slots[i].heldNotice with
  | none => s
  | some n => (s.notice (.slot i n s.slots[i].state)).modSlot i fun sl => { sl with heldNotice := none }

end Sys2Proof.Machine
end

