-- ==== Sys2Proof/Machine/BusControl.lean ====
section
/-! DEFINITION. Bus settings and the port rule table (R32 to R37, R53), and the refresh timer's commands (R49 to R52). -/

namespace Sys2Proof.Machine

/-! ### BUS_SET and BUS_QUERY -/

/-- Some slot is powered: in RAMPING, HELD, SETTLING, ONLINE or PARKED (R34). -/
def State.anyPowered (s : State) : Bool :=
  (List.finRange 4).any fun i => s.slots[i].state ≠ .off && s.slots[i].state ≠ .fault

/-- What the refresh settings of a BUS_SET do to the refresh timer (R36, R53). -/
def Arbiter.setRefresh (a : Arbiter) (now : Time) (was : Bool) (b : BusSettings) : Arbiter :=
  match was, b.refresh with
  | _, true => { a with refreshAt := some (refreshFrom now b.period) }
  | true, false => { a with refreshAt := none, owed := 0, shortfall := false }
  | false, false => a

def serveBusSet (h : Hdr) (r : BusRequest) (s : State) : State :=
  match r.clock with
  | none => s.refuse kBusSet h.tag .range
  | some clock =>
    if s.anyPowered then s.refuse kBusSet h.tag .state
    else
      let b := appliedBus clock r
      let s := s.modArb fun a => a.setRefresh s.now s.bus.refresh b
      { s with bus := b }.reply kBusSet h.tag .ok (.busSettings b)

def serveBusQuery (h : Hdr) (s : State) : State :=
  s.reply kBusQuery h.tag .ok
    (.busQuery s.bus s.arb.owner s.arb.owed s.arb.row s.arb.shortfall s.queue.length s.census.state s.census.first
      s.census.past s.census.probe s.census.findings s.census.bytesRead s.census.timedOut)

/-! ### The port rule table -/

/-- Two rules share a port. -/
def PortRule.meets (r q : PortRule) : Bool := r.first.toNat ≤ q.last.toNat && q.first.toNat ≤ r.last.toNat

/-- PORT_RULE_SET: the checks in order RANGE, OVERLAP, FULL (R32). -/
def servePortRuleSet (h : Hdr) (first last : Half) (width : Option Width) (odd : Option OddPort) (waitLimit : Nat)
    (post : Option Post) (s : State) : State :=
  match width, odd, post with
  | some w, some o, some p =>
    let r : PortRule := ⟨first, last, w, o, appliedRuleLimit waitLimit, p⟩
    if last.toNat < first.toNat then s.refuse kPortRuleSet h.tag .range
    else if s.rules.any r.meets then s.refuse kPortRuleSet h.tag .overlap
    else if Config.portRuleCapacity ≤ s.rules.length then s.refuse kPortRuleSet h.tag .full
    else { s with rules := s.rules ++ [r] }.reply kPortRuleSet h.tag .ok (.portRule r)
  | _, _, _ => s.refuse kPortRuleSet h.tag .range

/-- PORT_RULE_DROP: the port must be the first port of an entry (R33). -/
def servePortRuleDrop (h : Hdr) (port : Half) (s : State) : State :=
  if s.rules.any (·.first = port) then
    { s with rules := s.rules.filter (·.first ≠ port) }.reply kPortRuleDrop h.tag .ok .empty
  else s.refuse kPortRuleDrop h.tag .range

/-! ### Refresh -/

/-- A miss in the held REFRESH notice, or a new notice at the start of an episode (R52). -/
def Arbiter.miss (a : Arbiter) (now : Time) : Arbiter :=
  let fresh := !a.shortfall
  let held := match a.heldRefresh with
    | some n =>
      some { n with missed := satInc 65535 n.missed, episodes := if fresh then satInc 255 n.episodes else n.episodes }
    | none => if fresh then some ⟨now, a.owner, 1, 1⟩ else none
  { a with shortfall := true, heldRefresh := held }

/-- owed reaches 4 during a master tenure: an OVERSTAY notice, once per tenure (R49). -/
def Arbiter.overstay (a : Arbiter) (now : Time) : Arbiter :=
  match a.owner with
  | .dma c true =>
    if a.overstaySent then a
    else
      let n : OverstayNotice := match a.heldOverstay[c] with
        | some n => { n with time := now, repeats := satInc 255 n.repeats }
        | none => ⟨a.grantTime, now, 0⟩
      { a with overstaySent := true, heldOverstay := a.heldOverstay.set c (some n) }
  | _ => a

/-- A period expiry on the owed count (R50). -/
def Arbiter.expire (a : Arbiter) (now : Time) : Arbiter :=
  if a.owed < 4 then
    let a := { a with owed := a.owed + 1 }
    if a.owed = 4 then a.overstay now else a
  else a.miss now

/-- REFRESH_EXPIRY: the deadline moves on by one period and the owed count rises, or a period is missed (R50, R52). -/
def execRefreshExpiry (s : State) : Host.Outcome State Fault Refusal :=
  match s.arb.refreshAt with
  | none => .next s
  | some d =>
    if d.reached s.now then
      .next (s.modArb fun a => { a with refreshAt := some (d.moveOn s.bus.period) }.expire s.now).arbitrate
    else .next s

/-- The end of a refresh cycle (R51, R52). -/
def Arbiter.refreshDone (a : Arbiter) : Arbiter :=
  { a with
    row := (a.row + 1) % 256
    owed := a.owed - 1
    shortfall := if a.owed - 1 < 4 then false else a.shortfall }

/-- REFRESH_CYCLE_END: a refresh cycle of 8-bit memory wait states + 3 clocks ends; ready does not lengthen it (R20, R51). -/
def execRefreshCycleEnd (s : State) : Host.Outcome State Fault Refusal :=
  match s.inFlight with
  | .refresh r =>
    let s' := s.cycleDone (some (r.waits + 3))
    .next (if s.orphan then s'.orphanEnd else (s'.modArb Arbiter.refreshDone).grantPoint)
  | _ => .next s

/-- The held REFRESH notice is placed (R52). -/
def State.admitRefresh (s : State) : State :=
  match s.arb.heldRefresh with
  | none => s
  | some n => (s.notice (.refresh n)).modArb fun a => { a with heldRefresh := none }

/-- A channel's held OVERSTAY notice is placed (R49). -/
def State.admitOverstay (c : ChanId) (s : State) : State :=
  match s.arb.heldOverstay[c] with
  | none => s
  | some n => (s.notice (.overstay (chanNumber c) n)).modArb fun a => { a with heldOverstay := a.heldOverstay.set c none }

end Sys2Proof.Machine
end

