-- ==== Sys2Proof/Machine/MemoryMap.lean ====
section
/-! DEFINITION. The memory map's commands (chapter 7): the REGION requests (R106 to R114), MIRROR_PUT and MIRROR_GET (R115,
R116), a master's memory cycles (R118 to R121), and the age trigger (R132). -/

namespace Sys2Proof.Machine

/-! ### REGION_SET -/

/-- R106's first check: the fields of the region as applied, or `none` for RANGE. -/
def appliedRegion (r : RegionRequest) : Option RegionFields :=
  match r.kind, accessSet r.access with
  | some k, some acc =>
    if r.base % 256 ≠ 0 || 0xFFFF00 < r.base || r.length = 0 || r.length % 256 ≠ 0 || 1048576 < r.length ||
        Config.addressSpace < r.base + r.length then none
    else some
      { base := r.base, length := r.length, kind := k, access := acc, master := r.master ≠ 0
        threshold := match k with
          | .mirror => some (appliedThreshold r.threshold)
          | .card => none
        age := match k with
          | .mirror => some (appliedAge r.age)
          | .card => none }
  | _, _ => none

/-- The extent asked for shares an address with an extent held by another entry (R104, R106). -/
def State.overlaps (s : State) (id : RegionId) (f : RegionFields) : Bool :=
  (List.finRange 16).any fun j => j ≠ id && s.regions[j].held.any f.meets

/-- The same base, length and kind (R109). -/
def RegionFields.sameShape (f g : RegionFields) : Bool := f.base = g.base && f.length = g.length && f.kind = g.kind

/-- The age trigger's condition: the queue's deadline has been reached with its pass IDLE (R132). -/
def State.ageReached (s : State) (id : RegionId) : Bool :=
  !s.regions[id].ship.running && reachedBy s.regions[id].ship.ageDeadline s.now

/-- The age trigger (R132). -/
def State.ageCheck (id : RegionId) (s : State) : State := if s.ageReached id then s.trigger id else s

/-- A same-shape redefinition: the attributes are replaced, store and queue are kept, and the new ship attributes act at once
(R109, R131, R132). -/
def State.redefine (id : RegionId) (f : RegionFields) (tag : Nat) (s : State) : State :=
  let s := s.modRegion id fun r =>
    { r with fields := f, ship := { r.ship with ageDeadline := ageOf r.ship.entries (f.age.getD 0) } }
  ((s.reply kRegionSet tag .ok (.region id f)).thresholdCheck id).ageCheck id

/-- A reshape is a drop followed by a set (R113): a CARD region is replaced at once, a MIRROR region is emptied first. -/
def State.reshape (id : RegionId) (f : RegionFields) (tag : Nat) (s : State) : State :=
  match s.regions[id].fields.kind with
  | .card => { s with written := setRemove id s.written }.placeRegion id f [⟨kRegionSet, tag, .region id f⟩]
  | .mirror =>
    (s.modRegion id fun r =>
      { r with cond := .dropping, successor := some f, dropWaiters := r.dropWaiters ++ [⟨tag, true⟩] }).demand id .map

def serveRegionSet (h : Hdr) (n : Nat) (r : RegionRequest) (s : State) : State :=
  match regionOf n, appliedRegion r with
  | some id, some f =>
    match s.regions[id].cond with
    | .dropping => s.refuse kRegionSet h.tag .busy
    | .absent =>
      if s.overlaps id f then s.refuse kRegionSet h.tag .overlap
      else s.placeRegion id f [⟨kRegionSet, h.tag, .region id f⟩]
    | .active =>
      if s.regions[id].fields.sameShape f then
        if s.overlaps id f then s.refuse kRegionSet h.tag .overlap else s.redefine id f h.tag
      else if s.inUse id then s.refuse kRegionSet h.tag .busy
      else if s.overlaps id f then s.refuse kRegionSet h.tag .overlap
      else s.reshape id f h.tag
  | _, _ => s.refuse kRegionSet h.tag .range

/-! ### REGION_DROP and REGION_FLUSH -/

/-- The region a request names, or RANGE for an id above 15 (R111, R114). -/
def State.withRegion (kind : Nat) (h : Hdr) (n : Nat) (f : RegionId → State → State) (s : State) : State :=
  match regionOf n with
  | none => s.refuse kind h.tag .range
  | some id => f id s

def serveRegionDrop (h : Hdr) (n : Nat) : State → State :=
  State.withRegion kRegionDrop h n fun id s =>
    let r := s.regions[id]
    match r.cond with
    | .absent => s.refuse kRegionDrop h.tag .state
    | .dropping => s.modRegion id fun r => { r with dropWaiters := r.dropWaiters ++ [⟨h.tag, false⟩] }
    | .active =>
      if s.inUse id then s.refuse kRegionDrop h.tag .busy
      else match r.fields.kind with
      | .card =>
        ({ s with written := setRemove id s.written }.modRegion id fun _ => {}).reply kRegionDrop h.tag .ok .empty
      | .mirror =>
        (s.modRegion id fun r =>
          { r with cond := .dropping, successor := none, dropWaiters := r.dropWaiters ++ [⟨h.tag, false⟩] }).demand
            id .map

def serveRegionFlush (h : Hdr) (n : Nat) : State → State :=
  State.withRegion kRegionFlush h n fun id s =>
    let r := s.regions[id]
    match r.cond, r.fields.kind with
    | .absent, _ => s.refuse kRegionFlush h.tag .state
    | _, .card => s.reply kRegionFlush h.tag .ok .empty
    | _, .mirror =>
      (s.modRegion id fun r => { r with flushWaiters := r.flushWaiters ++ [h.tag] }).demand id .map

/-! ### MIRROR_PUT and MIRROR_GET -/

/-- The four steps of R115 for a range of n bytes at an address: `ok` when it lies in one ACTIVE MIRROR region. -/
def State.storeCheck (s : State) (addr n : Nat) : Status :=
  if Config.addressSpace ≤ addr then .range
  else if (List.finRange 16).any fun id =>
      s.regions[id].cond = .active && s.regions[id].fields.kind = .mirror && s.regions[id].fields.covers addr n then .ok
  else if (List.finRange 16).any fun id =>
      (s.regions[id].cond = .active && s.regions[id].fields.kind = .card && s.regions[id].fields.covers addr n) ||
        (s.regions[id].cond = .dropping && s.regions[id].held.any (·.covers addr n)) then .state
  else .range

def serveMirrorPut (h : Hdr) (addr : Nat) (bytes : List Byte) (s : State) : State :=
  match s.storeCheck addr bytes.length with
  | .ok => s.submitStoreOp (.put addr bytes (some ⟨kMirrorPut, h.tag, .empty⟩))
  | st => s.refuse kMirrorPut h.tag st

def serveMirrorGet (h : Hdr) (addr count : Nat) (s : State) : State :=
  match s.storeCheck addr count with
  | .ok => s.submitStoreOp (.get addr count (some ⟨kMirrorGet, h.tag, .empty⟩))
  | st => s.refuse kMirrorGet h.tag st

/-! ### Master cycles -/

/-- An open access of a master grant (R120): the first one of the grant is reported, or counted in the held notice. -/
def State.openAccess (c : ChanId) (addr : Nat) (write : Bool) (d : OpenDetail) (s : State) : State :=
  if s.openSent then s
  else
    let n : OpenNotice := match s.heldOpen[c] with
      | some n => { n with repeats := satInc 255 n.repeats }
      | none => ⟨s.arb.grantTime, addr, write, d, s.now, 0⟩
    { s with openSent := true, heldOpen := s.heldOpen.set c (some n) }

/-- A cycle the memory map does not serve is met with silence (R120). -/
def State.silent (s : State) : State := { s with lastMaster := some ⟨false, none⟩ }

/-- A master's memory read served from the store (R119). The spec gives a byte read the addressed byte and says nothing of the
high eight data lines. DESIGN CHOICE (log entry 38): they carry 0x00. -/
def State.serveMasterRead (addr : Nat) (word : Bool) (s : State) : State :=
  let v : Half := if word then Memory.readHalf s.store addr else (Memory.read s.store addr).zeroExtend 16
  { s with lastMaster := some ⟨true, some v⟩ }

/-- A master's memory write served into the store (R119): each byte is handed to the fill shipper and the region joins the
written-in-grant set. -/
def State.serveMasterWrite (id : RegionId) (addr : Nat) (word : Bool) (data : Half) (s : State) : State :=
  let s := s.storeCardBytes id addr (bytesOf word data)
  { s with lastMaster := some ⟨true, none⟩, written := setInsert id s.written }.trickleUpdate.thresholdCheck id

/-- MASTER_CYCLE: a memory cycle of the master that holds the bus, with its card's slot and address (R118 to R120). A card in a
slot with open switches drives nothing on the bus (R12). -/
def execMasterCycle (card : CardAddress) (word write : Bool) (data : Half) (s : State) : Host.Outcome State Fault Refusal :=
  let addr := card.addr.toNat
  match s.arb.owner with
  | .dma c true =>
    if !s.connected card.slot then .next s
    else if word && addr % 2 = 1 then .fault .oddMasterWord
    else match s.regionAt addr with
    | none => .next (s.silent.openAccess c addr write .openAddress)
    | some id =>
      match s.regions[id].fields.kind, s.regions[id].fields.master with
      | .card, _ => .next s.silent
      | .mirror, false => .next (s.silent.openAccess c addr write .denied)
      | .mirror, true => .next (if write then s.serveMasterWrite id addr word data else s.serveMasterRead addr word)
  | _ => .next s

/-- A channel's held OPEN_ACCESS notice is placed (R120). -/
def State.admitOpenAccess (c : ChanId) (s : State) : State :=
  match s.heldOpen[c] with
  | none => s
  | some n => { s.notice (.openAccess (chanNumber c) n) with heldOpen := s.heldOpen.set c none }

/-- SHIP_AGE_EXPIRY: a region's oldest queue entry has reached ship_age with its pass IDLE (R132). -/
def execShipAgeExpiry (id : RegionId) (s : State) : Host.Outcome State Fault Refusal := .next (s.ageCheck id)

end Sys2Proof.Machine
end

