-- ==== Sys2Proof/Machine/RelayControl.lean ====
section
/-! DEFINITION. The relay's commands: HOLDOFF_EXPIRY (R142) and the INT and LINE requests (R144, R146 to R149). -/

namespace Sys2Proof.Machine

/-- HOLDOFF_EXPIRY: the running holdoff has come to its deadline (R142). -/
def execHoldoffExpiry (s : State) : Host.Outcome State Fault Refusal :=
  if s.relay.hand = .holdoff && reachedBy s.relay.holdoffAt s.now then .next s.expireHoldoff else .next s

def serveIntSet (h : Hdr) (mode : Option RelayMode) (holdoff : Nat) (s : State) : State :=
  match mode with
  | none => s.refuse kIntSet h.tag .range
  | some m =>
    let v := clamp 0 200 holdoff
    ((s.modRelay fun r => { r with mode := m, holdoff := v }).reply kIntSet h.tag .ok (.relaySettings m v)).relayCheck

/-- LINE_SET's linked_channel: 0xFF is absent, another value a channel's number, or RANGE (R148). -/
def linkOf (n : Nat) : Option (Option ChanId) := if n = 0xFF then some none else (chanOf n).map some

/-- LINE_SET (R148). R148's "the line's record" has no line number (9.1). DESIGN CHOICE (log entry 46): the reply carries it too. -/
def serveLineSet (h : Hdr) (n masked linked : Nat) (s : State) : State :=
  match lineOf n, linkOf linked with
  | some l, some c =>
    let s := s.modLine l fun r => { r with masked := masked ≠ 0, linked := c }
    let s := if masked ≠ 0 then s.withdraw l else s
    (s.reply kLineSet h.tag .ok (.line (lineNumber l) s.lines[l])).trickleUpdate.relayCheck
  | _, _ => s.refuse kLineSet h.tag .range

/-- INT_DONE: each line named has its service ended, or is listed back (R146). -/
def serveIntDone (h : Hdr) (ns : List Nat) (s : State) : State :=
  match allOf lineOf ns with
  | none => s.refuse kIntDone h.tag .range
  | some named =>
    let ls := (List.finRange 11).filter (named.contains ·)
    let back := ls.filter fun l => !s.lines[l].inService
    let s := s.each ls fun l t => t.modLine l fun r => { r with inService := false }
    (s.reply kIntDone h.tag .ok (.lines (back.map lineNumber))).relayCheck

/-- INT_QUERY (R149). DEDUCED (log entry 40): a holdoff that is running is no notice in hand, since R142 forms the notice at its
expiry; origin is left out in HOLDOFF as in EMPTY. DESIGN CHOICE (log entry 46): each line's record stands beside its number. -/
def serveIntQuery (h : Hdr) (s : State) : State :=
  let r := s.relay
  let origin := if r.hand = .flushing ∨ r.hand = .claiming then some r.origin else none
  s.reply kIntQuery h.tag .ok
    (.relayQuery r.mode r.holdoff r.hand origin (r.holdoffAt.map (·.remaining s.now)) r.awaited
      ((List.finRange 11).map fun l => (lineNumber l, s.lines[l])))

/-- A link reset clears in_service on every line (R150). -/
def State.clearService (s : State) : State := { s with lines := s.lines.map fun r => { r with inService := false } }

end Sys2Proof.Machine
end

