-- ==== Sys2Proof/Machine/LinkUnit.lean ====
section
/-! DEFINITION. The link unit's reading of records (R163 to R166, R169, R172): whether a record the host offers is read,
waits or is discarded with the rest of its transfer; the frame, kind and size checks; the hold. Then the refused records, the
watchdog's deadline and the QUIET notice (R171, R173). -/

namespace Sys2Proof.Machine

/-- An interval in units of 10 ms from a moment. -/
def watchdogFrom (since : Time) (units : Nat) : Deadline := ⟨since, units * 10000⟩

/-- The parser after a record of a transfer that goes on or not. -/
def parserAfter (more : Bool) : Parser := if more then .inTransfer else .idle

/-- The parser once the rest of a transfer is to be discarded (R165, R174). -/
def parserDiscard (more : Bool) : Parser := if more then .discarding else .idle

/-- A record is read: it takes a reservation (R164), and last_record_time, stage and watchdog_deadline are set (R172). -/
def Link.readRecord (l : Link) (now : Time) (more : Bool) : Link :=
  { l with
    parser := parserAfter more
    reservations := l.reservations + 1
    lastRecord := now
    stage := 0
    watchdogAt := if l.interval = 0 then l.watchdogAt else some (watchdogFrom now l.interval) }

/-- A record the host offers. Unconfigured, there is no pipe (R163). Behind records that wait it waits; within a transfer
being discarded it is dropped (R165); otherwise it is read if the condition of R164 holds, and `take` follows, or it waits
(log entry 4). -/
def offerRecord (c : Instr) (more : Bool) (take : State → State) (s : State) : State :=
  if !s.link.configured then s
  else if !s.link.pipe.isEmpty then s.modLink fun l => { l with pipe := l.pipe ++ [c] }
  else if s.link.parser = .discarding then s.modLink fun l => { l with parser := parserDiscard more }
  else if s.link.canRead then take (s.modLink fun l => l.readRecord s.now more)
  else s.modLink fun l => { l with pipe := l.pipe ++ [c] }

/-- Why a request that passes R166 is held, if it is (R169). -/
def State.holdCause (s : State) (kind : Nat) (ordered : Bool) : Option HoldCause :=
  if kind = kBatch then (if Config.queueCapacity ≤ s.queue.length then some .queueFull else none)
  else if ordered && !s.queue.isEmpty then some .ordered
  else none

/-- A payload length above 1,024: FRAME with the record's tag, and the rest of the transfer discarded (R165). -/
def State.tooLong (kind tag : Nat) (more : Bool) (s : State) : State :=
  (s.modLink fun l => { l with parser := parserDiscard more }).replyRefused tag .frame kind

/-- The checks of a record that has been read (R165, R166), then the hold (R169) or its owner (log entry 32). The spec does not say
when an owner that has nothing to wait for places its reply. DESIGN CHOICE (log entry 45): in the step that reads the record, and so
ahead of any claimant; 11.3's worked sequence shows a part that admits a notice in between. -/
def checkRecord (c : Instr) (h : Hdr) (kind length getCount : Nat) (serve : State → State) (s : State) : State :=
  if Config.maxPayload < length then s.tooLong kind h.tag h.more
  else if h.tag = 0 then s.replyRefused 0 .frame kind
  else match recordCheck kind length getCount with
  | .ok =>
    match s.holdCause kind h.ordered with
    | some cause => s.modLink fun l => { l with held := some (c, cause) }
    | none => serve s
  | st => s.replyRefused h.tag st kind

/-- A request record of the kind and payload length given. -/
def takeRequest (c : Instr) (h : Hdr) (kind length getCount : Nat) (serve : State → State) (s : State) :
    Host.Outcome State Fault Refusal :=
  .next (offerRecord c h.more (checkRecord c h kind length getCount serve) s)

/-! ### Refused records -/

/-- The three frame faults (R165): the reply is placed at once and nothing is routed. -/
def refuseFrame (f : FrameFault) (s : State) : State :=
  match f with
  | .overrun bytes kind tag =>
    s.replyRefused (if 4 ≤ bytes then tag else 0) .frame (if 1 ≤ bytes then kind else 0)
  | .tooLong kind tag more => s.tooLong kind tag more
  | .tagZero kind _ => s.replyRefused 0 .frame kind

/-- Whether the transfer goes on after a record with a frame fault. -/
def frameMore : FrameFault → Bool
  | .overrun .. => false
  | .tooLong _ _ more => more
  | .tagZero _ more => more

/-- FRAME_REFUSED: a record whose frame is bad, or whose tag is 0 (R165). -/
def execFrameRefused (f : FrameFault) (s : State) : Host.Outcome State Fault Refusal :=
  .next (offerRecord (.frameRefused f) (frameMore f) (refuseFrame f) s)

/-- KIND_OR_SIZE_REFUSED: a record of an unknown kind, or of a length its kind does not allow (R166). A record that would pass
is not this command's: it has no effect (log entry 31). -/
def execKindOrSizeRefused (h : Hdr) (kind length getCount : Nat) (s : State) : Host.Outcome State Fault Refusal :=
  if recordCheck kind length getCount = .ok && h.tag ≠ 0 then .next s
  else .next (offerRecord (.kindOrSizeRefused h kind length getCount) h.more
    (checkRecord (.kindOrSizeRefused h kind length getCount) h kind length getCount id) s)

/-! ### HELLO and LINK_SET -/

/-- The reply of HELLO (R170). -/
def helloBody (now : Time) : Body :=
  .hello Config.vendorCode Config.partCode Config.revision 4 ((List.finRange 7).map chanNumber) lineNumbers 16 0x1000000
    Config.portRuleCapacity Config.queueCapacity 64 4 16 Config.reportCapacity Config.maxPayload now

def serveHello (h : Hdr) (s : State) : State := s.reply kHello h.tag .ok (helloBody s.now)

/-- LINK_SET on the link unit's state (R171). -/
def Link.setInterval (l : Link) (units : Nat) : Link :=
  let v := appliedInterval units
  if v = 0 then { l with interval := 0, stage := 0, watchdogAt := none }
  else { l with interval := v, watchdogAt := some (watchdogFrom l.lastRecord v) }

def serveLinkSet (h : Hdr) (units : Nat) (s : State) : State :=
  (s.modLink (·.setInterval units)).reply kLinkSet h.tag .ok (.linkInterval (appliedInterval units))

/-! ### The watchdog -/

/-- A QUIET notice is produced: it replaces a held one and counts it (R173). -/
def Link.produceQuiet (l : Link) (stage : Nat) (time : Time) : Link :=
  let replaced := match l.heldQuiet with
    | some q => satInc 255 q.replaced
    | none => 0
  { l with heldQuiet := some ⟨stage, time, l.lastRecord, l.interval, replaced⟩ }

/-- WATCHDOG_STAGE_1 (R172): the deadline moves on, the QUIET notice is produced, every channel not MASKED is masked QUIET
(R89), every timer gate is turned off (R160). R173's "timestamp at which the stage fell due" does not say which where the stage is
taken after its deadline, as for one that a LINK_SET routed late has set in the past. DEDUCED (log entry 47): the deadline's. -/
def execWatchdogStage1 (s : State) : Host.Outcome State Fault Refusal :=
  match s.link.watchdogAt with
  | none => .next s
  | some d =>
    if s.link.stage = 0 && d.reached s.now then
      let s := s.modLink fun l =>
        { l with stage := 1, watchdogAt := some (watchdogFrom d.due l.interval) }.produceQuiet 1 d.due
      .next (s.each (List.finRange 7) State.quietChan).gatesOff
    else .next s

/-- Stage 2 parks every slot in HELD, SETTLING or ONLINE (R8). -/
def State.parkSlots (s : State) : State := { s with slots := s.slots.map fun sl : Slot => sl.park s.now }

/-- WATCHDOG_STAGE_2 (R172): slots are parked (R8), batches cancelled (R65), the census stopped (R76), the QUIET notice
produced, in that order (log entry 35), with its deadline's time, as at stage 1 (log entry 47). -/
def execWatchdogStage2 (s : State) : Host.Outcome State Fault Refusal :=
  match s.link.watchdogAt with
  | none => .next s
  | some d =>
    if s.link.stage = 1 && d.reached s.now then
      let s := s.modLink fun l => { l with stage := 2, watchdogAt := none }
      let s := (s.parkSlots.cancelBatches).stopCensus
      .next (s.modLink (·.produceQuiet 2 d.due))
    else .next s

end Sys2Proof.Machine
end

