-- ==== Sys2Proof/Machine/Resets.lean ====
section
/-! DEFINITION. The resets: POWER_ON, DEVICE_RESET (R174) and LINK_RESET (R175), each as every block's chapter gives it, and
LINK_CONFIGURED (R163). -/

namespace Sys2Proof.Machine

/-- POWER_ON: every block takes its power-on values (R17, R38, R54, R68, R76, R91, R122, R138, R151, R162, R176). What waits
for the part, what the cards drive and the model's free-value counter are not the part's. -/
def execPowerOn (s : State) : Host.Outcome State Fault Refusal :=
  .next { State.reset with pending := s.pending, drives := s.drives, free := s.free }

/-- A cycle is on the bus: an access refused with ALIGN performs none. -/
def InFlight.onBus : InFlight → Bool
  | .none => false
  | .access a => a.plan ≠ .refused
  | .transfer _ => true
  | .refresh _ => true

/-- Every block at its power-on values, but for a cycle in flight, which completes with its outcome discarded (R38, R54), and the
link unit, which the caller keeps. With a cycle in flight the settings and the port rules stay until its end (`State.orphanEnd`),
but for refresh enable and period. DEDUCED (log entry 21): those two have their power-on values at once, since R54 starts the
refresh timer at 15.0 us when the reset takes effect. -/
def State.afterDeviceReset (s : State) (l : Link) : State :=
  if s.inFlight.onBus then
    { State.reset with
      pending := s.pending, drives := s.drives, free := s.free, link := l
      inFlight := s.inFlight, orphan := true, lastClocks := s.lastClocks
      bus := { s.bus with refresh := State.reset.bus.refresh, period := State.reset.bus.period }, rules := s.rules
      arb := { owner := s.arb.owner } }.noteSwitches s
  else { State.reset with pending := s.pending, drives := s.drives, free := s.free, link := l, lastClocks := s.lastClocks }

/-- The link unit after a DEVICE_RESET: the report queue and configured are kept, the rest of the transfer is discarded, and
nothing is read until the reply has left (R174). -/
def Link.afterDeviceReset (l : Link) : Link :=
  { configured := l.configured
    parser := parserDiscard (l.parser = .inTransfer)
    pipe := l.pipe
    reports := l.reports
    awaitReset := true
    transferBytes := l.transferBytes }

/-- DEVICE_RESET: the OK reply joins the report queue, then the reset takes effect in every block (R174). -/
def serveDeviceReset (h : Hdr) (s : State) : State :=
  let s := s.reply kDeviceReset h.tag .ok .empty
  s.afterDeviceReset s.link.afterDeviceReset

/-! ### Link reset -/

/-- The link unit at a link reset (R175). -/
def Link.afterLinkReset (l : Link) (now : Time) : Link :=
  { l with
    configured := false
    parser := .idle
    pipe := []
    reservations := 0
    reports := []
    held := none
    stage := 0
    watchdogAt := if l.interval = 0 then l.watchdogAt else some (watchdogFrom now l.interval)
    awaitReset := false
    transferBytes := 0 }

/-- A region's waiting tags are emptied, its drop and its pass go on (R123, R137). -/
def Region.forgetTags (r : Region) : Region := { r with dropWaiters := [], flushWaiters := [] }

/-- Store work that has been taken is done, without its replies. -/
def StoreOp.forgetTags : StoreOp → StoreOp
  | .put a bs _ => .put a bs none
  | .get a n _ => .get a n none
  | .zero b n _ => .zero b n []

/-- LINK_RESET: the link unit forgets what it holds for the host, and each block reacts as its chapter gives (R18, R39, R55,
R67, R76, R90, R123, R137, R150, R161). -/
def execLinkReset (s : State) : Host.Outcome State Fault Refusal :=
  let s := s.modLink fun l => l.afterLinkReset s.now
  let s := s.discardBatches.discardRuns.gatesOff.linkResetCensus
  let s := s.each (List.finRange 7) State.linkChan
  let s := { s with regions := s.regions.map Region.forgetTags, storeWaits := s.storeWaits.map StoreOp.forgetTags }
  .next s.clearService.relayCheck

/-- LINK_CONFIGURED: the host has configured the function, reading starts from the first new transfer (R163, R175). -/
def execLinkConfigured (s : State) : Host.Outcome State Fault Refusal :=
  .next (s.modLink fun l => { l with configured := true })

end Sys2Proof.Machine
end

