-- ==== Sys2Proof/Machine/Requests.lean ====
section
/-! DEFINITION. The request commands: one meaning per request row, each the reading of its record (`takeRequest`, with the
record's kind and payload length) over the service its owner gives it. Then the routing of a held request (R169). -/

namespace Sys2Proof.Machine

/-- HELLO (R170). -/
def execHello (h : Hdr) (s : State) : Host.Outcome State Fault Refusal :=
  takeRequest (.hello h) h kHello 0 0 (serveHello h) s

/-- LINK_SET (R171). -/
def execLinkSet (h : Hdr) (units : Nat) (s : State) : Host.Outcome State Fault Refusal :=
  takeRequest (.linkSet h units) h kLinkSet 2 0 (serveLinkSet h units) s

/-- DEVICE_RESET (R174). -/
def execDeviceReset (h : Hdr) (s : State) : Host.Outcome State Fault Refusal :=
  takeRequest (.deviceReset h) h kDeviceReset 0 0 (serveDeviceReset h) s

/-- SLOT_SET (R11). -/
def execSlotSet (h : Hdr) (slot limit5 limit12 hold settle : Nat) (s : State) : Host.Outcome State Fault Refusal :=
  takeRequest (.slotSet h slot limit5 limit12 hold settle) h kSlotSet 8 0 (serveSlotSet h slot limit5 limit12 hold settle) s

/-- SLOT_POWER_ON (R2). -/
def execSlotPowerOn (h : Hdr) (slot value : Nat) (s : State) : Host.Outcome State Fault Refusal :=
  takeRequest (.slotPowerOn h slot value) h kSlotPower 2 0 (serveSlotPower h slot value) s

/-- SLOT_POWER_OFF (R6). -/
def execSlotPowerOff (h : Hdr) (slot : Nat) (s : State) : Host.Outcome State Fault Refusal :=
  takeRequest (.slotPowerOff h slot) h kSlotPower 2 0 (servePowerOff h slot) s

/-- SLOT_PULSE (R7). -/
def execSlotPulse (h : Hdr) (slot : Nat) (s : State) : Host.Outcome State Fault Refusal :=
  takeRequest (.slotPulse h slot) h kSlotPulse 1 0 (serveSlotPulse h slot) s

/-- SLOT_QUERY (R16). -/
def execSlotQuery (h : Hdr) (slot : Nat) (s : State) : Host.Outcome State Fault Refusal :=
  takeRequest (.slotQuery h slot) h kSlotQuery 1 0 (serveSlotQuery h slot) s

/-- BUS_SET (R34). -/
def execBusSet (h : Hdr) (r : BusRequest) (s : State) : Host.Outcome State Fault Refusal :=
  takeRequest (.busSet h r) h kBusSet 10 0 (serveBusSet h r) s

/-- BUS_QUERY (R37). -/
def execBusQuery (h : Hdr) (s : State) : Host.Outcome State Fault Refusal :=
  takeRequest (.busQuery h) h kBusQuery 0 0 (serveBusQuery h) s

/-- PORT_RULE_SET (R32). -/
def execPortRuleSet (h : Hdr) (first last : Half) (width : Option Width) (odd : Option OddPort) (waitLimit : Nat) (post : Option Post) (s : State) :
    Host.Outcome State Fault Refusal :=
  takeRequest (.portRuleSet h first last width odd waitLimit post) h kPortRuleSet 10 0 (servePortRuleSet h first last width odd waitLimit post) s

/-- PORT_RULE_DROP (R33). -/
def execPortRuleDrop (h : Hdr) (port : Half) (s : State) : Host.Outcome State Fault Refusal :=
  takeRequest (.portRuleDrop h port) h kPortRuleDrop 2 0 (servePortRuleDrop h port) s

/-- BATCH (R59). -/
def execBatch (h : Hdr) (entries : List RawEntry) (s : State) : Host.Outcome State Fault Refusal :=
  takeRequest (.batch h entries) h kBatch (12 * entries.length) 0 (serveBatch h entries) s

/-- CENSUS_START (R69). -/
def execCensusStart (h : Hdr) (first past : Nat) (s : State) : Host.Outcome State Fault Refusal :=
  takeRequest (.censusStart h first past) h kCensusStart 8 0 (serveCensusStart h first past) s

/-- CENSUS_STOP (R75). -/
def execCensusStop (h : Hdr) (s : State) : Host.Outcome State Fault Refusal :=
  takeRequest (.censusStop h) h kCensusStop 0 0 (serveCensusStop h) s

/-- CHAN_LOAD (R82). -/
def execChanLoad (h : Hdr) (ch : Nat) (p : ChanProgram) (s : State) : Host.Outcome State Fault Refusal :=
  takeRequest (.chanLoad h ch p) h kChanLoad 14 0 (serveChanLoad h ch p) s

/-- CHAN_MASK (R83). -/
def execChanMask (h : Hdr) (ch : Nat) (s : State) : Host.Outcome State Fault Refusal :=
  takeRequest (.chanMask h ch) h kChanMask 1 0 (serveChanMask h ch) s

/-- CHAN_UNMASK (R84). -/
def execChanUnmask (h : Hdr) (ch : Nat) (s : State) : Host.Outcome State Fault Refusal :=
  takeRequest (.chanUnmask h ch) h kChanUnmask 1 0 (serveChanUnmask h ch) s

/-- CHAN_QUERY (R85). -/
def execChanQuery (h : Hdr) (ch : Nat) (s : State) : Host.Outcome State Fault Refusal :=
  takeRequest (.chanQuery h ch) h kChanQuery 1 0 (serveChanQuery h ch) s

/-- REGION_SET (R106). -/
def execRegionSet (h : Hdr) (id : Nat) (r : RegionRequest) (s : State) : Host.Outcome State Fault Refusal :=
  takeRequest (.regionSet h id r) h kRegionSet 16 0 (serveRegionSet h id r) s

/-- REGION_DROP (R111). -/
def execRegionDrop (h : Hdr) (id : Nat) (s : State) : Host.Outcome State Fault Refusal :=
  takeRequest (.regionDrop h id) h kRegionDrop 1 0 (serveRegionDrop h id) s

/-- REGION_FLUSH (R114). -/
def execRegionFlush (h : Hdr) (id : Nat) (s : State) : Host.Outcome State Fault Refusal :=
  takeRequest (.regionFlush h id) h kRegionFlush 1 0 (serveRegionFlush h id) s

/-- MIRROR_PUT (R115). -/
def execMirrorPut (h : Hdr) (addr : Nat) (bytes : List Byte) (s : State) : Host.Outcome State Fault Refusal :=
  takeRequest (.mirrorPut h addr bytes) h kMirrorPut (4 + bytes.length) 0 (serveMirrorPut h addr bytes) s

/-- MIRROR_GET (R116). -/
def execMirrorGet (h : Hdr) (addr count : Nat) (s : State) : Host.Outcome State Fault Refusal :=
  takeRequest (.mirrorGet h addr count) h kMirrorGet 6 count (serveMirrorGet h addr count) s

/-- INT_SET (R147). -/
def execIntSet (h : Hdr) (mode : Option RelayMode) (holdoff : Nat) (s : State) : Host.Outcome State Fault Refusal :=
  takeRequest (.intSet h mode holdoff) h kIntSet 2 0 (serveIntSet h mode holdoff) s

/-- LINE_SET (R148). -/
def execLineSet (h : Hdr) (line masked linked : Nat) (s : State) : Host.Outcome State Fault Refusal :=
  takeRequest (.lineSet h line masked linked) h kLineSet 3 0 (serveLineSet h line masked linked) s

/-- INT_DONE (R146). -/
def execIntDone (h : Hdr) (lines : List Nat) (s : State) : Host.Outcome State Fault Refusal :=
  takeRequest (.intDone h lines) h kIntDone lines.length 0 (serveIntDone h lines) s

/-- INT_QUERY (R149). -/
def execIntQuery (h : Hdr) (s : State) : Host.Outcome State Fault Refusal :=
  takeRequest (.intQuery h) h kIntQuery 0 0 (serveIntQuery h) s

/-- TIMER_LOAD (R154). -/
def execTimerLoad (h : Hdr) (timer count : Nat) (mode : Option TimerMode) (notify : Nat) (s : State) :
    Host.Outcome State Fault Refusal :=
  takeRequest (.timerLoad h timer count mode notify) h kTimerLoad 6 0 (serveTimerLoad h timer count mode notify) s

/-- TIMER_GATE (R155). -/
def execTimerGate (h : Hdr) (timer gate clearFired clearOverrun : Nat) (s : State) :
    Host.Outcome State Fault Refusal :=
  takeRequest (.timerGate h timer gate clearFired clearOverrun) h kTimerGate 4 0 (serveTimerGate h timer gate clearFired clearOverrun) s

/-- TIMER_BATCH (R156). -/
def execTimerBatch (h : Hdr) (timer : Nat) (entries : List RawEntry) (s : State) : Host.Outcome State Fault Refusal :=
  takeRequest (.timerBatch h timer entries) h kTimerBatch (1 + 12 * entries.length) 0 (serveTimerBatch h timer entries) s

/-- TIMER_QUERY (R157). -/
def execTimerQuery (h : Hdr) (timer : Nat) (s : State) : Host.Outcome State Fault Refusal :=
  takeRequest (.timerQuery h timer) h kTimerQuery 1 0 (serveTimerQuery h timer) s

/-- A request goes to its owner (R166); what is no request is routed nowhere. -/
def route (i : Instr) (s : State) : State :=
  match i with
  | .hello h => serveHello h s
  | .linkSet h units => serveLinkSet h units s
  | .deviceReset h => serveDeviceReset h s
  | .slotSet h slot limit5 limit12 hold settle => serveSlotSet h slot limit5 limit12 hold settle s
  | .slotPowerOn h slot value => serveSlotPower h slot value s
  | .slotPowerOff h slot => servePowerOff h slot s
  | .slotPulse h slot => serveSlotPulse h slot s
  | .slotQuery h slot => serveSlotQuery h slot s
  | .busSet h r => serveBusSet h r s
  | .busQuery h => serveBusQuery h s
  | .portRuleSet h first last width odd waitLimit post => servePortRuleSet h first last width odd waitLimit post s
  | .portRuleDrop h port => servePortRuleDrop h port s
  | .batch h entries => serveBatch h entries s
  | .censusStart h first past => serveCensusStart h first past s
  | .censusStop h => serveCensusStop h s
  | .chanLoad h ch p => serveChanLoad h ch p s
  | .chanMask h ch => serveChanMask h ch s
  | .chanUnmask h ch => serveChanUnmask h ch s
  | .chanQuery h ch => serveChanQuery h ch s
  | .regionSet h id r => serveRegionSet h id r s
  | .regionDrop h id => serveRegionDrop h id s
  | .regionFlush h id => serveRegionFlush h id s
  | .mirrorPut h addr bytes => serveMirrorPut h addr bytes s
  | .mirrorGet h addr count => serveMirrorGet h addr count s
  | .intSet h mode holdoff => serveIntSet h mode holdoff s
  | .lineSet h line masked linked => serveLineSet h line masked linked s
  | .intDone h lines => serveIntDone h lines s
  | .intQuery h => serveIntQuery h s
  | .timerLoad h timer count mode notify => serveTimerLoad h timer count mode notify s
  | .timerGate h timer gate clearFired clearOverrun => serveTimerGate h timer gate clearFired clearOverrun s
  | .timerBatch h timer entries => serveTimerBatch h timer entries s
  | .timerQuery h timer => serveTimerQuery h timer s
  | .frameRefused _ => s
  | .kindOrSizeRefused _ _ _ _ => s
  | .heldRequestRouted => s
  | .reportRecordSent => s
  | .noticeAdmit => s
  | .fillPassAdmit => s
  | .linkConfigured => s
  | .linkReset => s
  | .powerOn => s
  | .watchdogStage1 => s
  | .watchdogStage2 => s
  | .rampExpiry _ => s
  | .holdExpiry _ => s
  | .settleExpiry _ => s
  | .slotSample _ _ _ _ => s
  | .requestLevelChange _ _ _ => s
  | .interruptLevelChange _ _ _ => s
  | .holdoffExpiry => s
  | .transferEnd _ => s
  | .shipAgeExpiry _ => s
  | .masterCycle _ _ _ _ => s
  | .waitLimitExpiry _ => s
  | .accessFirstCycleEnd _ => s
  | .batchEntryEnd _ => s
  | .pollReadEnd _ => s
  | .pollIntervalExpiry => s
  | .delayExpiry => s
  | .censusReadEnd _ => s
  | .refreshExpiry => s
  | .refreshCycleEnd => s
  | .timerExpiry _ => s
  | .timedEntryEnd _ => s

/-- The condition a held request waits for has come about (R169). -/
def State.heldReady (s : State) : Bool :=
  match s.link.held with
  | some (_, .ordered) => s.queue.isEmpty
  | some (_, .queueFull) => s.queue.length < Config.queueCapacity
  | none => false

/-- HELD_REQUEST_ROUTED: the batches before a held request have left the queue, or a place has fallen free (R169). -/
def execHeldRequestRouted (s : State) : Host.Outcome State Fault Refusal :=
  match s.link.held with
  | some (c, _) => if s.heldReady then .next (route c (s.modLink fun l => { l with held := none })) else .next s
  | none => .next s

end Sys2Proof.Machine
end

