-- ==== Sys2Proof/Machine/ReportPipe.lean ====
section
/-! DEFINITION. The report pipe: the admission of notices and FILL passes (R127, R167) and the leaving of records (R168,
R174). -/

namespace Sys2Proof.Machine

/-- The held QUIET notice is placed (R173). -/
def State.admitQuiet (s : State) : State :=
  match s.link.heldQuiet with
  | none => s
  | some q => (s.notice (.quiet q)).modLink fun l => { l with heldQuiet := none }

/-- A timer's held TIMER notice is placed (R159). -/
def State.admitTimer (t : TimerId) (s : State) : State :=
  match s.timers[t].heldNotice with
  | none => s
  | some n => (s.notice (.timer t.val n)).modTimer t fun r => { r with heldNotice := none }

/-- A claimant is admitted: its notice is built from its block's state and placed (R167). -/
def State.placeClaimant (k : Claimant) (s : State) : State :=
  match k with
  | .quiet => s.admitQuiet
  | .slot i => s.admitSlot i
  | .interrupt => s.admitInterrupt
  | .channel c => s.admitChannel c
  | .fill id => s.admitFill id
  | .overstay c => s.admitOverstay c
  | .openAccess c => s.admitOpenAccess c
  | .refresh => s.admitRefresh
  | .timer t => s.admitTimer t
  | .censusFind => s.admitCensusFind
  | .censusEnd => s.admitCensusEnd

/-- The claimant is a pass in the fill line. -/
def Claimant.isFill : Claimant → Bool
  | .fill _ => true
  | _ => false

/-- The claimant that the link unit can admit now (R167). -/
def State.admissible (s : State) : Option Claimant := if s.link.canAdmit then s.firstClaimant else none

/-- NOTICE_ADMIT: with room, the first claimant is admitted (R167); a pass in the fill line is FILL_PASS_ADMIT's. -/
def execNoticeAdmit (s : State) : Host.Outcome State Fault Refusal :=
  match s.admissible with
  | some k => if k.isFill then .next s else .next (s.placeClaimant k)
  | none => .next s

/-- FILL_PASS_ADMIT: the pass at the head of the fill line is admitted at a moment when no transfer is in flight (R127). -/
def execFillPassAdmit (s : State) : Host.Outcome State Fault Refusal :=
  match s.admissible with
  | some k => if k.isFill && !s.transferring then .next (s.placeClaimant k) else .next s
  | none => .next s

/-- The record is the reply of a DEVICE_RESET (R174). -/
def Report.isResetReply : Report → Bool
  | .reply k _ _ _ => k = replyKind kDeviceReset
  | .notice _ => false

/-- The bytes of the report-pipe transfer after one more record: a record that would carry it past 4,096 bytes starts the next
one, and an empty queue ends it (R168). R168 does not say at what moment the queue is found empty. DESIGN CHOICE (log entry 49): when the
record has been acknowledged and leaves, so that one that joined before that still extends the transfer. -/
def transferAfter (sofar size : Nat) (last : Bool) : Nat :=
  if last then 0 else if Config.transferLimit < sofar + size then size else sofar + size

/-- REPORT_RECORD_SENT: the host has acknowledged the record at the head; its entry becomes free (R168). -/
def execReportRecordSent (s : State) : Host.Outcome State Fault Refusal :=
  match s.link.reports with
  | [] => .next s
  | r :: rest =>
    if s.link.configured then
      let size := 6 + r.payloadLength s.free
      .next { s.modLink fun l =>
        { l with
          reports := rest
          awaitReset := l.awaitReset && !r.isResetReply
          transferBytes := transferAfter l.transferBytes size rest.isEmpty } with free := s.free + 1 }
    else .next s

end Sys2Proof.Machine
end

