-- ==== Sys2Proof/Machine/Dispatch.lean ====
section
/-! DEFINITION. One arm per command: a direct call of its meaning. -/

namespace Sys2Proof.Machine

def exec (i : Instr) (s : State) : Host.Outcome State Fault Refusal :=
  match i with
  | .hello h => Sys2Proof.Machine.execHello h s
  | .linkSet h units => Sys2Proof.Machine.execLinkSet h units s
  | .deviceReset h => Sys2Proof.Machine.execDeviceReset h s
  | .slotSet h slot limit5 limit12 hold settle => Sys2Proof.Machine.execSlotSet h slot limit5 limit12 hold settle s
  | .slotPowerOn h slot value => Sys2Proof.Machine.execSlotPowerOn h slot value s
  | .slotPowerOff h slot => Sys2Proof.Machine.execSlotPowerOff h slot s
  | .slotPulse h slot => Sys2Proof.Machine.execSlotPulse h slot s
  | .slotQuery h slot => Sys2Proof.Machine.execSlotQuery h slot s
  | .busSet h r => Sys2Proof.Machine.execBusSet h r s
  | .busQuery h => Sys2Proof.Machine.execBusQuery h s
  | .portRuleSet h first last width odd waitLimit post => Sys2Proof.Machine.execPortRuleSet h first last width odd waitLimit post s
  | .portRuleDrop h port => Sys2Proof.Machine.execPortRuleDrop h port s
  | .batch h entries => Sys2Proof.Machine.execBatch h entries s
  | .censusStart h first past => Sys2Proof.Machine.execCensusStart h first past s
  | .censusStop h => Sys2Proof.Machine.execCensusStop h s
  | .chanLoad h ch p => Sys2Proof.Machine.execChanLoad h ch p s
  | .chanMask h ch => Sys2Proof.Machine.execChanMask h ch s
  | .chanUnmask h ch => Sys2Proof.Machine.execChanUnmask h ch s
  | .chanQuery h ch => Sys2Proof.Machine.execChanQuery h ch s
  | .regionSet h id r => Sys2Proof.Machine.execRegionSet h id r s
  | .regionDrop h id => Sys2Proof.Machine.execRegionDrop h id s
  | .regionFlush h id => Sys2Proof.Machine.execRegionFlush h id s
  | .mirrorPut h addr bytes => Sys2Proof.Machine.execMirrorPut h addr bytes s
  | .mirrorGet h addr count => Sys2Proof.Machine.execMirrorGet h addr count s
  | .intSet h mode holdoff => Sys2Proof.Machine.execIntSet h mode holdoff s
  | .lineSet h line masked linked => Sys2Proof.Machine.execLineSet h line masked linked s
  | .intDone h lines => Sys2Proof.Machine.execIntDone h lines s
  | .intQuery h => Sys2Proof.Machine.execIntQuery h s
  | .timerLoad h timer count mode notify => Sys2Proof.Machine.execTimerLoad h timer count mode notify s
  | .timerGate h timer gate clearFired clearOverrun => Sys2Proof.Machine.execTimerGate h timer gate clearFired clearOverrun s
  | .timerBatch h timer entries => Sys2Proof.Machine.execTimerBatch h timer entries s
  | .timerQuery h timer => Sys2Proof.Machine.execTimerQuery h timer s
  | .frameRefused f => Sys2Proof.Machine.execFrameRefused f s
  | .kindOrSizeRefused h kind length getCount => Sys2Proof.Machine.execKindOrSizeRefused h kind length getCount s
  | .heldRequestRouted => Sys2Proof.Machine.execHeldRequestRouted s
  | .reportRecordSent => Sys2Proof.Machine.execReportRecordSent s
  | .noticeAdmit => Sys2Proof.Machine.execNoticeAdmit s
  | .fillPassAdmit => Sys2Proof.Machine.execFillPassAdmit s
  | .linkConfigured => Sys2Proof.Machine.execLinkConfigured s
  | .linkReset => Sys2Proof.Machine.execLinkReset s
  | .powerOn => Sys2Proof.Machine.execPowerOn s
  | .watchdogStage1 => Sys2Proof.Machine.execWatchdogStage1 s
  | .watchdogStage2 => Sys2Proof.Machine.execWatchdogStage2 s
  | .rampExpiry slot => Sys2Proof.Machine.execRampExpiry slot s
  | .holdExpiry slot => Sys2Proof.Machine.execHoldExpiry slot s
  | .settleExpiry slot => Sys2Proof.Machine.execSettleExpiry slot s
  | .slotSample s0 s1 s2 s3 => Sys2Proof.Machine.execSlotSample s0 s1 s2 s3 s
  | .requestLevelChange slot ch asserted => Sys2Proof.Machine.execRequestLevelChange slot ch asserted s
  | .interruptLevelChange slot line asserted => Sys2Proof.Machine.execInterruptLevelChange slot line asserted s
  | .holdoffExpiry => Sys2Proof.Machine.execHoldoffExpiry s
  | .transferEnd e => Sys2Proof.Machine.execTransferEnd e s
  | .shipAgeExpiry id => Sys2Proof.Machine.execShipAgeExpiry id s
  | .masterCycle addr word write data => Sys2Proof.Machine.execMasterCycle addr word write data s
  | .waitLimitExpiry slot => Sys2Proof.Machine.execWaitLimitExpiry slot s
  | .accessFirstCycleEnd e => Sys2Proof.Machine.execAccessFirstCycleEnd e s
  | .batchEntryEnd e => Sys2Proof.Machine.execBatchEntryEnd e s
  | .pollReadEnd e => Sys2Proof.Machine.execPollReadEnd e s
  | .pollIntervalExpiry => Sys2Proof.Machine.execPollIntervalExpiry s
  | .delayExpiry => Sys2Proof.Machine.execDelayExpiry s
  | .censusReadEnd e => Sys2Proof.Machine.execCensusReadEnd e s
  | .refreshExpiry => Sys2Proof.Machine.execRefreshExpiry s
  | .refreshCycleEnd => Sys2Proof.Machine.execRefreshCycleEnd s
  | .timerExpiry timer => Sys2Proof.Machine.execTimerExpiry timer s
  | .timedEntryEnd e => Sys2Proof.Machine.execTimedEntryEnd e s

end Sys2Proof.Machine
end

