-- ==== Sys2Proof/Machine/Clock.lean ====
section
/-! DEFINITION. What the part does by itself when no command waits (log entries 1 and 10): the work that needs nothing but its
own state (reading a record that waited, routing the held request, ending an access refused with ALIGN, admission), and
otherwise one microsecond (R163), after which the expiries that have come due wait as commands. -/

namespace Sys2Proof.Machine

/-- The expiry a slot's timer stands for. -/
def slotExpiry (i : SlotId) : SlotState → List Instr
  | .ramping => [.rampExpiry i]
  | .held => [.holdExpiry i]
  | .settling => [.settleExpiry i]
  | .off | .online | .parked | .fault => []

/-- The expiries that have come due, in the order in which the model takes those of one microsecond. -/
def State.dueEvents (s : State) : List Instr :=
  (if reachedBy s.link.watchdogAt s.now then
    (if s.link.stage = 0 then [.watchdogStage1] else if s.link.stage = 1 then [.watchdogStage2] else []) else []) ++
  ((List.finRange 4).flatMap fun i =>
    if reachedBy s.slots[i].timer s.now then slotExpiry i s.slots[i].state else []) ++
  (if s.arb.refreshAt.any (·.reached s.now) then [.refreshExpiry] else []) ++
  ((List.finRange 4).filter fun t => s.timers[t].gate && s.timers[t].due).map .timerExpiry ++
  (if s.relay.hand = .holdoff && reachedBy s.relay.holdoffAt s.now then [.holdoffExpiry] else []) ++
  (match s.queue with
    | b :: _ =>
      if b.step = .pollWait && reachedBy b.waitEnd s.now then [.pollIntervalExpiry]
      else if b.step = .delay && reachedBy b.waitEnd s.now then [.delayExpiry]
      else []
    | [] => []) ++
  ((List.finRange 16).filter fun id => s.regions[id].isMirror && s.ageReached id).map .shipAgeExpiry

/-- One microsecond passes: the timestamp and the gated counters move (R152, R163). -/
def State.microsecond (s : State) : State := { s with now := s.now + 1, timers := s.timers.map Timer.tick }

/-- One microsecond and the expiries it brings. -/
def State.tick (s : State) : State :=
  let s := s.microsecond
  { s with pending := s.pending ++ s.dueEvents }

/-- A record that waited can be read, or discarded with the rest of its transfer. -/
def State.waitingRecord (s : State) : Option (Instr × List Instr) :=
  match s.link.pipe with
  | c :: rest =>
    if s.link.configured && (s.link.parser = .discarding || s.link.canRead) then some (c, rest) else none
  | [] => none

/-- A record that waited is taken from the pipe; those behind it go on waiting, and are read, where the room allows, before a
notice is admitted (R167). -/
def State.takeWaiting (c : Instr) (rest : List Instr) (s : State) : Host.Outcome State Fault Refusal :=
  match exec c (s.modLink fun l => { l with pipe := [], behind := rest }) with
  | .next t => .next (t.modLink fun l => { l with pipe := l.pipe ++ rest, behind := [] })
  | .fault r => .fault r
  | .refused r => .refused r

/-- The command that ends an access refused with ALIGN, which performs no cycle (R26). -/
def State.refusedAccessEnd (s : State) : Option Instr :=
  match s.inFlight with
  | .access a =>
    if a.plan = .refused then
      match s.arb.owner with
      | .link =>
        match s.queue.head?.bind Batch.entry with
        | some (_, op) => some (if op.isPoll then .pollReadEnd {} else .batchEntryEnd {})
        | none => none
      | .timed _ => some (.timedEntryEnd {})
      | _ => none
    else none
  | _ => none

/-- The command of the work the part has at once, if any. -/
def State.ownCommand (s : State) : Option Instr :=
  if s.heldReady then some .heldRequestRouted
  else match s.refusedAccessEnd with
  | some c => some c
  | none =>
    match s.admissible with
    | some k => if !k.isFill then some .noticeAdmit else if !s.transferring then some .fillPassAdmit else none
    | none => none

/-- The step of a part with no command waiting. -/
def State.idle (s : State) : Host.Outcome State Fault Refusal :=
  match s.waitingRecord with
  | some (c, rest) => s.takeWaiting c rest
  | none =>
    match s.ownCommand with
    | some c => exec c s
    | none => .next s.tick

end Sys2Proof.Machine
end

