-- ==== Sys2Proof/Safety.lean ====
section
/-! DEFINITION. What a good state of the part is, in the terms the statements use: the laws that the manual states of every
moment, and when a request's record is read at once. -/

namespace Sys2Proof.Machine

/-- The mirror store is in canonical form. -/
def StoreOk (s : State) : Prop := Memory.wf s.store = true

/-- The report queue's law (R164): the records and the reservations together fit the 32 entries. -/
def RoomOk (s : State) : Prop := s.link.reports.length + s.link.reservations ≤ Config.reportCapacity

/-- The power switch, the isolation switches and the reset line stand as the slot's state says (the table of R1). -/
def Slot.TableOk (sl : Slot) : Prop :=
  sl.power = powerIn sl.state ∧ sl.closed = closedIn sl.state ∧ sl.reset = resetIn sl.state

/-- R1 of every slot. -/
def SlotsOk (s : State) : Prop := ∀ i : SlotId, s.slots[i].TableOk

/-- The owed count stays within 0 to 4, the row within 0 to 255 (03, section 3.1; R50, R51). -/
def RefreshOk (s : State) : Prop := s.arb.owed ≤ 4 ∧ s.arb.row < 256

/-- The port rule table: at most 24 entries, no port in two of them (R31, R32). -/
def RulesOk (s : State) : Prop :=
  s.rules.length ≤ Config.portRuleCapacity ∧ s.rules.Pairwise fun r q => r.meets q = false

/-- The cycle queue never holds more than 8 batches (R61). -/
def QueueOk (s : State) : Prop := s.queue.length ≤ Config.queueCapacity

/-- The bus settings stay within their ranges (R35). -/
def BusSettings.InRange (b : BusSettings) : Prop :=
  b.wait8io ≤ 7 ∧ b.wait16io ≤ 7 ∧ b.wait8mem ≤ 7 ∧ b.wait16mem ≤ 7 ∧
    (2 ≤ b.waitLimit ∧ b.waitLimit ≤ 1000) ∧ (100 ≤ b.period ∧ b.period ≤ 200) ∧ (1 ≤ b.burst ∧ b.burst ≤ 255)

/-- R35 and R38. -/
def BusOk (s : State) : Prop := s.bus.InRange

/-- The laws together. -/
structure Inv (s : State) : Prop where
  store : StoreOk s
  room : RoomOk s
  slots : SlotsOk s
  refresh : RefreshOk s
  rules : RulesOk s
  queue : QueueOk s
  bus : BusOk s

/-- No address lies in two extents held by different entries of the region table (R104). -/
def RegionsOk (s : State) : Prop :=
  ∀ i j : RegionId, i ≠ j → ∀ f ∈ s.regions[i].held, ∀ g ∈ s.regions[j].held, f.meets g = false

/-- A ship queue holds each granule at most once, and its dirty_total is the sum of its spans (08, section 8.1). -/
def ShipQueue.Ok (q : ShipQueue) : Prop :=
  (q.entries.map ShipEntry.granule).Nodup ∧ q.dirtyTotal = (q.entries.map ShipEntry.span).sum

/-- Every region's ship queue. -/
def ShipOk (s : State) : Prop := ∀ i : RegionId, s.regions[i].ship.Ok

/-- The passes and those who wait for them: the fill line holds exactly the regions whose pass runs, each once, each a MIRROR
region (R126, R129); a channel, the relay or the memory map waits only for a pass that runs and will tell it of its end (R87,
R111, R114, R130, R133, R143); the hand is FLUSHING exactly while it awaits a pass. What waits is so placed after the bytes it
waits for (R136). -/
structure PassesOk (s : State) : Prop where
  line : s.fillLine.Nodup ∧ ∀ r : RegionId, r ∈ s.fillLine ↔ s.regions[r].ship.running = true
  mirror : ∀ r : RegionId, s.regions[r].ship.running = true → s.regions[r].isMirror = true
  chans : ∀ (c : ChanId) (r : RegionId), r ∈ s.chans[c].awaitedRegions →
    s.regions[r].ship.running = true ∧ c ∈ s.regions[r].ship.waiters.chans
  relay : ∀ r : RegionId, r ∈ s.relay.awaited →
    s.regions[r].ship.running = true ∧ s.regions[r].ship.waiters.relay = true
  hand : s.relay.hand = .flushing ↔ s.relay.awaited ≠ []
  map : ∀ r : RegionId, s.regions[r].cond = .dropping ∨ s.regions[r].flushWaiters ≠ [] →
    s.regions[r].ship.running = true ∧ s.regions[r].ship.waiters.map = true

/-- A record the host offers is read at once: the function is configured, nothing waits before it, no transfer is being
discarded, and R164's condition holds. -/
def Reads (s : State) : Prop :=
  s.link.configured = true ∧ s.link.pipe = [] ∧ s.link.parser ≠ .discarding ∧ s.link.canRead = true

/-- A request other than BATCH is read and routed at once: it has a tag, and ORDERED does not hold it (R165, R169). -/
def Served (s : State) (h : Hdr) : Prop := Reads s ∧ h.tag ≠ 0 ∧ (h.ordered = false ∨ s.queue = [])

/-- The link unit after it has read a record and placed its reply: the reply joins the tail, and the reservation taken at
reading is released with it (R164, R167, R172). -/
def Link.answered (l : Link) (now : Time) (more : Bool) (r : Report) : Link :=
  { l with
    parser := if more then .inTransfer else .idle
    reports := l.reports ++ [r]
    lastRecord := now
    stage := 0
    watchdogAt := if l.interval = 0 then l.watchdogAt else some ⟨now, l.interval * 10000⟩ }

/-- The same, with the reply still to be placed: the reservation is held (R164). -/
def Link.taken (l : Link) (now : Time) (more : Bool) : Link :=
  { l with
    parser := if more then .inTransfer else .idle
    reservations := l.reservations + 1
    lastRecord := now
    stage := 0
    watchdogAt := if l.interval = 0 then l.watchdogAt else some ⟨now, l.interval * 10000⟩ }

/-- The state after a request that changes nothing but the link unit, answered with a status and content. -/
def State.answered (s : State) (h : Hdr) (kind : Nat) (st : Status) (body : Body) : State :=
  { s with link := s.link.answered s.now h.more (.reply (kind + 0x80) h.tag st body) }

/-! ### What stays beside an effect -/

/-- The fields that no level of a shared line, no grant of the bus, no ship pass, no store work and no placed record touches. -/
def State.kept (s : State) :=
  ((s.now, s.slots, s.sampleAt, s.drives, s.bus, s.rules), (s.census, s.timers, s.heldOpen, s.lastMaster, s.pending))

/-- A channel's program, position and terminal-count flag. -/
def Chan.program (ch : Chan) :=
  ((ch.programmed, ch.kind, ch.service, ch.autoInit, ch.step, ch.page, ch.baseAddress),
    (ch.currentAddress, ch.baseCount, ch.currentCount, ch.matchByte, ch.notifyTerminal, ch.tcFlag, ch.lastSystemAddress))

/-- The transfer that stages 1 and 2 start for a channel at an address, its target found (R20, R92, R98): the settings in force are
captured, and a DRAIN from the mirror store has its data from the store at once. -/
def State.starting (s : State) (c : ChanId) (ch : Chan) (a : Nat) (tg : Target) (m : List Host.Cell) : Transfer where
  ch := c
  kind := ch.kind
  sysAddr := a
  target := tg
  waits := if 4 ≤ c.val then s.bus.wait16mem else s.bus.wait8mem
  limit := s.bus.waitLimit
  clock := s.bus.clock
  terminal := ch.currentCount = 0
  data := match ch.kind, tg with
    | .drain, .mirror _ => some (if 4 ≤ c.val
        then (Memory.read m (a + 1)).zeroExtend 16 <<< 8 ||| (Memory.read m a).zeroExtend 16
        else (Memory.read m a).zeroExtend 16)
    | _, _ => none

/-- A channel after an address fault (R86, R87, R95): `t` is the context `ch` MASKED with reason FAULT, the fault joined to its
unreported notice. -/
def Chan.Faulted (t : Chan) (now : Time) (ch : Chan) (d : FaultDetail) (a : Nat) : Prop :=
  t.state = .masked ∧ t.maskReason = some .fault ∧ t.maskPending = none ∧ t.causes = { ch.causes with fault := true } ∧
    t.pendingFaults = (if ch.pendingFaults < 255 then ch.pendingFaults + 1 else 255) ∧ t.faultDetail = some d ∧
    t.faultAddress = some a ∧ t.pendingSince =
      if ch.causes.terminal = false ∧ ch.causes.matched = false ∧ ch.causes.fault = false then now else ch.pendingSince

/-- No FILL copy can be admitted, before or after replies are placed: the function is not configured, or the reservations take
up every free entry of the report queue (R167). -/
def State.NoRoom (s : State) : Prop :=
  s.link.configured = false ∨ Config.reportCapacity ≤ s.link.reports.length + s.link.reservations

/-- What follows where a claim on the bus may have appeared (R40): on an idle bus with some claim present a grant point, and otherwise
nothing, since with an owner the claim waits for the tenure's end. -/
def State.claimed (u : State) : State := if u.arb.owner = .none ∧ u.anyClaim = true then u.grantPoint else u

/-- A notice with an origin, formed of the lines `ls` of `u`, stands in `t` (R143): they are chosen and no other line changes; a MIRROR
region is awaited exactly if it holds the last_system_address of a channel, whatever its kind and state, to which a line of the
notice is linked, and has bytes queued or a pass running; each such region's pass runs with the relay among its waiters, one that
begins joining the fill line; the hand is FLUSHING while some region is awaited and CLAIMING otherwise. -/
def State.NoticeFormed (u : State) (ls : List LineId) (o : Origin) (t : State) : Prop :=
  let owed : RegionId → Prop := fun id =>
    (∃ l ∈ ls, ∃ c : ChanId, u.lines[l].linked = some c ∧ u.mirrorAt u.chans[c].lastSystemAddress = some id) ∧
      (u.regions[id].ship.entries ≠ [] ∨ u.regions[id].ship.running = true)
  t.relay.origin = o ∧ (t.relay.hand = .flushing ∨ t.relay.hand = .claiming) ∧
  (∀ l : LineId, t.lines[l] = if l ∈ ls then { u.lines[l] with chosen := true } else u.lines[l]) ∧
  ((∀ l ∈ ls, u.lines[l].linked = none) → u.relay.awaited = [] → t.relay.hand = .claiming) ∧
  (PassesOk u →
    (∀ id : RegionId, id ∈ t.relay.awaited ↔ owed id) ∧
    (∀ id : RegionId, owed id → t.regions[id].ship.running = true ∧ t.regions[id].ship.waiters.relay = true ∧
      (u.regions[id].ship.running = false → id ∈ t.fillLine)) ∧
    (t.relay.hand = .flushing ↔ ∃ id : RegionId, owed id))

/-- What the check of R141 and R142, made on a relay and lines as in `u` with no line chosen, leaves in `t`: nothing with a busy
hand or no eligible line; PER_LINE, a notice of the eligible line of highest rank; GROUPED, the holdoff started, or, for a holdoff of
0, a notice of every eligible line at once. -/
def State.RelayChecked (u t : State) : Prop :=
  (u.relay.hand ≠ .empty ∨ u.eligibleLines = [] → t.relay = u.relay ∧ t.lines = u.lines) ∧
  (u.relay.hand = .empty → u.relay.mode = .perLine → ∀ l rest, u.eligibleLines = l :: rest →
    u.NoticeFormed [l] .choice t ∧ t.relay.holdoffAt = u.relay.holdoffAt) ∧
  (u.relay.hand = .empty → u.relay.mode = .grouped → u.eligibleLines ≠ [] →
    (u.relay.holdoff ≠ 0 → t.lines = u.lines ∧
      t.relay = { u.relay with hand := .holdoff, holdoffAt := some ⟨u.now, u.relay.holdoff * 10⟩ }) ∧
    (u.relay.holdoff = 0 → u.NoticeFormed u.eligibleLines .holdoff t ∧ t.relay.holdoffAt = none)) ∧
  t.relay.mode = u.relay.mode ∧ t.relay.holdoff = u.relay.holdoff

/-- What becomes of a channel whose shared request line now stands at `asks` (R78 to R81, R13, R14): a rise moves READY to SERVING; a
fall moves a channel that waits in SERVING to READY, but for a BLOCK channel whose run is open, or to MASKED with its pending reason
under CASCADE; of the bus's owner the level alone is recorded. -/
def Chan.asked (ch : Chan) (owns asks : Bool) : Chan :=
  if ch.request = asks then ch
  else if asks = true then { ch with request := true, state := if ch.state = .ready then .serving else ch.state }
  else if ch.state ≠ .serving ∨ owns = true ∨ (ch.service = .block ∧ ch.blockOpen = true) then { ch with request := false }
  else if ch.service = .cascade ∧ ch.maskPending.isSome = true then
    { ch with request := false, state := .masked, maskReason := ch.maskPending, maskPending := none }
  else { ch with request := false, state := .ready }

/-- What follows in `t` where slots' isolation switches have opened or closed since `s` (R12 to R14). Each interrupt line is asserted
iff a slot connected in `t` asserts it: a rise is an edge, latched with the present time or merged into a pending one, a fall is a
change of level alone, and the relay makes its check (R140). Each channel's request is asserted iff a slot connected in `t` asserts it;
with the bus owned and not released, the channels follow it as `Chan.asked` says, the owner stays, and the cycle on the bus keeps the
slots that were connected before a change (R21; log entry 37). A master whose request has fallen releases the bus (R48, R81). -/
def State.SwitchesFollowed (s t : State) : Prop :=
  let level : LineId → Bool := fun l => decide (∃ j : SlotId, t.slots[j].closed = true ∧ l ∈ s.drives[j].lines)
  let asks : ChanId → Bool := fun c => decide (∃ j : SlotId, t.slots[j].closed = true ∧ c ∈ s.drives[j].requests)
  let change : List (List SlotId) :=
    if ∀ j : SlotId, t.slots[j].closed = s.slots[j].closed then [] else [(List.finRange 4).filter fun j => s.slots[j].closed]
  (∀ us : Vector Line 11, (∀ l : LineId, us[l] =
      if level l = true ∧ s.lines[l].level = false then
        if s.lines[l].pending = true then { s.lines[l] with level := true, merged := true }
        else { s.lines[l] with level := true, pending := true, edgeTime := s.now }
      else { s.lines[l] with level := level l }) →
    (∀ l : LineId, { t.lines[l] with chosen := false } = { us[l] with chosen := false }) ∧
    (PassesOk s → State.RelayChecked { s with lines := us } t)) ∧
  (∀ c : ChanId, t.chans[c].request = asks c) ∧
  (s.arb.owner ≠ .none → (∀ c : ChanId, s.arb.owner = .dma c true → asks c = true) →
    t.arb = s.arb ∧ t.queue = s.queue ∧ t.lane = s.lane ∧
    (∀ c : ChanId, { t.chans[c] with awaitedRegions := [] } =
      { s.chans[c].asked (s.arb.owner.isChan c) (asks c) with awaitedRegions := [] }) ∧
    (∀ a : Access, s.inFlight = .access a → t.inFlight = .access { a with switched := a.switched ++ change }) ∧
    (∀ x : Transfer, s.inFlight = .transfer x → t.inFlight = .transfer { x with switched := x.switched ++ change }) ∧
    (∀ r : RefreshCycle, s.inFlight = .refresh r → t.inFlight = .refresh r)) ∧
  (∀ c : ChanId, s.arb.owner = .dma c true → s.chans[c].state = .serving → asks c = false →
    t.arb.owner.isChan c = false ∧ t.written = [] ∧
    (s.chans[c].maskPending = none → t.chans[c].state = .ready) ∧
    (∀ r : MaskReason, s.chans[c].maskPending = some r →
      t.chans[c].state = .masked ∧ t.chans[c].maskReason = some r ∧ t.chans[c].maskPending = none))

/-- No work on the mirror store waits, and no region is about to be placed in another's stead: no store byte is about to change
by itself. -/
def State.Settled (s : State) : Prop := s.storeWaits = [] ∧ ∀ r : RegionId, s.regions[r].successor = none

/-- `t` agrees with `s` in everything that no grant, pass or placed reply changes: the kept fields, every channel's program and
position, the records already queued, in their order, and, with nothing about to be placed, every byte of the store. -/
def State.Apart (s t : State) : Prop :=
  t.kept = s.kept ∧ (∀ c : ChanId, t.chans[c].program = s.chans[c].program) ∧
    (∃ more : List Report, t.link.reports = s.link.reports ++ more) ∧ (s.Settled → t.store = s.store)

end Sys2Proof.Machine
end

