-- ==== Sys2Proof/WellFormed.lean ====
section
/-! DEFINITION. Well-formed commands: a request that its record can carry and that passes the link unit's frame, kind and size
checks (R163, R165, R166), and an event that its agent can bring about. -/

namespace Sys2Proof

/-- The header of a request. -/
def Instr.header : Instr → Option Hdr
  | .hello h | .linkSet h _ | .deviceReset h | .slotSet h _ _ _ _ _ | .slotPowerOn h _ _ | .slotPowerOff h _
  | .slotPulse h _ | .slotQuery h _ | .busSet h _ | .busQuery h | .portRuleSet h _ _ _ _ _ _ | .portRuleDrop h _
  | .batch h _ | .censusStart h _ _ | .censusStop h | .chanLoad h _ _ | .chanMask h _ | .chanUnmask h _
  | .chanQuery h _ | .regionSet h _ _ | .regionDrop h _ | .regionFlush h _ | .mirrorPut h _ _ | .mirrorGet h _ _
  | .intSet h _ _ | .lineSet h _ _ _ | .intDone h _ | .intQuery h | .timerLoad h _ _ _ _ | .timerGate h _ _ _ _
  | .timerBatch h _ _ | .timerQuery h _ => some h
  | .frameRefused _ | .kindOrSizeRefused _ _ _ _ | .heldRequestRouted | .reportRecordSent | .noticeAdmit
  | .fillPassAdmit | .linkConfigured | .linkReset | .powerOn | .watchdogStage1 | .watchdogStage2 | .rampExpiry _
  | .holdExpiry _ | .settleExpiry _ | .slotSample _ _ _ _ | .requestLevelChange _ _ _ | .interruptLevelChange _ _ _
  | .holdoffExpiry | .transferEnd _ | .shipAgeExpiry _ | .masterCycle _ _ _ _ | .waitLimitExpiry _
  | .accessFirstCycleEnd _ | .batchEntryEnd _ | .pollReadEnd _ | .pollIntervalExpiry | .delayExpiry
  | .censusReadEnd _ | .refreshExpiry | .refreshCycleEnd | .timerExpiry _ | .timedEntryEnd _ => none

/-- The kind code of a request's record (11.8); 0, which is no kind, for an event. -/
def Instr.kindCode : Instr → Nat
  | .hello _ => 0x01
  | .linkSet _ _ => 0x02
  | .deviceReset _ => 0x03
  | .slotSet _ _ _ _ _ _ => 0x08
  | .slotPowerOn _ _ _ | .slotPowerOff _ _ => 0x09
  | .slotPulse _ _ => 0x0A
  | .slotQuery _ _ => 0x0B
  | .busSet _ _ => 0x10
  | .busQuery _ => 0x11
  | .portRuleSet _ _ _ _ _ _ _ => 0x12
  | .portRuleDrop _ _ => 0x13
  | .batch _ _ => 0x14
  | .censusStart _ _ _ => 0x15
  | .censusStop _ => 0x16
  | .chanLoad _ _ _ => 0x18
  | .chanMask _ _ => 0x19
  | .chanUnmask _ _ => 0x1A
  | .chanQuery _ _ => 0x1B
  | .regionSet _ _ _ => 0x20
  | .regionDrop _ _ => 0x21
  | .regionFlush _ _ => 0x22
  | .mirrorPut _ _ _ => 0x23
  | .mirrorGet _ _ _ => 0x24
  | .intSet _ _ _ => 0x28
  | .lineSet _ _ _ _ => 0x29
  | .intDone _ _ => 0x2A
  | .intQuery _ => 0x2B
  | .timerLoad _ _ _ _ _ => 0x30
  | .timerGate _ _ _ _ _ => 0x31
  | .timerBatch _ _ _ => 0x32
  | .timerQuery _ _ => 0x33
  | .frameRefused _ | .kindOrSizeRefused _ _ _ _ | .heldRequestRouted | .reportRecordSent | .noticeAdmit
  | .fillPassAdmit | .linkConfigured | .linkReset | .powerOn | .watchdogStage1 | .watchdogStage2 | .rampExpiry _
  | .holdExpiry _ | .settleExpiry _ | .slotSample _ _ _ _ | .requestLevelChange _ _ _ | .interruptLevelChange _ _ _
  | .holdoffExpiry | .transferEnd _ | .shipAgeExpiry _ | .masterCycle _ _ _ _ | .waitLimitExpiry _
  | .accessFirstCycleEnd _ | .batchEntryEnd _ | .pollReadEnd _ | .pollIntervalExpiry | .delayExpiry
  | .censusReadEnd _ | .refreshExpiry | .refreshCycleEnd | .timerExpiry _ | .timedEntryEnd _ => 0

/-- The lengths of the requests whose payload varies: BATCH, MIRROR_PUT, INT_DONE, TIMER_BATCH; the count of MIRROR_GET. -/
def Instr.lengthsOk : Instr → Bool
  | .batch _ es => 1 ≤ es.length && es.length ≤ 64
  | .mirrorPut _ _ bs => 1 ≤ bs.length && bs.length ≤ 1016
  | .mirrorGet _ _ n => 1 ≤ n && n ≤ 1016
  | .intDone _ ls => 1 ≤ ls.length && ls.length ≤ 11
  | .timerBatch _ _ es => es.length ≤ 16
  | _ => true

/-- The numbers that a request's record carries in one byte (11.8): the slot, channel, region, line or timer. -/
def Instr.byteNumbers : Instr → List Nat
  | .slotPowerOn _ n _ | .slotPowerOff _ n | .slotPulse _ n | .slotQuery _ n | .slotSet _ n _ _ _ _ => [n]
  | .chanLoad _ n _ | .chanMask _ n | .chanUnmask _ n | .chanQuery _ n => [n]
  | .regionSet _ n _ | .regionDrop _ n | .regionFlush _ n => [n]
  | .lineSet _ n m l => [n, m, l]
  | .intDone _ ls => ls
  | .timerLoad _ n _ _ _ | .timerGate _ n _ _ _ | .timerBatch _ n _ | .timerQuery _ n => [n]
  | _ => []

/-- A header that passes R165: its tag is a non-zero 16-bit number. -/
def Hdr.wf (h : Hdr) : Bool := h.tag ≠ 0 && h.tag < 0x10000

/-- A frame fault as R165 describes it: header fields of their widths, and fewer header bytes than tell more. -/
def FrameFault.wf : FrameFault → Bool
  | .overrun _ kind tag => kind < 0x100 && tag < 0x10000
  | .tooLong kind tag _ => kind < 0x100 && tag < 0x10000
  | .tagZero kind _ => kind < 0x100

/-- The sample of the select and those of ready come one after another (R19, R21): no later one has seen fewer changes of the
switches (log entry 37). A slot's card answers once. -/
def BusEnd.wf (e : BusEnd) : Bool :=
  decide ((e.select :: e.held).Pairwise fun x y => x.changes ≤ y.changes) && decide (e.answers.map Answer.slot).Nodup

/-- What an event's agent can bring about. -/
def Instr.eventOk : Instr → Bool
  | .frameRefused f => f.wf
  | .kindOrSizeRefused h kind length getCount =>
    h.wf && kind < 0x100 && length ≤ 1024 && Machine.recordCheck kind length getCount ≠ .ok
  | .masterCycle a word _ _ => !word || a.addr.toNat % 2 = 0
  | .slotPowerOn _ _ value => value ≠ 0
  | .transferEnd e | .accessFirstCycleEnd e | .batchEntryEnd e | .pollReadEnd e | .censusReadEnd e | .timedEntryEnd e => e.wf
  | _ => true

/-- A well-formed command. -/
def Instr.wf (i : Instr) : Bool :=
  i.header.all Hdr.wf && i.lengthsOk && i.byteNumbers.all (· < 256) && i.eventOk

end Sys2Proof
end

