-- ==== Sys2Proof/Certificates/Slice0/Obligations.lean ====
section
/-! DEFINITION. The statements about the part, from the manual's numbered rules. `Served s h`: the request's record is read and
routed at once; `s.answered h k st b`: the state after a request of kind k that changed nothing but the link unit, its reply
placed. A next state written out whole is also the frame: what is not written stays. Where a grant of the bus, a pass or the
relay may follow, `State.Apart u t` says that `t` agrees with the state `u` written in everything those do not touch. -/

open Sys2Proof Sys2Proof.Machine

/-! ### The queue of commands, reset, time -/

/-- The command at the front of the queue runs, on the state with the queue's rest (log entry 1). -/
def Obligations.StepRunsFrontCommand : Prop :=
  ∀ (c : Instr) (rest : List Instr) (s : State), s.pending = c :: rest → step s = exec c { s with pending := rest }

/-- With no command waiting (log entry 1): a record that waits in the pipe is taken as soon as it can be read, or is discarded with
its transfer, those behind it going on to wait (R164, R167); else the work the part has of its own is done (the held request
routed, R169; a refused access ended, R26; a claimant admitted, R167); else one microsecond passes: the timestamp counts up
(R163), gated counters count down and one that stood at 0 is due to expire (R152), and nothing else changes but the queue, which
the expiries due in the new state join. Those are: a watchdog, slot, refresh, holdoff, POLL or DELAY or ship-age deadline that is
reached and a gated timer that is due. That the idle step does this, and the order of the expiries, is the model's choice (log
entries 1 and 10). -/
def Obligations.EmptyQueueLetsTimePass : Prop :=
  (∀ s : State, s.pending = [] →
    (s.waitingRecord = none → s.ownCommand = none → ∃ ts : Vector Timer 4,
      let u : State := { s with now := s.now + 1, timers := ts }
      step s = .next { u with pending := u.dueEvents } ∧
      ∀ i : TimerId, ts[i] =
        if s.timers[i].gate = false then s.timers[i]
        else if s.timers[i].counter = 0 then { s.timers[i] with due := true }
        else { s.timers[i] with counter := s.timers[i].counter - 1 }) ∧
    (∀ (c : Instr) (rest : List Instr) (t : State), s.link.pipe = c :: rest → s.link.configured = true →
      (s.link.parser = .discarding ∨ s.link.canRead = true) →
      exec c { s with link := { s.link with pipe := [], behind := rest } } = .next t →
      step s = .next { t with link := { t.link with pipe := t.link.pipe ++ rest, behind := [] } }) ∧
    (s.waitingRecord = none → ∀ c : Instr, s.ownCommand = some c → step s = exec c s) ∧
    (s.waitingRecord = none → s.heldReady = true → step s = exec .heldRequestRouted s) ∧
    (s.waitingRecord = none → s.heldReady = false → s.inFlight = .none → s.link.canAdmit = true →
      ∀ k : Claimant, s.firstClaimant = some k →
        step s = if k.isFill = true then exec .fillPassAdmit s else exec .noticeAdmit s)) ∧
  (∀ u : State,
    (.watchdogStage1 ∈ u.dueEvents ↔ reachedBy u.link.watchdogAt u.now = true ∧ u.link.stage = 0) ∧
    (.watchdogStage2 ∈ u.dueEvents ↔ reachedBy u.link.watchdogAt u.now = true ∧ u.link.stage = 1) ∧
    (∀ i : SlotId,
      (.rampExpiry i ∈ u.dueEvents ↔ reachedBy u.slots[i].timer u.now = true ∧ u.slots[i].state = .ramping) ∧
      (.holdExpiry i ∈ u.dueEvents ↔ reachedBy u.slots[i].timer u.now = true ∧ u.slots[i].state = .held) ∧
      (.settleExpiry i ∈ u.dueEvents ↔ reachedBy u.slots[i].timer u.now = true ∧ u.slots[i].state = .settling)) ∧
    (.refreshExpiry ∈ u.dueEvents ↔ ∃ d, u.arb.refreshAt = some d ∧ d.reached u.now = true) ∧
    (∀ i : TimerId, .timerExpiry i ∈ u.dueEvents ↔ u.timers[i].gate = true ∧ u.timers[i].due = true) ∧
    (.holdoffExpiry ∈ u.dueEvents ↔ u.relay.hand = .holdoff ∧ reachedBy u.relay.holdoffAt u.now = true) ∧
    (.pollIntervalExpiry ∈ u.dueEvents ↔ ∃ b rest, u.queue = b :: rest ∧ b.step = .pollWait ∧ reachedBy b.waitEnd u.now = true) ∧
    (.delayExpiry ∈ u.dueEvents ↔ ∃ b rest, u.queue = b :: rest ∧ b.step = .delay ∧ reachedBy b.waitEnd u.now = true) ∧
    (∀ r : RegionId, .shipAgeExpiry r ∈ u.dueEvents ↔ u.regions[r].isMirror = true ∧ u.regions[r].ship.running = false ∧
      reachedBy u.regions[r].ship.ageDeadline u.now = true))

/-- Power-on values of every block (R17, R38, R54, R68, R76, R91, R122, R138, R151, R162, R176), each record written out whole. The
values of pending_since, the grant time, the relay's origin, the census's phase and first signature byte, the report transfer's bytes and
the model's own fields are the model's choice (log entries 30 and 34), the sampler's phase is log entry 24's. -/
def Obligations.ResetHoldsPowerOnValues : Prop :=
  (∀ i : SlotId, State.reset.slots[i] =
    { state := .off, power := false, closed := false, reset := .undriven, limit5 := 30, limit12 := 10, holdTime := 20
      settleTime := 250, timer := none, i5 := 0, i12 := 0, v5 := 0, over5 := 0, over12 := 0, low5 := 0
      faultReason := none, faultRail := none, heldNotice := none }) ∧
  State.reset.sampleAt = ⟨0, 1000⟩ ∧
  State.reset.bus =
    { clock := .mhz800, wait8io := 4, wait16io := 1, wait8mem := 4, wait16mem := 1, waitLimit := 16, refresh := true
      period := 150, burst := 16 } ∧
  State.reset.rules = [] ∧ State.reset.queue = [] ∧ State.reset.cancelled = [] ∧ State.reset.lane = [] ∧
  State.reset.fillLine = [] ∧ State.reset.inFlight = .none ∧ State.reset.written = [] ∧ State.reset.openSent = false ∧
  State.reset.storeWaits = [] ∧
  State.reset.arb =
    { owner := .none, burstCount := 0, burstCap := 16, yield := false, owed := 0, row := 0, shortfall := false
      refreshAt := some ⟨0, 30⟩, heldRefresh := none, overstaySent := false, heldOverstay := .replicate 7 none
      grantTime := 0 } ∧
  State.reset.census =
    { state := .idle, first := 0, past := 0, probe := 0, phase := .signature, pos := 0, sig := 0, len := 0, sum := 0
      findings := 0, bytesRead := 0, timedOut := 0, heldFind := none, reason := none, stopWaiters := [], abandon := false } ∧
  (∀ c : ChanId, State.reset.heldOpen[c] = none ∧ State.reset.chans[c] =
    { programmed := false, kind := .fill, service := .single, autoInit := false, step := .up, page := 0, baseAddress := 0
      currentAddress := 0, baseCount := 0, currentCount := 0, matchByte := none, notifyTerminal := false, tcFlag := false
      state := .masked, maskReason := some .reset, maskPending := none, maskWaiters := [], blockOpen := false
      request := false, lastSystemAddress := 0, causes := { terminal := false, matched := false, fault := false }
      pendingTerminals := 0, pendingFaults := 0, faultDetail := none, faultAddress := none, pendingSince := 0
      awaitedRegions := [] }) ∧
  (∀ r : RegionId, State.reset.regions[r].cond = .absent ∧ State.reset.regions[r].successor = none ∧
    State.reset.regions[r].dropWaiters = [] ∧ State.reset.regions[r].flushWaiters = [] ∧
    State.reset.regions[r].ship =
      { entries := [], dirtyTotal := 0, ageDeadline := none, running := false
        waiters := { chans := [], relay := false, map := false }, trickling := false }) ∧
  (∀ l : LineId, State.reset.lines[l] =
    { level := false, pending := false, merged := false, edgeTime := 0, masked := true, inService := false
      linked := none, chosen := false }) ∧
  State.reset.relay =
    { mode := .perLine, holdoff := 0, hand := .empty, holdoffAt := none, origin := .choice, awaited := [] } ∧
  (∀ t : TimerId, State.reset.timers[t] =
    { counter := 0, holding := 0, mode := .oneShot, gate := false, notify := false, fired := false, overrun := false
      batch := none, expiries := 0, heldNotice := none, due := false }) ∧
  State.reset.link =
    { configured := false, parser := .idle, pipe := [], behind := [], reservations := 0, reports := [], held := none
      interval := 0, stage := 0, watchdogAt := none, lastRecord := 0, heldQuiet := none, awaitReset := false
      transferBytes := 0 } ∧
  State.reset.now = 0

/-! ### The resets -/

/-- POWER_ON: every block at its power-on values (R17, R38, R54, R68, R76, R91, R122, R138, R151, R162, R176), written out in
ResetHoldsPowerOnValues. The model's choices in that state: the store lists nothing (log entry 5), what the cards drive is kept (log
entry 22), the sampler's phase (log entry 24), the fields that the chapters name no value for (log entries 30 and 34); the waiting
commands and the counter of the free values are the model's own and stay (log entries 1 and 6). LINK_CONFIGURED: configured becomes
yes, nothing else (R163, R176). -/
def Obligations.PowerOnAndConfiguration : Prop :=
  ∀ s : State,
    exec .powerOn s = .next { State.reset with pending := s.pending, drives := s.drives, free := s.free } ∧
    exec .linkConfigured s = .next { s with link := { s.link with configured := true } }

/-- DEVICE_RESET (R174): the OK reply joins the records already queued; every block takes its power-on values; the timestamp
is 0; configured is kept; nothing more is read until the reply has left. A transfer, refresh cycle or performed access in
flight stays on the bus, its requester gone, and the settings and the port rules take their power-on values after it: until then
they stay, but for refresh enable and period, and its end, whatever it brings, sets them, discards the outcome and grants the bus
(R38, R54). The model's choices in it: last_record_time becomes 0 (log entry 13), the cycle kept keeps its owner and is marked an
orphan, which of the settings wait for its end (log entry 21), it keeps the slots whose switches the reset has opened (log entry 37),
the store lists nothing (log entry 5), the sampler starts its phase again (log entry 24). -/
def Obligations.DeviceResetReturnsEveryBlock : Prop :=
  (∀ (s : State) (h : Hdr), Served s h →
    let opened : List SlotId := (List.finRange 4).filter fun j => s.slots[j].closed
    let change : List (List SlotId) := if opened = [] then [] else [opened]
    ∃ t : State, exec (.deviceReset h) s = .next t ∧
      t.link = { ({} : Link) with
        configured := true, parser := if h.more then .discarding else .idle, transferBytes := s.link.transferBytes
        reports := s.link.reports ++ [.reply 0x83 h.tag .ok .empty], awaitReset := true } ∧
      t.now = 0 ∧ t.slots = State.reset.slots ∧ t.sampleAt = State.reset.sampleAt ∧ t.queue = [] ∧ t.cancelled = [] ∧ t.lane = [] ∧ t.census = State.reset.census ∧
      t.chans = State.reset.chans ∧ t.regions = State.reset.regions ∧ t.store = [] ∧ t.storeWaits = [] ∧
      t.fillLine = [] ∧ t.written = [] ∧ t.heldOpen = State.reset.heldOpen ∧ t.relay = State.reset.relay ∧
      t.lines = State.reset.lines ∧ t.timers = State.reset.timers ∧
      t.arb = { State.reset.arb with owner := t.arb.owner } ∧ t.drives = s.drives ∧ t.pending = s.pending ∧
      let kept : Prop := t.orphan = true ∧ t.arb.owner = s.arb.owner ∧ t.rules = s.rules ∧
        t.bus = { s.bus with refresh := true, period := 150 }
      ((s.inFlight = .none ∨ ∃ x : Access, s.inFlight = .access x ∧ x.plan = .refused) →
        t.inFlight = .none ∧ t.arb.owner = .none ∧ t.orphan = false ∧ t.bus = State.reset.bus ∧ t.rules = []) ∧
      (∀ x : Transfer, s.inFlight = .transfer x →
        kept ∧ t.inFlight = .transfer { x with switched := x.switched ++ change }) ∧
      (∀ x : RefreshCycle, s.inFlight = .refresh x → kept ∧ t.inFlight = .refresh x) ∧
      (∀ x : Access, s.inFlight = .access x → x.plan ≠ .refused →
        kept ∧ t.inFlight = .access { x with switched := x.switched ++ change })) ∧
  (∀ s : State, s.orphan = true →
    let discarded : Instr → Prop := fun c => ∃ t : State, exec c s = .next t ∧ t.orphan = false ∧
      State.Apart { s with bus := State.reset.bus, rules := [] } t ∧ t.lines = s.lines ∧ t.arb.owed = s.arb.owed ∧
      t.arb.row = s.arb.row ∧ t.queue.map Batch.results = s.queue.map Batch.results ∧
      t.lane.map Run.results = s.lane.map Run.results ∧
      t.arb.refreshAt = if s.bus.refresh = true then s.arb.refreshAt else some ⟨halfMicros s.now, 30⟩
    (∀ (x : Transfer) (e : BusEnd), s.inFlight = .transfer x → discarded (.transferEnd e)) ∧
    (∀ r : RefreshCycle, s.inFlight = .refresh r → discarded .refreshCycleEnd) ∧
    (∀ (a : Access) (e : BusEnd), s.inFlight = .access a → s.accessEnd a e ≠ none →
      (s.arb.owner = .link → discarded (.batchEntryEnd e) ∧ discarded (.pollReadEnd e)) ∧
      (s.arb.owner = .census → discarded (.censusReadEnd e)) ∧
      (∀ i : TimerId, s.arb.owner = .timed i → discarded (.timedEntryEnd e))))

/-- LINK_RESET on the link unit and the blocks (R175; R18, R39, R55, R67, R76, R90, R123, R137, R150, R161): the report queue, the
reservations and the held request are gone and the rest of the link unit's state is kept; slots, bus settings, rules and the
arbiter stay; every channel that is not the bus's owner is MASKED with reason LINK, its program and position kept; every gate is
off and the rest of each timer kept; no batch and no run is left but one whose access is in flight; the census is IDLE unless its
read is in flight; in_service is clear on every line, the rest of the lines and of the relay is kept but for the check made after
it; the store is kept, and so are the region table, the ship queues and the fill line but for their waiting tags, where that check
forms no notice. The model's choices in it: what is ended with its access in flight stays, marked, until it completes (log entry
20); what waits in the pipe is dropped (log entry 4). -/
def Obligations.LinkResetForgetsTheHost : Prop :=
  ∀ s : State, ∃ t : State, exec .linkReset s = .next t ∧
    t.link = { s.link with
      configured := false, parser := .idle, pipe := [], reservations := 0, reports := [], held := none, stage := 0
      watchdogAt := if s.link.interval = 0 then s.link.watchdogAt else some ⟨s.now, s.link.interval * 10000⟩
      awaitReset := false, transferBytes := 0 } ∧
    t.kept = { s with timers := t.timers, census := t.census }.kept ∧ t.arb = s.arb ∧ t.inFlight = s.inFlight ∧
    t.openSent = s.openSent ∧ (s.Settled → t.store = s.store) ∧
    (∀ c : ChanId, ¬ (s.chans[c].state = .serving ∧ s.arb.owner.isChan c = true) →
      t.chans[c].state = .masked ∧ t.chans[c].maskReason = some .link ∧ t.chans[c].maskPending = none) ∧
    (∀ c : ChanId, s.chans[c].state = .serving → s.arb.owner.isChan c = true →
      t.chans[c].state = .serving ∧ t.chans[c].maskPending = some .link) ∧
    (∀ c : ChanId, t.chans[c].program = s.chans[c].program ∧ t.chans[c].maskWaiters = [] ∧
      t.chans[c].causes = s.chans[c].causes) ∧
    (∀ i : TimerId, t.timers[i] = { s.timers[i] with gate := false, due := false }) ∧
    (∀ b ∈ t.queue, b.step = .cycle ∧ b.discard = true) ∧ (∀ r ∈ t.lane, r.step = .cycle ∧ r.discard = true) ∧
    (¬ (s.arb.owner = .census ∧ s.orphan = false) → t.census.state = .idle) ∧
    (∀ l : LineId, { t.lines[l] with chosen := false } = { s.lines[l] with chosen := false, inService := false }) ∧
    (∀ us : Vector Line 11, (∀ l : LineId, us[l] = { s.lines[l] with inService := false }) →
      State.RelayChecked { s with lines := us } t) ∧
    (s.relay.hand ≠ .empty ∨ (∀ l : LineId, s.lines[l].pending = false ∨ s.lines[l].masked = true) →
      t.fillLine = s.fillLine ∧ t.written = s.written ∧ t.relay = s.relay ∧
      ∀ r : RegionId, t.regions[r] = { s.regions[r] with dropWaiters := [], flushWaiters := [] })

/-! ### The link unit -/

/-- HELLO (R170): answered OK at once with the part's identity and capacities and the present timestamp. -/
def Obligations.HelloReportsTheCapacities : Prop :=
  ∀ (s : State) (h : Hdr), Served s h →
    exec (.hello h) s = .next (s.answered h 0x01 .ok
      (.hello 0x2E61 0x0216 1 4 [0, 1, 2, 3, 5, 6, 7] [9, 10, 11, 12, 14, 15, 3, 4, 5, 6, 7] 16 16777216 24 8 64 4 16 32
        1024 s.now))

/-- LINK_SET (R171): 0 turns the watchdog off; 1 to 4 become 5, more than 500 becomes 500; the deadline runs from the time
the LINK_SET itself was read, also where it was held and is routed later. -/
def Obligations.LinkSetSetsTheWatchdog : Prop :=
  ∀ (s : State) (h : Hdr) (units : Nat),
    let v := if units = 0 then 0 else if units < 5 then 5 else if 500 < units then 500 else units
    (Served s h → exec (.linkSet h units) s =
      let a := s.answered h 0x02 .ok (.linkInterval v)
      .next { a with link := { a.link with
        interval := v, stage := 0, watchdogAt := if v = 0 then none else some ⟨s.now, v * 10000⟩ } }) ∧
    (s.link.held = some (.linkSet h units, .ordered) → s.queue = [] → 1 ≤ s.link.reservations →
      exec .heldRequestRouted s = .next { s with link := { s.link with
        held := none, interval := v, stage := if v = 0 then 0 else s.link.stage
        watchdogAt := if v = 0 then none else some ⟨s.link.lastRecord, v * 10000⟩
        reports := s.link.reports ++ [.reply 0x82 h.tag .ok (.linkInterval v)]
        reservations := s.link.reservations - 1 } })

/-- A request of any kind that is read and passes its checks reaches its owner, and the command answers a next state: for
every request row of the table, every tag and every operand the record can carry. -/
def Obligations.EveryServedRequestIsRouted : Prop :=
  ∀ (c : Instr) (h : Hdr) (s : State), c.header = some h → c.wf = true → Reads s →
    (if c.kindCode = 0x14 then s.queue.length < 8 else h.ordered = false ∨ s.queue = []) →
    exec c s = .next (route c { s with link := s.link.taken s.now h.more })

/-- Back-pressure and the holds (R163, R164, R169, R174): with fewer than two free entries beyond the reservations, with a request
held, while a DEVICE_RESET reply has not left, or behind records that wait, a request is not taken and not lost; a request other
than BATCH with ORDERED set is held while the cycle queue holds a batch, and a BATCH while it holds 8: read, its reservation kept.
HELD_REQUEST_ROUTED: an ORDERED hold ends when the queue is empty, a QUEUE_FULL hold when a place is free; until then nothing
happens; a BATCH shown whole. That a record offered unconfigured has no effect, and that an unread record stands in link.pipe, is
the model's choice (log entry 4). -/
def Obligations.RequestsWaitAreHeldAndRouted : Prop :=
  (∀ (c : Instr) (h : Hdr) (s : State), c.header = some h →
      (s.link.configured = false → exec c s = .next s) ∧
      (s.link.configured = true → s.link.parser ≠ .discarding →
        (s.link.pipe ≠ [] ∨ s.link.held ≠ none ∨ s.link.awaitReset = true ∨
          32 - s.link.reports.length < s.link.reservations + 2) →
        exec c s = .next { s with link := { s.link with pipe := s.link.pipe ++ [c] } }) ∧
      (c.wf = true → Reads s → c.kindCode ≠ 0x14 → h.ordered = true → s.queue ≠ [] →
        exec c s = .next { s with link := { s.link.taken s.now h.more with held := some (c, .ordered) } }) ∧
      (c.wf = true → Reads s → c.kindCode = 0x14 → 8 ≤ s.queue.length →
        exec c s = .next { s with link := { s.link.taken s.now h.more with held := some (c, .queueFull) } })) ∧
  (∀ (c : Instr) (s : State), s.link.held = some (c, .ordered) → s.queue = [] →
    exec .heldRequestRouted s = .next (route c { s with link := { s.link with held := none } })) ∧
  (∀ (c : Instr) (s : State), s.link.held = some (c, .queueFull) → s.queue.length < 8 →
    exec .heldRequestRouted s = .next (route c { s with link := { s.link with held := none } })) ∧
  (∀ (c : Instr) (s : State), s.link.held = some (c, .ordered) → s.queue ≠ [] →
    exec .heldRequestRouted s = .next s) ∧
  (∀ (c : Instr) (s : State), s.link.held = some (c, .queueFull) → 8 ≤ s.queue.length →
    exec .heldRequestRouted s = .next s) ∧
  (∀ (h : Hdr) (es : List RawEntry) (s : State), s.link.held = some (.batch h es, .queueFull) →
    0 < s.queue.length → s.queue.length < 8 → s.arb.owner ≠ .none → batchFault es = none → h.posted = false →
    exec .heldRequestRouted s = .next { s with
      link := { s.link with held := none }
      queue := s.queue ++ [{ tag := h.tag, entries := es, posted := false }] })

/-- FRAME_REFUSED and KIND_OR_SIZE_REFUSED (R165, R166): the three frame faults; then KIND for a code that is no request kind,
then SIZE for a length the kind does not allow, a MIRROR_GET count outside 1 to 1,016 included. The reply is placed at once and
nothing is routed. -/
def Obligations.RefusedRecordsAreAnswered : Prop :=
  ∀ s : State, Reads s →
    (∀ bytes kind tag : Nat, exec (.frameRefused (.overrun bytes kind tag)) s = .next { s with
      link := s.link.answered s.now false
        (.reply 0x80 (if 4 ≤ bytes then tag else 0) .frame (.kindCode (if 1 ≤ bytes then kind else 0))) }) ∧
    (∀ (kind tag : Nat) (more : Bool), exec (.frameRefused (.tooLong kind tag more)) s = .next { s with
      link := { s.link.answered s.now more (.reply 0x80 tag .frame (.kindCode kind)) with
        parser := if more then .discarding else .idle } }) ∧
    (∀ (kind : Nat) (more : Bool), exec (.frameRefused (.tagZero kind more)) s = .next { s with
      link := s.link.answered s.now more (.reply 0x80 0 .frame (.kindCode kind)) }) ∧
    (∀ (h : Hdr) (kind length count : Nat), h.tag ≠ 0 → length ≤ 1024 →
      (allowedLength kind = none →
        exec (.kindOrSizeRefused h kind length count) s = .next (s.answered h 0 .kind (.kindCode kind))) ∧
      (∀ ok : Nat → Bool, allowedLength kind = some ok → ok length = false →
        exec (.kindOrSizeRefused h kind length count) s = .next (s.answered h 0 .size (.kindCode kind))) ∧
      (kind = 0x24 → length = 6 → (count = 0 ∨ 1016 < count) →
        exec (.kindOrSizeRefused h kind length count) s = .next (s.answered h 0 .size (.kindCode kind))))

/-- REPORT_RECORD_SENT (R168, R174): the record at the head leaves and its entry becomes free; the reply of a DEVICE_RESET
ends the wait for it. A transfer ends with a short packet when the queue holds no further record, which the model judges as the record
leaves (its choice, log entry 49), and a record that would carry it past 4,096 bytes begins the next one; the payload length of a record whose layout the manual does not give is a free value (log
entry 7). With no record, or unconfigured, nothing leaves. -/
def Obligations.RecordsLeaveInOrder : Prop :=
  (∀ (s : State) (r : Report) (rest : List Report), s.link.configured = true → s.link.reports = r :: rest →
    let size := 6 + r.payloadLength s.free
    exec .reportRecordSent s = .next { s with
      free := s.free + 1
      link := { s.link with
        reports := rest, awaitReset := s.link.awaitReset && !r.isResetReply
        transferBytes :=
          if rest = [] then 0
          else if 4096 < s.link.transferBytes + size then size else s.link.transferBytes + size } }) ∧
  (∀ s : State, s.link.reports = [] ∨ s.link.configured = false → exec .reportRecordSent s = .next s)

/-- NOTICE_ADMIT (R167): with room and a claimant that is no pass, the first claimant's notice, built from its block's state at
this moment, joins the tail of the report queue, and the block's held form is gone: the QUIET, SLOT, MASTER, REFRESH and TIMER
notices as held (R15, R49, R52, R120, R159, R173), the CHANNEL notice from the channel's context (R88), the INTERRUPT notice of the
chosen lines, which go into service before the relay's check (R145), the census's finding and its end with the stops that waited
(R73, R74). What joins after it does so in the same step. With no room nothing happens. -/
def Obligations.FirstClaimantIsAdmitted : Prop :=
  ∀ s : State,
    (s.link.reservations + s.link.reports.length ≥ 32 → exec .noticeAdmit s = .next s) ∧
    (∀ k : Claimant, s.link.canAdmit = true → s.firstClaimant = some k → k.isFill = false →
      ∃ (t : State) (n : Notice) (more : List Report), exec .noticeAdmit s = .next t ∧
        t.link.reports = s.link.reports ++ .notice n :: more ∧ t.now = s.now ∧ t.bus = s.bus ∧ t.rules = s.rules ∧
        t.drives = s.drives ∧ t.pending = s.pending ∧ (s.Settled → t.store = s.store) ∧
        match k with
        | .quiet => (∃ q, s.link.heldQuiet = some q ∧ n = .quiet q) ∧ t.link.heldQuiet = none ∧ more = []
        | .slot i => (∃ x, s.slots[i].heldNotice = some x ∧ n = .slot i x s.slots[i].state) ∧ more = [] ∧
            t.slots = s.slots.set i { s.slots[i] with heldNotice := none }
        | .interrupt => n = .interrupt s.relay.origin s.now (s.chosenLines.map s.lineReport) ∧
            (∀ l : LineId, s.lines[l].chosen = true → t.lines[l].pending = false ∧ t.lines[l].merged = false ∧
              t.lines[l].inService = true ∧ t.lines[l].chosen = false) ∧
            ∀ us : Vector Line 11, (∀ l : LineId, us[l] = if s.lines[l].chosen = true then { s.lines[l] with
                pending := false, merged := false, inService := true, chosen := false } else s.lines[l]) →
              State.RelayChecked { s with lines := us, relay := { s.relay with hand := .empty, awaited := [] } } t
        | .channel c => more = [] ∧
            n = .channel (chanNumber c) s.chans[c].causes s.chans[c].pendingTerminals s.chans[c].pendingFaults
              (if s.chans[c].causes.fault = true then s.chans[c].faultDetail else none)
              (if s.chans[c].causes.fault = true then s.chans[c].faultAddress else none)
              s.chans[c].pendingSince s.chans[c].state s.chans[c].maskReason s.chans[c].page
              s.chans[c].currentAddress s.chans[c].currentCount s.chans[c].lastSystemAddress ∧
            t.chans = s.chans.set c { s.chans[c] with
              causes := { terminal := false, matched := false, fault := false }, pendingTerminals := 0
              pendingFaults := 0, faultDetail := none, faultAddress := none }
        | .fill _ => False
        | .overstay c => (∃ x, s.arb.heldOverstay[c] = some x ∧ n = .overstay (chanNumber c) x) ∧ more = [] ∧
            t.arb = { s.arb with heldOverstay := s.arb.heldOverstay.set c none }
        | .openAccess c => (∃ x, s.heldOpen[c] = some x ∧ n = .openAccess (chanNumber c) x) ∧ more = [] ∧
            t.heldOpen = s.heldOpen.set c none
        | .refresh => (∃ x, s.arb.heldRefresh = some x ∧ n = .refresh x) ∧ more = [] ∧
            t.arb = { s.arb with heldRefresh := none }
        | .timer i => (∃ x, s.timers[i].heldNotice = some x ∧ n = .timer i.val x) ∧ more = [] ∧
            t.timers = s.timers.set i { s.timers[i] with heldNotice := none }
        | .censusFind => (∃ x, s.census.heldFind = some x ∧ n = .censusFind x) ∧ t.census = { s.census with
            heldFind := none, state := if s.census.state = .paused then .scanning else s.census.state }
        | .censusEnd => n = .censusEnd s.census.findings s.census.bytesRead s.census.timedOut s.census.reason ∧
            t.census = { s.census with state := .idle, stopWaiters := [] } ∧
            (s.census.stopWaiters.length ≤ s.link.reservations →
              more = s.census.stopWaiters.map fun tag => .reply 0x96 tag .ok .empty))

/-- The fixed order of held notices (R167): the first claimant is the one present that no other present one precedes, in the order
QUIET; SLOT by slot number; INTERRUPT; CHANNEL by channel number; the head of the fill line; MASTER by channel number, a channel's
OVERSTAY before its OPEN_ACCESS; REFRESH; TIMER by timer number; CENSUS_FIND; CENSUS_END. A CHANNEL notice that awaits a pass and
an INTERRUPT notice in FLUSHING are no claimants (R88, R143); CENSUS_END waits for the held finding (R74). There is a first
claimant unless none is present. -/
def Obligations.ClaimantsStandInFixedOrder : Prop :=
  ∀ s : State,
    let present : Claimant → Prop := fun k => match k with
      | .quiet => s.link.heldQuiet ≠ none
      | .slot i => s.slots[i].heldNotice ≠ none
      | .interrupt => s.relay.hand = .claiming
      | .channel c => s.chans[c].awaitedRegions = [] ∧
          (s.chans[c].causes.terminal = true ∨ s.chans[c].causes.matched = true ∨ s.chans[c].causes.fault = true)
      | .fill r => s.fillLine.head? = some r
      | .overstay c => s.arb.heldOverstay[c] ≠ none
      | .openAccess c => s.heldOpen[c] ≠ none
      | .refresh => s.arb.heldRefresh ≠ none
      | .timer i => s.timers[i].heldNotice ≠ none
      | .censusFind => s.census.heldFind ≠ none
      | .censusEnd => s.census.state = .ending ∧ s.census.heldFind = none
    let place : Claimant → Nat := fun k => match k with
      | .quiet => 0
      | .slot i => 1 + i.val
      | .interrupt => 5
      | .channel c => 6 + c.val
      | .fill _ => 13
      | .overstay c => 14 + 2 * c.val
      | .openAccess c => 15 + 2 * c.val
      | .refresh => 28
      | .timer i => 29 + i.val
      | .censusFind => 33
      | .censusEnd => 34
    (∀ k : Claimant, s.firstClaimant = some k ↔ present k ∧ ∀ j : Claimant, present j → place k ≤ place j) ∧
    (s.firstClaimant = none ↔ ∀ k : Claimant, ¬ present k)

/-- The watchdog's stages (R172, R173; R8, R65, R76, R89, R160): stage 1 moves the deadline on, masks or marks every channel QUIET
and turns every gate off; stage 2 parks the slots in HELD, SETTLING and ONLINE, cancels every batch and stops a census. A running
batch whose access is in flight stays for it, marked, the tags of the others waiting behind it; one between accesses is answered
CANCELLED at once with the entries done, the results, and 255 for a claim withdrawn or the index of the POLL or DELAY abandoned,
a POLL's last value and tries among the results; that a POLL which claims for a further read is answered 255 too is the model's choice
(log entry 14); the replies of the QUEUED batches follow in order, 0 done, 255, no results. A
QUIET notice that replaces a held one counts it; its time is the deadline's, also where the stage is taken later, which is the model's
choice (log entry 47). Before its deadline a stage does nothing. -/
def Obligations.WatchdogStagesFallDue : Prop :=
  ∀ (s : State) (d : Deadline), s.link.watchdogAt = some d →
    (d.reached s.now = false → exec .watchdogStage1 s = .next s ∧ exec .watchdogStage2 s = .next s) ∧
    (d.reached s.now = true →
    let replaced := match s.link.heldQuiet with
      | some q => if q.replaced < 255 then q.replaced + 1 else 255
      | none => 0
    (s.link.stage = 0 → ∃ t : State, exec .watchdogStage1 s = .next t ∧ t.link.stage = 1 ∧
      t.link.watchdogAt = some ⟨d.due, s.link.interval * 10000⟩ ∧
      t.link.heldQuiet = some ⟨1, d.due, s.link.lastRecord, s.link.interval, replaced⟩ ∧
      (∀ i : TimerId, t.timers[i] = { s.timers[i] with gate := false, due := false }) ∧
      (∀ c : ChanId, t.chans[c] =
        if s.chans[c].state = .masked then s.chans[c]
        else if s.chans[c].state = .serving ∧ s.arb.owner.isChan c = true then
          { s.chans[c] with maskPending := some .quiet }
        else { s.chans[c] with state := .masked, maskReason := some .quiet, maskPending := none, maskWaiters := [] }) ∧
      t.kept = { s with timers := t.timers }.kept ∧ t.queue = s.queue ∧ t.lane = s.lane ∧ t.arb = s.arb ∧
      t.inFlight = s.inFlight ∧ t.store = s.store ∧ t.regions = s.regions ∧ t.relay = s.relay ∧ t.lines = s.lines) ∧
    (s.link.stage = 1 → ∃ t : State, exec .watchdogStage2 s = .next t ∧ t.link.stage = 2 ∧ t.link.watchdogAt = none ∧
      t.link.heldQuiet = some ⟨2, d.due, s.link.lastRecord, s.link.interval, replaced⟩ ∧
      (∀ i : SlotId, (s.slots[i].state = .held ∨ s.slots[i].state = .settling ∨ s.slots[i].state = .online) →
        t.slots[i] = { s.slots[i] with
          state := .parked, power := true, closed := true, reset := .asserted, timer := none
          heldNotice := some
            { event := .parked, reason := none, rail := none, time := s.now, i5 := s.slots[i].i5, i12 := s.slots[i].i12
              v5 := s.slots[i].v5, superseded := s.slots[i].heldNotice.isSome } }) ∧
      (∀ i : SlotId, ¬ (s.slots[i].state = .held ∨ s.slots[i].state = .settling ∨ s.slots[i].state = .online) →
        t.slots[i] = s.slots[i]) ∧
      ((∀ b ∈ s.queue, b.discard = true → b.step = .cycle) → ∀ b ∈ t.queue, b.step = .cycle ∧ b.cancel = true) ∧
      (s.queue = [] → t.queue = [] ∧ t.link.reports = s.link.reports) ∧
      (∀ (b : Batch) (rest : List Batch), s.queue = b :: rest → b.discard = false →
        let tags := s.cancelled ++ rest.map Batch.tag
        let answers : Nat → List EntryResult → List Report := fun stop results =>
          .reply 0x94 b.tag .cancelled (.batch b.next stop results) ::
            tags.map fun tag => .reply 0x94 tag .cancelled (.batch 0 255 [])
        (b.step = .cycle → t.queue = [{ b with cancel := true }] ∧ t.cancelled = tags ∧ t.link.reports = s.link.reports) ∧
        (b.step ≠ .cycle → tags.length < s.link.reservations → t.queue = [] ∧ t.cancelled = [] ∧
          t.link.reports = s.link.reports ++
            if b.step = .claiming then answers 255 b.results
            else if b.step = .pollWait then answers b.next (b.results ++ [.poll b.pollLast b.pollTries])
            else answers b.next b.results)) ∧
      (s.census.state = .idle ∨ s.census.state = .ending → t.census = s.census) ∧
      (s.census.state = .paused ∨ s.census.state = .scanning → t.census.reason = some .stopped ∧
        (s.arb.owner ≠ .census → t.census.state = .ending)) ∧
      t.kept = { s with slots := t.slots, census := t.census }.kept ∧ t.lane = s.lane ∧ t.chans = s.chans ∧
      t.arb = s.arb ∧ t.inFlight = s.inFlight ∧ t.store = s.store ∧ t.regions = s.regions ∧ t.relay = s.relay ∧
      t.lines = s.lines))

/-! ### Slots -/

/-- SLOT_SET (R11): the four settings are brought within their ranges and carried in the reply; nothing else of the slot
changes. SLOT_PULSE (R7): HELD, SETTLING, ONLINE and PARKED enter HELD with a full hold_time; the other states refuse STATE. -/
def Obligations.SlotSettingsAndPulses : Prop :=
  ∀ (s : State) (h : Hdr) (i : SlotId), Served s h →
    (∀ l5 l12 hold settle : Nat,
      let a5 := if l5 < 5 then 5 else if 40 < l5 then 40 else l5
      let a12 := if l12 < 1 then 1 else if 15 < l12 then 15 else l12
      let ah := if hold < 1 then 1 else if 1000 < hold then 1000 else hold
      let as := if 5000 < settle then 5000 else settle
      exec (.slotSet h i.val l5 l12 hold settle) s = .next { s.answered h 0x08 .ok (.slotSettings a5 a12 ah as) with
        slots := s.slots.set i { s.slots[i] with limit5 := a5, limit12 := a12, holdTime := ah, settleTime := as } }) ∧
    exec (.slotPulse h i.val) s =
      match s.slots[i].state with
      | .held | .settling | .online | .parked => .next { s.answered h 0x0A .ok .empty with
          slots := s.slots.set i { s.slots[i] with
            state := .held, power := true, closed := true, reset := .asserted
            timer := some ⟨s.now, s.slots[i].holdTime * 1000⟩ } }
      | .off | .ramping | .fault => .next (s.answered h 0x0A .state .empty)

/-- SLOT_POWER (R2, R6). On: OFF enters RAMPING with a 50 ms ramp; a powered slot answers OK and does not change; FAULT is refused
STATE. Off, by the row for off and by a SLOT_POWER_ON record that carries 0: from any state but OFF the slot's switches open, its
timer, counters and fault are gone, its settings, samples and held notice are kept, and the other slots do not change; the shared lines,
the channels and the relay follow (R13), and the OK reply is placed after that. In OFF nothing changes. -/
def Obligations.SlotPowerTakesTheSlotUpAndDown : Prop :=
  ∀ (s : State) (h : Hdr) (i : SlotId), Served s h →
    (∀ value : Nat, value ≠ 0 → exec (.slotPowerOn h i.val value) s =
      match s.slots[i].state with
      | .off => .next { s.answered h 0x09 .ok .empty with
          slots := s.slots.set i { s.slots[i] with
            state := .ramping, power := true, closed := false, reset := .asserted, timer := some ⟨s.now, 50000⟩
            over5 := 0, over12 := 0, low5 := 0, faultReason := none, faultRail := none } }
      | .fault => .next (s.answered h 0x09 .state .empty)
      | .ramping | .held | .settling | .online | .parked => .next (s.answered h 0x09 .ok .empty)) ∧
    (∀ c : Instr, (c = .slotPowerOff h i.val ∨ c = .slotPowerOn h i.val 0) →
      (s.slots[i].state = .off → exec c s = .next (s.answered h 0x09 .ok .empty)) ∧
      (s.slots[i].state ≠ .off → ∃ t : State, exec c s = .next (t.reply 0x09 h.tag .ok .empty) ∧
        State.Apart { s with slots := s.slots.set i { s.slots[i] with
          state := .off, power := false, closed := false, reset := .undriven, timer := none
          over5 := 0, over12 := 0, low5 := 0, faultReason := none, faultRail := none } } t ∧ s.SwitchesFollowed t))

/-- The bring-up expiries (R3, R4, R5): the ramp's judges v5 against 475 (4.75 V), and the shared lines, the channels and the relay
follow the switches that close on entry to HELD (R14); the hold's releases reset; the settle's enters ONLINE with a notice; a
settle_time of 0 passes through SETTLING. Before its deadline an expiry does nothing. -/
def Obligations.BringUpExpiriesAdvanceTheSlot : Prop :=
  ∀ (s : State) (i : SlotId) (d : Deadline), s.slots[i].timer = some d →
    let online : Slot → Slot := fun sl => { sl with
      state := .online, power := true, closed := true, reset := .released, timer := none
      heldNotice := some
        { event := .online, reason := none, rail := none, time := s.now, i5 := sl.i5, i12 := sl.i12, v5 := sl.v5
          superseded := sl.heldNotice.isSome } }
    (d.reached s.now = true →
      (s.slots[i].state = .ramping → ∃ t : State, exec (.rampExpiry i) s = .next t ∧ s.SwitchesFollowed t ∧
        (475 ≤ s.slots[i].v5 → State.Apart { s with slots := s.slots.set i { s.slots[i] with
          state := .held, power := true, closed := true, reset := .asserted
          timer := some ⟨s.now, s.slots[i].holdTime * 1000⟩ } } t) ∧
        (s.slots[i].v5 < 475 → State.Apart { s with slots := s.slots.set i { s.slots[i] with
          state := .fault, power := false, closed := false, reset := .undriven, timer := none
          over5 := 0, over12 := 0, low5 := 0, faultReason := some .railLow, faultRail := none
          heldNotice := some
            { event := .fault, reason := some .railLow, rail := none, time := s.now, i5 := s.slots[i].i5
              i12 := s.slots[i].i12, v5 := s.slots[i].v5, superseded := s.slots[i].heldNotice.isSome } } } t)) ∧
      (s.slots[i].state = .held → s.slots[i].settleTime ≠ 0 → exec (.holdExpiry i) s = .next { s with
        slots := s.slots.set i { s.slots[i] with
          state := .settling, power := true, closed := true, reset := .released
          timer := some ⟨s.now, s.slots[i].settleTime * 1000⟩ } }) ∧
      (s.slots[i].state = .held → s.slots[i].settleTime = 0 → exec (.holdExpiry i) s = .next { s with
        slots := s.slots.set i (online s.slots[i]) }) ∧
      (s.slots[i].state = .settling → exec (.settleExpiry i) s = .next { s with
        slots := s.slots.set i (online s.slots[i]) })) ∧
    (d.reached s.now = false →
      exec (.rampExpiry i) s = .next s ∧ exec (.holdExpiry i) s = .next s ∧ exec (.settleExpiry i) s = .next s)

/-- SLOT_SAMPLE (R9, R10): each slot's latest values are replaced, capped; in OFF and FAULT nothing more; in a powered state
the counters count samples beyond the limits in a row, and the fifth trips the slot, an overload before a low rail, with a FAULT
notice of the sample that tripped; the shared lines, the channels and the relay follow the switches that open (R13). Before the
millisecond is over nothing happens. -/
def Obligations.SamplesCountAndTrip : Prop :=
  ∀ (s : State) (m : SlotId → Sample),
    (s.sampleAt.reached s.now = false → exec (.slotSample (m 0) (m 1) (m 2) (m 3)) s = .next s) ∧
    (s.sampleAt.reached s.now = true → ∃ t : State, exec (.slotSample (m 0) (m 1) (m 2) (m 3)) s = .next t ∧
      State.Apart { s with slots := t.slots, sampleAt := ⟨s.sampleAt.due, 1000⟩ } t ∧ s.SwitchesFollowed t ∧
      ∀ i : SlotId,
        let a5 := min (m i).i5 1000
        let a12 := min (m i).i12 1000
        let av := min (m i).v5 600
        let n5 := if s.slots[i].limit5 * 10 < a5 then s.slots[i].over5 + 1 else 0
        let n12 := if s.slots[i].limit12 * 10 < a12 then s.slots[i].over12 + 1 else 0
        let nl := if s.slots[i].closed = true then (if av < 475 then s.slots[i].low5 + 1 else 0) else s.slots[i].low5
        let tripped : FaultReason → Option FaultRail → Slot := fun reason rail => { s.slots[i] with
          i5 := a5, i12 := a12, v5 := av, state := .fault, power := false, closed := false, reset := .undriven
          timer := none, over5 := 0, over12 := 0, low5 := 0, faultReason := some reason, faultRail := rail
          heldNotice := some
            { event := .fault, reason := some reason, rail := rail, time := s.now, i5 := a5, i12 := a12, v5 := av
              superseded := s.slots[i].heldNotice.isSome } }
        (s.slots[i].power = false → t.slots[i] = { s.slots[i] with i5 := a5, i12 := a12, v5 := av }) ∧
        (s.slots[i].power = true → n5 < 5 → n12 < 5 → nl < 5 →
          t.slots[i] = { s.slots[i] with i5 := a5, i12 := a12, v5 := av, over5 := n5, over12 := n12, low5 := nl }) ∧
        (s.slots[i].power = true → 5 ≤ n5 ∨ 5 ≤ n12 → t.slots[i] = tripped .overcurrent
          (some (if 5 ≤ n5 ∧ 5 ≤ n12 then .both else if 5 ≤ n5 then .rail5 else .rail12))) ∧
        (s.slots[i].power = true → n5 < 5 → n12 < 5 → 5 ≤ nl → t.slots[i] = tripped .railLow none))

/-! ### Queries and numbers that name nothing -/

/-- The queries: SLOT_QUERY, BUS_QUERY and INT_QUERY (R16, R37, R149) change nothing but the link unit and carry the record as it
stands; CHAN_QUERY and TIMER_QUERY (R85, R157) report the record as it stands, then clear tc_flag, and fired; nothing else of the
record changes. The model's choices in it: INT_QUERY leaves the origin out in HOLDOFF as in EMPTY (log entry 40), CHAN_QUERY carries
programmed beside R85's list and leaves the waiting tags and pending_since out (log entry 42), TIMER_QUERY carries the timer's number
beside R157's, and INT_QUERY each line's beside R149's (log entry 46). -/
def Obligations.QueriesReport : Prop :=
  ∀ (s : State) (h : Hdr), Served s h →
    (∀ i : SlotId, exec (.slotQuery h i.val) s = .next (s.answered h 0x0B .ok
      (.slotRecord { s.slots[i] with timer := none, heldNotice := none }
        (s.slots[i].timer.map fun d => (d.remaining s.now + 999) / 1000) s.slots[i].heldNotice.isSome))) ∧
    exec (.busQuery h) s = .next (s.answered h 0x11 .ok
      (.busQuery s.bus s.arb.owner s.arb.owed s.arb.row s.arb.shortfall s.queue.length s.census.state s.census.first
        s.census.past s.census.probe s.census.findings s.census.bytesRead s.census.timedOut)) ∧
    exec (.intQuery h) s = .next (s.answered h 0x2B .ok
      (.relayQuery s.relay.mode s.relay.holdoff s.relay.hand
        (if s.relay.hand = .flushing ∨ s.relay.hand = .claiming then some s.relay.origin else none)
        (s.relay.holdoffAt.map fun d => d.remaining s.now) s.relay.awaited
        ((List.finRange 11).map fun l => (lineNumber l, s.lines[l])))) ∧
    (∀ c : ChanId, exec (.chanQuery h (chanNumber c)) s = .next { s.answered h 0x1B .ok
      (.chan { s.chans[c] with maskWaiters := [], pendingSince := 0 } (!s.chans[c].awaitedRegions.isEmpty)) with
        chans := s.chans.set c { s.chans[c] with tcFlag := false } }) ∧
    (∀ i : TimerId, exec (.timerQuery h i.val) s = .next { s.answered h 0x33 .ok
      (.timerQuery i.val { s.timers[i] with heldNotice := none, due := false } (s.runState i)
        (s.lane.head?.bind fun r => if r.timer = i then some r.next else none) s.timers[i].heldNotice.isSome) with
        timers := s.timers.set i { s.timers[i] with fired := false } })

/-- A number that names no slot, channel, region, line or timer is refused RANGE and no record changes (R1, R77, R106, R111,
R114, R148, R152). -/
def Obligations.NumbersNamingNothingAreRefused : Prop :=
  ∀ (s : State) (h : Hdr) (n : Nat), Served s h →
    (4 ≤ n → ∀ a b c d : Nat,
      exec (.slotSet h n a b c d) s = .next (s.answered h 0x08 .range .empty) ∧
      exec (.slotPowerOn h n a) s = .next (s.answered h 0x09 .range .empty) ∧
      exec (.slotPowerOff h n) s = .next (s.answered h 0x09 .range .empty) ∧
      exec (.slotPulse h n) s = .next (s.answered h 0x0A .range .empty) ∧
      exec (.slotQuery h n) s = .next (s.answered h 0x0B .range .empty) ∧
      (∀ m : Option TimerMode, exec (.timerLoad h n a m b) s = .next (s.answered h 0x30 .range .empty)) ∧
      exec (.timerGate h n a b c) s = .next (s.answered h 0x31 .range .empty) ∧
      (∀ es : List RawEntry, es.length ≤ 16 →
        exec (.timerBatch h n es) s = .next (s.answered h 0x32 .range .empty)) ∧
      exec (.timerQuery h n) s = .next (s.answered h 0x33 .range .empty)) ∧
    (n = 4 ∨ 8 ≤ n → ∀ p : ChanProgram,
      exec (.chanLoad h n p) s = .next (s.answered h 0x18 .range .empty) ∧
      exec (.chanMask h n) s = .next (s.answered h 0x19 .range .empty) ∧
      exec (.chanUnmask h n) s = .next (s.answered h 0x1A .range .empty) ∧
      exec (.chanQuery h n) s = .next (s.answered h 0x1B .range .empty)) ∧
    (16 ≤ n → ∀ r : RegionRequest,
      exec (.regionSet h n r) s = .next (s.answered h 0x20 .range .empty) ∧
      exec (.regionDrop h n) s = .next (s.answered h 0x21 .range .empty) ∧
      exec (.regionFlush h n) s = .next (s.answered h 0x22 .range .empty)) ∧
    (n ∉ [3, 4, 5, 6, 7, 9, 10, 11, 12, 14, 15] → ∀ m l : Nat,
      exec (.lineSet h n m l) s = .next (s.answered h 0x29 .range .empty))

/-! ### Bus settings, port rules, cycles -/

/-- BUS_SET (R34, R35, R36): a clock outside the list is refused RANGE, a powered slot makes it STATE, and otherwise the nine
settings are applied within their ranges; the refresh timer is restarted, or stopped with owed and shortfall cleared. -/
def Obligations.BusSetAppliesTheSettings : Prop :=
  ∀ (s : State) (h : Hdr) (r : BusRequest), Served s h →
    exec (.busSet h r) s =
      match r.clock with
      | none => .next (s.answered h 0x10 .range .empty)
      | some clock =>
        if (∃ i : SlotId, s.slots[i].state ≠ .off ∧ s.slots[i].state ≠ .fault) then
          .next (s.answered h 0x10 .state .empty)
        else
          let rounded := (r.period + 2) / 5 * 5
          let b : BusSettings :=
            { clock := clock
              wait8io := min r.wait8io 7, wait16io := min r.wait16io 7
              wait8mem := min r.wait8mem 7, wait16mem := min r.wait16mem 7
              waitLimit := if r.waitLimit < 2 then 2 else min r.waitLimit 1000
              refresh := r.refresh ≠ 0
              period := if rounded < 100 then 100 else min rounded 200
              burst := if r.burst = 0 then 1 else min r.burst 255 }
          .next { s.answered h 0x10 .ok (.busSettings b) with
            bus := b
            arb :=
              if r.refresh ≠ 0 then { s.arb with refreshAt := some ⟨halfMicros s.now, b.period / 5⟩ }
              else if s.bus.refresh = true then { s.arb with refreshAt := none, owed := 0, shortfall := false }
              else s.arb }

/-- PORT_RULE_SET (R32): the checks in order RANGE, OVERLAP, FULL; on success the entry joins the table with its wait limit
applied. PORT_RULE_DROP (R33): the entry whose first port is named leaves the table; a port that is no entry's first is refused
RANGE and the table is unchanged. -/
def Obligations.PortRulesAreCheckedAndDropped : Prop :=
  ∀ (s : State) (h : Hdr), Served s h →
    (∀ (first last : Half) (w : Option Width) (o : Option OddPort) (limit : Nat) (p : Option Post),
      exec (.portRuleSet h first last w o limit p) s =
        if last.toNat < first.toNat ∨ w = none ∨ o = none ∨ p = none then .next (s.answered h 0x12 .range .empty)
        else if (∃ q ∈ s.rules, first.toNat ≤ q.last.toNat ∧ q.first.toNat ≤ last.toNat) then
          .next (s.answered h 0x12 .overlap .empty)
        else if 24 ≤ s.rules.length then .next (s.answered h 0x12 .full .empty)
        else
          let r : PortRule :=
            { first := first, last := last, width := w.getD .auto, odd := o.getD .split
              waitLimit := if limit = 0 then 0 else if limit < 2 then 2 else min limit 1000, post := p.getD .allow }
          .next { s.answered h 0x12 .ok (.portRule r) with rules := s.rules ++ [r] }) ∧
    (∀ port : Half,
      ((∃ q ∈ s.rules, q.first = port) → exec (.portRuleDrop h port) s =
        .next { s.answered h 0x13 .ok .empty with rules := s.rules.filter fun q => q.first ≠ port }) ∧
      ((∀ q ∈ s.rules, q.first ≠ port) →
        exec (.portRuleDrop h port) s = .next (s.answered h 0x13 .range .empty)))

/-- The resolution of an access when it begins (R20, R24 to R29, R31): the entry that contains the port governs it, the one entry there
is by R31's own law; 8-bit accesses are one cycle; a 16-bit access at an odd port goes by the rule's odd setting, at an even port by
its width; at an odd memory address it splits, at an even one the select decides. It captures the clock, the wait states of its kind for
each width, and the wait limit: the governing entry's, or the bus default for 0, no entry, or memory. The first cycle is at the
address named, the second at the next, within the space. -/
def Obligations.AccessesResolveWhenTheyBegin : Prop :=
  ∀ (s : State) (write : Bool) (port addr : Nat) (v : Half),
    (s.ioAccess write false port v).plan = .one8 ∧ (s.memAccess write false addr v).plan = .one8 ∧
    (port % 2 = 1 → (s.ioAccess write true port v).plan =
      if (s.ruleFor port).map PortRule.odd = some .refuse then .refused else .two8) ∧
    (port % 2 = 0 → (s.ioAccess write true port v).plan =
      match (s.ruleFor port).map PortRule.width with
      | some .force8 => .two8
      | some .force16 => .one16
      | _ => .bySelect) ∧
    (addr % 2 = 1 → (s.memAccess write true addr v).plan = .two8) ∧
    (addr % 2 = 0 → (s.memAccess write true addr v).plan = .bySelect) ∧
    (∀ wide : Bool, ∃ p : Plan, s.ioAccess write wide port v =
      { space := .io, write := write, addr := port, value := v, plan := p, waits8 := s.bus.wait8io
        waits16 := s.bus.wait16io, clock := s.bus.clock
        limit := match s.ruleFor port with
          | some r => if r.waitLimit = 0 then s.bus.waitLimit else r.waitLimit
          | none => s.bus.waitLimit
        second := false, firstByte := 0, firstTimedOut := false, timedOut := false, switched := [] }) ∧
    (∀ wide : Bool, ∃ p : Plan, s.memAccess write wide addr v =
      { space := .mem, write := write, addr := addr, value := v, plan := p, waits8 := s.bus.wait8mem
        waits16 := s.bus.wait16mem, clock := s.bus.clock, limit := s.bus.waitLimit
        second := false, firstByte := 0, firstTimedOut := false, timedOut := false, switched := [] }) ∧
    (RulesOk s → ∀ r : PortRule, s.ruleFor port = some r ↔ r ∈ s.rules ∧ r.first.toNat ≤ port ∧ port ≤ r.last.toNat) ∧
    (s.ruleFor port = none ↔ ∀ r ∈ s.rules, ¬ (r.first.toNat ≤ port ∧ port ≤ r.last.toNat)) ∧
    (∀ a : Access, (a.second = false → a.cycleAddr = a.addr) ∧
      (a.second = true → a.space = .io → a.cycleAddr = (a.addr + 1) % 65536) ∧
      (a.second = true → a.space = .mem → a.cycleAddr = (a.addr + 1) % 16777216))

/-- A cycle lasts w + 3 + e clocks, e the samples that found ready held (R19, R21), or the wait limit's clocks between one clock of
address and one of end phase (R22); at 8.0 MHz the default limit makes 130. A sample counts where a card holds ready whose
slot was connected when the sample was taken, and the first that finds no such card ends the count: a slot opened during its hold
holds up to that moment and not after it, whatever another slot holds (R12, R13, R21; log entry 37).
A 16-bit access that the 16-bit select decides is one 16-bit cycle where a slot that was connected when the select was sampled asserts
it, and two 8-bit cycles where none does (R12, R27, R29).
A read takes from each data line (R12, R23) the level the connected cards drive on it, 1 where none drives it; where they drive it to
both levels, which R12 leaves open, that of the cycle's operand (log entry 22). What an access hands back (R22, R25 to R30): all ones and TIMEOUT at the limit; ALIGN and 0 where it is
refused; of two cycles the two bytes, with TIMEOUT if either timed out. ACCESS_FIRST_CYCLE_END (R24, R27, R29, R30): the first of
two cycles ends, its byte and outcome kept, and the second follows under the same settings. WAIT_LIMIT_EXPIRY: a connected slot
that holds ready to the limit makes the cycle time out, an isolated one cannot. A card whose slot is isolated sees no cycle, strobe,
acknowledge or refresh cycle (R12); a connected one sees the address, the strobes and the data the part drives (R19, R51, R96), and the
channel's acknowledge, a master's throughout its tenure (R44, R47). -/
def Obligations.CyclesRunAndEnd : Prop :=
  (∀ w limit e : Nat, ∀ k : BusClock, cycleClocks false w limit k e = w + 3 + e) ∧
  (∀ w limit e : Nat, ∀ k : BusClock, cycleClocks true w limit k e = 1 + limitClocks k limit + 1) ∧
  cycleClocks true 4 16 .mhz800 0 = 130 ∧ limitClocks .mhz800 200 = 1600 ∧
  (∀ (s : State) (e : BusEnd),
    ((∀ a ∈ e.answers, s.slots[a.slot].closed = false) → s.lowLines e = 0xFF ∧ s.highLines e = 0xFF) ∧
    (∀ (i : SlotId) (v : Half), s.slots[i].closed = true →
      (e.answers = [⟨i, 0x00FF, v⟩] → s.lowLines e = v.truncate 8 ∧ s.highLines e = 0xFF) ∧
      (e.answers = [⟨i, 0xFFFF, v⟩] → s.lowLines e = v.truncate 8 ∧ s.highLines e = (v >>> 8).truncate 8)) ∧
    (∀ k : Nat, k < 16 →
      let line : Bool := if k < 8 then (s.lowLines e).getLsbD k else (s.highLines e).getLsbD (k - 8)
      let drives : Bool → Prop := fun v =>
        ∃ a ∈ e.answers, s.slots[a.slot].closed = true ∧ a.lines.getLsbD k = true ∧ a.data.getLsbD k = v
      (¬ drives true → ¬ drives false → line = true) ∧
      (∀ v : Bool, drives v → ¬ drives (!v) → line = v) ∧
      (drives true → drives false → line = e.contested.getLsbD k)) ∧
    ∀ sw : List (List SlotId),
      let joined : LineSample → SlotId → Prop := fun x i => match sw[x.changes]? with
        | some before => i ∈ before
        | none => s.slots[i].closed = true
      ((∀ x ∈ e.held, ∃ i ∈ x.slots, joined x i) → s.readyHeld sw e = e.held.length) ∧
      (∀ (before after : List LineSample) (sample : LineSample), e.held = before ++ sample :: after →
        (∀ x ∈ before, ∃ i ∈ x.slots, joined x i) → (∀ i ∈ sample.slots, ¬ joined sample i) →
        s.readyHeld sw e = before.length)) ∧
  (∀ (s : State) (a : Access) (e : BusEnd),
    let late : Nat → Prop := fun w =>
      a.timedOut = true ∨ (s.readyHeld a.switched e ≠ 0 ∧ limitClocks a.clock a.limit ≤ w + s.readyHeld a.switched e)
    let selected : Prop := ∃ i ∈ e.select.slots, match a.switched[e.select.changes]? with
      | some before => i ∈ before
      | none => s.slots[i].closed = true
    let one16 : Prop := a.plan = .one16 ∨ (a.plan = .bySelect ∧ selected)
    let two8 : Prop := a.plan = .two8 ∨ (a.plan = .bySelect ∧ ¬ selected)
    (a.plan = .refused → s.accessEnd a e = some ⟨0, .align, none⟩) ∧
    (a.plan = .one8 → ¬ late a.waits8 →
      s.accessEnd a e = some ⟨(s.lowLines e).zeroExtend 16, .ok, some (a.waits8 + 3 + s.readyHeld a.switched e)⟩) ∧
    (a.plan = .one8 → late a.waits8 →
      s.accessEnd a e = some ⟨0x00FF, .timeout, some (limitClocks a.clock a.limit + 2)⟩) ∧
    (one16 → ¬ late a.waits16 → s.accessEnd a e =
      some ⟨(s.highLines e).zeroExtend 16 <<< 8 ||| (s.lowLines e).zeroExtend 16, .ok,
        some (a.waits16 + 3 + s.readyHeld a.switched e)⟩) ∧
    (one16 → late a.waits16 →
      s.accessEnd a e = some ⟨0xFFFF, .timeout, some (limitClocks a.clock a.limit + 2)⟩) ∧
    (two8 → a.second = false → s.accessEnd a e = none) ∧
    (two8 → a.second = true → ¬ late a.waits8 → s.accessEnd a e =
      some ⟨(s.lowLines e).zeroExtend 16 <<< 8 ||| a.firstByte.zeroExtend 16, if a.firstTimedOut then .timeout else .ok,
        some (a.waits8 + 3 + s.readyHeld a.switched e)⟩) ∧
    (two8 → a.second = true → late a.waits8 →
      s.accessEnd a e = some ⟨0xFF00 ||| a.firstByte.zeroExtend 16, .timeout, some (limitClocks a.clock a.limit + 2)⟩) ∧
    (s.inFlight = .access a → one16 → exec (.accessFirstCycleEnd e) s = .next s) ∧
    (s.inFlight = .access a → two8 → a.second = false →
      (¬ late a.waits8 → exec (.accessFirstCycleEnd e) s = .next { s with
        lastClocks := a.waits8 + 3 + s.readyHeld a.switched e
        inFlight := .access { a with
          plan := .two8, second := true, timedOut := false, switched := [], firstByte := s.lowLines e
          firstTimedOut := false } }) ∧
      (late a.waits8 → exec (.accessFirstCycleEnd e) s = .next { s with
        lastClocks := limitClocks a.clock a.limit + 2
        inFlight := .access { a with
          plan := .two8, second := true, timedOut := false, switched := [], firstByte := 0xFF
          firstTimedOut := true } }))) ∧
  (∀ (s : State) (i : SlotId),
    (∀ a : Access, s.inFlight = .access a → a.plan ≠ .refused → s.slots[i].closed = true →
      exec (.waitLimitExpiry i) s = .next { s with inFlight := .access { a with timedOut := true } }) ∧
    (∀ x : Transfer, s.inFlight = .transfer x → s.slots[i].closed = true →
      exec (.waitLimitExpiry i) s = .next { s with inFlight := .transfer { x with timedOut := true } }) ∧
    (s.slots[i].closed = false → exec (.waitLimitExpiry i) s = .next s)) ∧
  (∀ (s : State) (i : SlotId),
    (s.slots[i].closed = false → s.seenBy i = (none, none)) ∧
    (s.slots[i].closed = true →
      (s.inFlight = .none → (s.seenBy i).1 = none) ∧
      (∀ r : RefreshCycle, s.inFlight = .refresh r → (s.seenBy i).1 = some
        { addr := r.row, ioRead := false, ioWrite := false, memRead := true, memWrite := false, refresh := true, ack := none
          terminalCount := false, data := none }) ∧
      (∀ x : Transfer, s.inFlight = .transfer x → s.seenBy i = (some
        { addr := x.sysAddr, ioRead := x.kind = .fill, ioWrite := x.kind = .drain, memRead := x.kind = .drain
          memWrite := x.kind = .fill, refresh := false, ack := some x.ch, terminalCount := x.terminal, data := x.data },
        some x.ch)) ∧
      (∀ a : Access, s.inFlight = .access a → a.plan ≠ .refused → ∃ d : Option Half, (s.seenBy i).1 = some
          { addr := a.cycleAddr, ioRead := a.space = .io && !a.write, ioWrite := a.space = .io && a.write
            memRead := a.space = .mem && !a.write, memWrite := a.space = .mem && a.write, refresh := false, ack := none
            terminalCount := false, data := d } ∧
        (a.write = false → d = none) ∧ (a.write = true → a.plan = .one16 → d = some a.value) ∧
        (a.write = true → a.plan ≠ .one16 → ∃ v : Half, d = some v ∧
          lowByte v = if a.second = true ∧ a.plan ≠ .bySelect then highByte a.value else lowByte a.value)) ∧
      (∀ c : ChanId, s.arb.owner = .dma c true → (∀ x : Transfer, s.inFlight ≠ .transfer x) → (s.seenBy i).2 = some c)))

/-! ### Arbitration and refresh -/

/-- The order of a grant (R41, R45): refresh at owed 4, yield kept; with yield clear the SERVING channel of lowest number; refresh;
the timed lane; the link lane; the census. With yield set the lower classes go first, and yield is cleared, also with none of them
present. A grant point makes the claim picked the owner of the bus, with its first cycle (R40, R43, R44, R47, R51): a refresh cycle
of the row; one access of the head run's or the head batch's entry, or one census read; a transfer of the channel with a fresh
count and cap, or, where its address faults, the channel is masked FAULT with no cycle and the next claim is granted (R95); a
master grant of a CASCADE channel. With no claim the bus is idle. Both kinds of grant point are shown with refresh: a tenure's end,
and a claim that appears on the idle bus. -/
def Obligations.GrantsFollowTheOrder : Prop :=
  (∀ s : State,
    (s.arb.owed = 4 → s.pick = (some .refresh, s.arb.yield)) ∧
    (s.arb.owed < 4 → s.arb.yield = false →
      (∀ c : ChanId, s.chans[c].state = .serving → (∀ d : ChanId, d < c → s.chans[d].state ≠ .serving) →
        s.pick = (some (.dma c), false)) ∧
      ((∀ d : ChanId, s.chans[d].state ≠ .serving) → s.pick =
        (if 1 ≤ s.arb.owed then some .refresh
          else match s.timedClaims with
          | some t => some (.timed t)
          | none => if s.linkClaims then some .link else if s.censusClaims then some .census else none, false))) ∧
    (s.arb.owed < 4 → s.arb.yield = true → s.lowerClaim = true →
      s.pick.2 = false ∧ s.pick.1 =
        if 1 ≤ s.arb.owed then some .refresh
        else match s.timedClaims with
        | some t => some (.timed t)
        | none => if s.linkClaims then some .link else some .census) ∧
    (s.arb.owed < 4 → s.arb.yield = true → s.lowerClaim = false →
      (∀ c : ChanId, s.chans[c].state = .serving → (∀ d : ChanId, d < c → s.chans[d].state ≠ .serving) →
        s.pick = (some (.dma c), false)) ∧
      ((∀ d : ChanId, s.chans[d].state ≠ .serving) → s.pick = (none, false)))) ∧
  (∀ s : State,
    let owned : Owner → Arbiter := fun o => { s.arb with owner := o, yield := s.pick.2 }
    (s.pick.1 = none → s.grantPoint = { s with arb := owned .none }) ∧
    (s.pick.1 = some .refresh → s.grantPoint = { s with
      arb := owned .refresh, inFlight := .refresh ⟨s.arb.row, s.bus.wait8mem, s.bus.clock⟩ }) ∧
    (∀ (i : TimerId) (r : Run) (rest : List Run) (en : RawEntry) (op : Op), s.pick.1 = some (.timed i) →
      s.lane = r :: rest → s.runEntry r = some (en, op) → s.grantPoint = { s with
        arb := owned (.timed i), lane := { r with step := .cycle } :: rest
        inFlight := .access (s.entryAccess en op) }) ∧
    (∀ (b : Batch) (rest : List Batch) (en : RawEntry) (op : Op), s.pick.1 = some .link → s.queue = b :: rest →
      b.entry = some (en, op) → s.grantPoint = { s with
        arb := owned .link, queue := { b with step := .cycle } :: rest, inFlight := .access (s.entryAccess en op) }) ∧
    (s.pick.1 = some .census → s.grantPoint = { s with
      arb := owned .census, inFlight := .access (s.memAccess false false s.census.pos 0) }) ∧
    (∀ c : ChanId, s.pick.1 = some (.dma c) → s.chans[c].service = .cascade → s.grantPoint = { s with
      arb := { owned (.dma c true) with overstaySent := false, grantTime := s.now }
      inFlight := .none, openSent := false, written := [] }) ∧
    (∀ c : ChanId, s.pick.1 = some (.dma c) → s.chans[c].service ≠ .cascade →
      let ch := s.chans[c]
      let a := systemAddress c ch.page ch.currentAddress
      (∀ tg : Target, s.lookup c ch.kind a = .target tg → s.grantPoint = { s with
        arb := { owned (.dma c false) with burstCount := 0, burstCap := s.bus.burst }
        chans := s.chans.set c { ch with blockOpen := if ch.service = .block then true else ch.blockOpen }
        inFlight := .transfer (s.starting c ch a tg s.store) }) ∧
      (∀ d : FaultDetail, s.lookup c ch.kind a = .fault d →
        s.grantPoint.chans[c].Faulted s.now ch d a ∧ s.grantPoint.chans[c].program = ch.program ∧
        s.grantPoint.arb.owner.isChan c = false))) ∧
  (∀ (s : State) (r : RefreshCycle), s.inFlight = .refresh r → s.orphan = false →
    exec .refreshCycleEnd s = .next (State.grantPoint { s with
      inFlight := .none, lastClocks := r.waits + 3
      arb := { s.arb with
        row := (s.arb.row + 1) % 256, owed := s.arb.owed - 1
        shortfall := if s.arb.owed - 1 < 4 then false else s.arb.shortfall } })) ∧
  (∀ (s : State) (d : RefreshDeadline), s.arb.owner = .none → s.arb.refreshAt = some d → d.reached s.now = true →
    s.arb.owed < 4 → exec .refreshExpiry s = .next (State.grantPoint { s with arb := { s.arb with
      refreshAt := some ⟨d.since + BitVec.ofNat 33 d.len, s.bus.period / 5⟩, owed := s.arb.owed + 1 } }))

/-- REFRESH_EXPIRY (R49, R50, R52): the deadline moves on by one period; owed rises, and the rise to 4 in a master's tenure holds an
OVERSTAY notice once, or renews one still held and counts it; at 4 the period is missed: shortfall is set, with a REFRESH notice for a new episode, or the held notice
counts the miss. REFRESH_CYCLE_END (R51): row rises by 1 modulo 256, owed falls by 1, an episode ends with owed below 4, and the
cycle lasted 8-bit memory wait states + 3 clocks. An expiry is shown while the bus has an owner, so that no grant follows. -/
def Obligations.RefreshIsOwedAndPaidBack : Prop :=
  (∀ (s : State) (d : RefreshDeadline), s.arb.refreshAt = some d →
    (d.reached s.now = false → exec .refreshExpiry s = .next s) ∧
    (d.reached s.now = true → s.arb.owner ≠ .none →
      let at' : Option RefreshDeadline := some ⟨d.since + BitVec.ofNat 33 d.len, s.bus.period / 5⟩
      (s.arb.owed < 4 → (s.arb.owed < 3 ∨ s.arb.owner.isMaster = false ∨ s.arb.overstaySent = true) →
        exec .refreshExpiry s = .next { s with arb := { s.arb with refreshAt := at', owed := s.arb.owed + 1 } }) ∧
      (∀ c : ChanId, s.arb.owed = 3 → s.arb.owner = .dma c true → s.arb.overstaySent = false →
        s.arb.heldOverstay[c] = none → exec .refreshExpiry s = .next { s with arb := { s.arb with
          refreshAt := at', owed := 4, overstaySent := true
          heldOverstay := s.arb.heldOverstay.set c (some ⟨s.arb.grantTime, s.now, 0⟩) } }) ∧
      (∀ (c : ChanId) (n : OverstayNotice), s.arb.owed = 3 → s.arb.owner = .dma c true → s.arb.overstaySent = false →
        s.arb.heldOverstay[c] = some n → exec .refreshExpiry s = .next { s with arb := { s.arb with
          refreshAt := at', owed := 4, overstaySent := true
          heldOverstay := s.arb.heldOverstay.set c (some { n with
            time := s.now, repeats := if n.repeats < 255 then n.repeats + 1 else 255 }) } }) ∧
      (s.arb.owed = 4 → exec .refreshExpiry s = .next { s with arb := { s.arb with
        refreshAt := at', shortfall := true
        heldRefresh := match s.arb.heldRefresh with
          | none => if s.arb.shortfall then none else some ⟨s.now, s.arb.owner, 1, 1⟩
          | some n => some { n with
              missed := if n.missed < 65535 then n.missed + 1 else 65535
              episodes := if s.arb.shortfall then n.episodes else if n.episodes < 255 then n.episodes + 1 else 255 } } }))) ∧
  (∀ (s : State) (r : RefreshCycle), s.inFlight = .refresh r → s.orphan = false →
    ∃ t : State, exec .refreshCycleEnd s = .next t ∧ State.Apart s t ∧ t.lines = s.lines ∧
      t.arb.row = (s.arb.row + 1) % 256 ∧ t.arb.owed = s.arb.owed - 1 ∧ t.lastClocks = r.waits + 3 ∧
      t.arb.shortfall = (if s.arb.owed - 1 < 4 then false else s.arb.shortfall))

/-! ### Batches -/

/-- BATCH (R56 to R62): the first check that finds an entry at fault refuses the batch RANGE with that entry's index. A batch that
passes joins the tail of the queue, empty or not, posted only if it asks for it and no DENY rule governs a write of it; at the head
of an empty queue it runs at once, a first DELAY from now, any other first entry claiming the bus. With the bus owned nothing more
happens; on an idle bus a claim now present makes a grant point (R40), and where it is the batch's alone its first entry, of any
operation but DELAY, has the bus at once with the access of its width, direction and port or address. -/
def Obligations.BatchesAreCheckedAndQueued : Prop :=
  ∀ (s : State) (h : Hdr) (e : RawEntry) (rest : List RawEntry), Reads s → h.tag ≠ 0 → rest.length < 64 → s.queue.length < 8 →
    let es : List RawEntry := e :: rest
    let b : Batch := { tag := h.tag, entries := es, posted := h.posted && s.mayPost es }
    let joined : Batch → State := fun b => { s with link := s.link.taken s.now h.more, queue := s.queue ++ [b] }
    (∀ i : Nat, batchFault es = some i → exec (.batch h es) s = .next (s.answered h 0x14 .range (.batch 0 i []))) ∧
    (batchFault es = none → s.queue ≠ [] ∨ opOf e.op ≠ some .delay → s.arb.owner ≠ .none →
      exec (.batch h es) s = .next (joined b)) ∧
    (batchFault es = none → s.queue ≠ [] ∨ opOf e.op ≠ some .delay →
      exec (.batch h es) s = .next (joined b).claimed) ∧
    (batchFault es = none → s.queue = [] → opOf e.op = some .delay →
      exec (.batch h es) s =
        .next (State.claimed (joined { b with step := .delay, waitEnd := some ⟨s.now, e.a.toNat⟩ }))) ∧
    (∀ op : Op, opOf e.op = some op → op ≠ .delay → batchFault es = none → s.queue = [] →
      s.anyClaim = false → s.arb.owner = .none → s.arb.yield = false →
      exec (.batch h es) s = .next { joined { b with step := .cycle } with
        arb := { s.arb with owner := .link }, inFlight := .access (s.entryAccess e op) }) ∧
    (∀ op : Op, op = .in8 ∨ op = .poll8 → s.entryAccess e op = s.ioAccess false false (entryPort e) e.a) ∧
    (∀ op : Op, op = .in16 ∨ op = .poll16 → s.entryAccess e op = s.ioAccess false true (entryPort e) e.a) ∧
    s.entryAccess e .out8 = s.ioAccess true false (entryPort e) e.a ∧
    s.entryAccess e .out16 = s.ioAccess true true (entryPort e) e.a ∧
    s.entryAccess e .mrd8 = s.memAccess false false (entryAddress e) e.a ∧
    s.entryAccess e .mrd16 = s.memAccess false true (entryAddress e) e.a ∧
    s.entryAccess e .mwr8 = s.memAccess true false (entryAddress e) e.a ∧
    s.entryAccess e .mwr16 = s.memAccess true true (entryAddress e) e.a

/-- BATCH_ENTRY_END (R56, R62 to R65): an IN, OUT, MRD or MWR of either width whose access has ended, with what the access hands
back (R25 to R30). A read's value joins the results, an IN8's or MRD8's with the high byte 0x00; a write adds none. Ended OK, next
rises and the batch goes on; its last entry ends it, and the reply carries what was done, 255 and the results, but for a posted
batch, which releases its reservation without one; a cancelled batch stops there, CANCELLED, the waiting replies of the others
behind its own. A TIMEOUT or ALIGN stops the batch at its index. -/
def Obligations.BatchEntriesEnd : Prop :=
  ∀ (s : State) (a : Access) (b : Batch) (rest : List Batch) (e : BusEnd) (en : RawEntry) (op : Op) (r : AccessEnd),
    s.inFlight = .access a → s.arb.owner = .link → s.orphan = false → s.queue = b :: rest →
    b.entries[b.next]? = some en → opOf en.op = some op → op ≠ .poll8 → op ≠ .poll16 → op ≠ .delay →
    b.discard = false → s.accessEnd a e = some r →
    let results : List EntryResult :=
      if op = .out8 ∨ op = .out16 ∨ op = .mwr8 ∨ op = .mwr16 then b.results else b.results ++ [.word r.value]
    let others : List Report := s.cancelled.map fun tag => .reply 0x94 tag .cancelled (.batch 0 255 [])
    ∃ (t : State) (more : List Report), exec (.batchEntryEnd e) s = .next t ∧ State.Apart s t ∧ t.lines = s.lines ∧
    t.lastClocks = r.clocks.getD s.lastClocks ∧
    (r.status = .ok → b.cancel = false → b.next + 1 < b.entries.length →
      ∃ b' rest', t.queue = b' :: rest' ∧ b'.next = b.next + 1 ∧ b'.results = results ∧
        b'.tag = b.tag ∧ b'.entries = b.entries ∧ b'.posted = b.posted ∧ b'.status = b.status) ∧
    (r.status = .ok → b.cancel = false → b.next + 1 = b.entries.length → b.status = .ok →
      t.queue.map Batch.tag = rest.map Batch.tag ∧
      (b.posted = false → s.cancelled.length < s.link.reservations → t.link.reports =
        s.link.reports ++ .reply 0x94 b.tag .ok (.batch b.entries.length 255 results) :: (others ++ more)) ∧
      (b.posted = true → s.cancelled = [] → 1 ≤ s.link.reservations → t.link.reports = s.link.reports ++ more ∧
        t.link.reservations + more.length + 1 = s.link.reservations)) ∧
    (r.status = .ok → b.cancel = true → s.cancelled.length < s.link.reservations →
      t.queue.map Batch.tag = rest.map Batch.tag ∧ t.link.reports = s.link.reports ++
        .reply 0x94 b.tag .cancelled (.batch (b.next + 1) 255 results) :: (others ++ more)) ∧
    (r.status ≠ .ok → s.cancelled.length < s.link.reservations →
      t.queue.map Batch.tag = rest.map Batch.tag ∧ t.link.reports = s.link.reports ++
        .reply 0x94 b.tag r.status (.batch b.next b.next results) :: (others ++ more))

/-- POLL_READ_END, POLL_INTERVAL_EXPIRY and DELAY_EXPIRY (R57, R58, R63, R65): a POLL8 or POLL16 read ends with what its access hands
back. Ended OK it counts: one that matches under the mask, a POLL8 on its low byte alone, ends the entry with last_value and
tries_used; one that does not, with tries left, waits for the interval, or claims again at once for an interval of 0; with none
left the entry is EXPIRED, which stops a strict POLL's batch at its index and otherwise counts as done. A TIMEOUT, counted, or an
ALIGN, not counted, stops the batch. In a cancelled batch a read that leaves tries abandons the entry: CANCELLED, stopped at its index,
with last_value and tries_used; one that ends the entry is its last. At the deadline the next read claims the bus, and the entry after
a DELAY begins, another DELAY with its own deadline, or the batch that ends with the DELAY is answered. Before it nothing happens. A
claim that appears on the idle bus is granted at once (R40). -/
def Obligations.PollsAndDelaysGoOn : Prop :=
  (∀ (s : State) (a : Access) (b : Batch) (rest : List Batch) (e : BusEnd) (en : RawEntry) (op : Op) (r : AccessEnd),
    s.inFlight = .access a → s.arb.owner = .link → s.orphan = false → s.queue = b :: rest →
    b.entries[b.next]? = some en → opOf en.op = some op → (op = .poll8 ∨ op = .poll16) →
    b.discard = false → s.accessEnd a e = some r →
    let hit : Prop := (op = .poll8 → lowByte r.value &&& lowByte en.a = lowByte en.b) ∧
      (op = .poll16 → r.value &&& en.a = en.b)
    let result : EntryResult := .poll r.value (b.pollTries + 1)
    let others : List Report := s.cancelled.map fun tag => .reply 0x94 tag .cancelled (.batch 0 255 [])
    ∃ (t : State) (more : List Report), exec (.pollReadEnd e) s = .next t ∧ State.Apart s t ∧ t.lines = s.lines ∧
    let ends : Status → Nat → Nat → EntryResult → Prop := fun st done stop x => s.cancelled.length < s.link.reservations →
      t.queue.map Batch.tag = rest.map Batch.tag ∧ t.link.reports =
        s.link.reports ++ .reply 0x94 b.tag st (.batch done stop (b.results ++ [x])) :: (others ++ more)
    (r.status = .ok → ¬ hit → b.pollTries + 1 < en.c.toNat → b.cancel = true → ends .cancelled b.next b.next result) ∧
    (r.status = .ok → ¬ hit → b.pollTries + 1 < en.c.toNat → b.cancel = false →
      (entryInterval en ≠ 0 → t.queue = { b with
        step := .pollWait, pollTries := b.pollTries + 1, pollLast := r.value
        waitEnd := some ⟨s.now, entryInterval en * 10⟩ } :: rest) ∧
      (entryInterval en = 0 → ∃ st : EntryStep, (st = .claiming ∨ st = .cycle) ∧ t.queue = { b with
        step := st, pollTries := b.pollTries + 1, pollLast := r.value } :: rest)) ∧
    (r.status = .ok → (hit ∨ (en.c.toNat ≤ b.pollTries + 1 ∧ entryStrict en = false)) →
      (b.cancel = true → ends .cancelled (b.next + 1) 255 result) ∧
      (b.cancel = false → b.next + 1 < b.entries.length → ∃ b' rest', t.queue = b' :: rest' ∧ b'.next = b.next + 1 ∧
        b'.results = b.results ++ [result] ∧ b'.tag = b.tag ∧ b'.entries = b.entries) ∧
      (b.cancel = false → b.next + 1 = b.entries.length → b.posted = false → b.status = .ok →
        ends .ok b.entries.length 255 result)) ∧
    (r.status = .ok → ¬ hit → en.c.toNat ≤ b.pollTries + 1 → entryStrict en = true →
      ends .expired b.next b.next result) ∧
    (r.status = .timeout → ends .timeout b.next b.next result) ∧
    (r.status = .align → ends .align b.next b.next (.poll b.pollLast b.pollTries))) ∧
  (∀ (s : State) (b : Batch) (rest : List Batch) (d : Deadline), s.queue = b :: rest → b.waitEnd = some d →
    (b.step = .pollWait → d.reached s.now = true → exec .pollIntervalExpiry s = .next (State.claimed { s with
      queue := { b with step := .claiming, waitEnd := none } :: rest })) ∧
    (b.step = .delay → d.reached s.now = true → b.discard = false → b.cancel = false →
      b.next + 1 < b.entries.length → (∀ en, b.entries[b.next + 1]? = some en → opOf en.op ≠ some .delay) →
      exec .delayExpiry s = .next (State.claimed { s with
        queue := { b with
          next := b.next + 1, step := .claiming, pollTries := 0, pollLast := 0, waitEnd := none } :: rest })) ∧
    (∀ en : RawEntry, b.step = .delay → d.reached s.now = true → b.discard = false →
      b.cancel = false → b.entries[b.next + 1]? = some en → opOf en.op = some .delay →
      exec .delayExpiry s = .next (State.claimed { s with
        queue := { b with next := b.next + 1, waitEnd := some ⟨s.now, en.a.toNat⟩ } :: rest })) ∧
    (b.step = .delay → d.reached s.now = true → b.discard = false → b.cancel = false →
      b.next + 1 = b.entries.length → b.posted = false → b.status = .ok → s.cancelled.length < s.link.reservations →
      ∃ (t : State) (more : List Report), exec .delayExpiry s = .next t ∧ State.Apart s t ∧ t.lines = s.lines ∧
        t.queue.map Batch.tag = rest.map Batch.tag ∧ (s.arb.owner ≠ .none → t.arb = s.arb ∧ more = []) ∧ t.link.reports =
          s.link.reports ++ .reply 0x94 b.tag .ok (.batch b.entries.length 255 b.results) ::
            ((s.cancelled.map fun tag => .reply 0x94 tag .cancelled (.batch 0 255 [])) ++ more)) ∧
    (d.reached s.now = false → exec .pollIntervalExpiry s = .next s ∧ exec .delayExpiry s = .next s))

/-! ### The census -/

/-- CENSUS_START and CENSUS_STOP (R69, R74, R75): the start's checks; a start that is taken scans from its first probe, and its
first read has an idle bus at once (R40); a stop of an idle census is answered at once; a stop of a scan whose read is in flight waits, with reason STOPPED. A stop in PAUSED, or in SCANNING
with no read in flight, makes the census ENDING with reason STOPPED; one in ENDING leaves the reason. The tag waits with those before
it, for the CENSUS_END notice, which a finding still held goes before, and which joins at once, the replies behind it, where there is
room and no claimant before it. -/
def Obligations.CensusStartsAndStops : Prop :=
  ∀ (s : State) (h : Hdr), Served s h →
    (∀ first past : Nat, (first % 0x800 ≠ 0 ∨ past % 0x800 ≠ 0 ∨ past ≤ first ∨ 0x100000 < past) →
      exec (.censusStart h first past) s = .next (s.answered h 0x15 .range .empty)) ∧
    (∀ first past : Nat, first % 0x800 = 0 → past % 0x800 = 0 → first < past → past ≤ 0x100000 →
      (s.census.state ≠ .idle → exec (.censusStart h first past) s = .next (s.answered h 0x15 .busy .empty)) ∧
      (s.census.state = .idle →
        exec (.censusStart h first past) s = .next (State.claimed { s.answered h 0x15 .ok .empty with
          census := { s.census with
            state := .scanning, first := first, past := past, probe := first, pos := first, phase := .signature
            findings := 0, bytesRead := 0, timedOut := 0, reason := none, stopWaiters := [] } }))) ∧
    (s.census.state = .idle → exec (.censusStop h) s = .next (s.answered h 0x16 .ok .empty)) ∧
    (s.census.state = .scanning → s.arb.owner = .census → s.orphan = false →
      exec (.censusStop h) s = .next { s with
        link := s.link.taken s.now h.more
        census := { s.census with stopWaiters := s.census.stopWaiters ++ [h.tag], reason := some .stopped } }) ∧
    (∀ why : Option CensusReason,
      (s.census.state = .ending ∧ why = s.census.reason ∨ s.census.state = .paused ∧ why = some .stopped ∨
        s.census.state = .scanning ∧ ¬ (s.arb.owner = .census ∧ s.orphan = false) ∧ why = some .stopped) →
      let waiting : State := { s with
        link := s.link.taken s.now h.more
        census := { s.census with stopWaiters := s.census.stopWaiters ++ [h.tag], reason := why, state := .ending } }
      let admits : Prop := waiting.link.canAdmit = true ∧ waiting.firstClaimant = some .censusEnd
      (s.census.heldFind ≠ none → exec (.censusStop h) s = .next waiting) ∧
      (¬ admits → exec (.censusStop h) s = .next waiting) ∧
      (admits → s.census.stopWaiters.length ≤ s.link.reservations → exec (.censusStop h) s = .next { waiting with
        census := { waiting.census with state := .idle, stopWaiters := [] }
        link := { waiting.link with
          reservations := s.link.reservations - s.census.stopWaiters.length
          reports := s.link.reports ++
            .notice (.censusEnd s.census.findings s.census.bytesRead s.census.timedOut why) ::
              (s.census.stopWaiters ++ [h.tag]).map fun tag => .reply 0x96 tag .ok .empty } }))

/-- CENSUS_READ_END (R70 to R75): the read is counted, one that timed out also in timed_out, its byte 0xFF. SIGNATURE: the first byte
is kept; 0x55 and 0xAA begin the LENGTH phase with sum 0xFF, any other two move the probe on by 0x800. LENGTH: a byte other than 0
is L and joins the sum; 0 makes an INVALID finding. BODY: the byte joins the sum and pos moves on; the last one makes a finding,
VALID for a sum of 0, and moves the probe past the ROM, rounded up to 2 KiB; the byte at 0x0FFFFF of a longer ROM makes a TRUNCATED
one. A probe that moves on begins in SIGNATURE at its first byte. A finding carries the probe's address, L, the sum and the validity:
it is placed at once if there is room and no claimant before it, and held otherwise, the census PAUSED, or ENDING where the scan is
over with it (log entry 36). A read that ends after a CENSUS_STOP is taken in the same way and ends the census: ENDING with reason
STOPPED, the CENSUS_END notice placed at once, the stops answered behind it, where there is room and no claimant before it; it makes no
finding for a probe left unfinished, and that it makes one for a ROM it completes is the model's choice (log entry 15). -/
def Obligations.CensusReadsAreTaken : Prop :=
  ∀ (s : State) (a : Access) (e : BusEnd) (r : AccessEnd), s.inFlight = .access a → s.arb.owner = .census →
    s.orphan = false → a.plan = .one8 → s.accessEnd a e = some r → s.census.state = .scanning →
    (s.census.reason = none ∨ s.census.reason = some .stopped) → s.census.abandon = false → s.census.heldFind = none →
    let b := lowByte r.value
    let k := s.census
    let lost : Nat := if r.status = .timeout then 1 else 0
    let admits : Prop := s.link.canAdmit = true ∧ s.firstClaimant = none
    ∃ t : State, exec (.censusReadEnd e) s = .next t ∧ State.Apart { s with census := t.census } t ∧ t.lines = s.lines ∧
      t.census.bytesRead = k.bytesRead + 1 ∧ t.census.timedOut = k.timedOut + lost ∧
      t.census.first = k.first ∧ t.census.past = k.past ∧
      let ended : CensusReason → Prop := fun why => t.census.reason = some why ∧
        (¬ admits → t.census.state = .ending ∧ t.census.stopWaiters = k.stopWaiters) ∧
        (admits → t.census.state = .idle ∧ t.census.stopWaiters = [] ∧
          (k.stopWaiters.length ≤ s.link.reservations → ∃ more : List Report, t.link.reports = s.link.reports ++
            .notice (.censusEnd k.findings (k.bytesRead + 1) (k.timedOut + lost) (some why)) ::
              ((k.stopWaiters.map fun tag => .reply 0x96 tag .ok .empty) ++ more)))
      let unfinished : Prop := t.census.findings = k.findings ∧ t.census.heldFind = none ∧
        (k.reason = some .stopped → ended .stopped)
      let moves : Nat → Prop := fun step => t.census.probe = k.probe + step ∧ t.census.pos = k.probe + step ∧
        t.census.phase = .signature ∧
        (k.past ≤ k.probe + step → t.census.reason = some (k.reason.getD .done) ∧
          (t.census.state = .ending ∨ t.census.state = .idle)) ∧
        (k.probe + step < k.past → t.census.reason = k.reason)
      let finds : Byte → Nat → Validity → Nat → Prop := fun sum len v step =>
        t.census.findings = k.findings + 1 ∧ moves step ∧
        (admits → t.census.heldFind = none ∧
          (k.reason = none → k.probe + step < k.past → t.census.state = .scanning) ∧
          (k.reason = some .stopped → t.census.state = .ending ∨ t.census.state = .idle) ∧
          ∃ more : List Report,
            t.link.reports = s.link.reports ++ .notice (.censusFind ⟨k.probe, len, sum, v⟩) :: more) ∧
        (¬ admits → t.census.heldFind = some ⟨k.probe, len, sum, v⟩ ∧
          t.census.state = if k.reason = none ∧ k.probe + step < k.past then .paused else .ending)
      let goesOn : Prop := unfinished ∧ t.census.probe = k.probe ∧ t.census.reason = k.reason ∧
        (k.reason = none → t.census.state = .scanning)
      (k.phase = .signature → k.pos = k.probe →
        goesOn ∧ t.census.sig = b ∧ t.census.pos = k.probe + 1 ∧ t.census.phase = .signature) ∧
      (k.phase = .signature → k.pos = k.probe + 1 → k.sig = 0x55 → b = 0xAA →
        goesOn ∧ t.census.sum = 0xFF ∧ t.census.phase = .length ∧ t.census.pos = k.probe + 2) ∧
      (k.phase = .signature → k.pos = k.probe + 1 → ¬ (k.sig = 0x55 ∧ b = 0xAA) →
        unfinished ∧ moves 0x800 ∧ (k.reason = none → k.past ≤ k.probe + 0x800 → ended .done) ∧
        (k.reason = none → k.probe + 0x800 < k.past → t.census.state = .scanning)) ∧
      (k.phase = .length → b ≠ 0 → goesOn ∧ t.census.len = b.toNat ∧ t.census.sum = k.sum + b ∧
        t.census.phase = .body ∧ t.census.pos = k.probe + 3) ∧
      (k.phase = .length → b = 0 → finds k.sum 0 .invalid 0x800) ∧
      (k.phase = .body → k.pos + 1 ≠ k.probe + k.len * 512 → k.pos + 1 ≠ 0x100000 →
        goesOn ∧ t.census.sum = k.sum + b ∧ t.census.pos = k.pos + 1 ∧ t.census.phase = .body) ∧
      (k.phase = .body → k.pos + 1 = k.probe + k.len * 512 →
        finds (k.sum + b) k.len (if k.sum + b = 0 then .valid else .invalid) ((k.len * 512 + 2047) / 2048 * 2048)) ∧
      (k.phase = .body → k.pos + 1 ≠ k.probe + k.len * 512 → k.pos + 1 = 0x100000 →
        finds (k.sum + b) k.len .truncated ((k.len * 512 + 2047) / 2048 * 2048))

/-! ### DMA channels and transfers -/

/-- The system address of a transfer (R93, R94): page × 65,536 + current_address on a byte channel; on a word channel the page
with its lowest bit cleared × 65,536 + 2 × current_address, always even and inside its 128 KiB block. -/
def Obligations.SystemAddressesStayInTheirBlock : Prop :=
  ∀ (c : ChanId) (page : Byte) (addr : Half),
    (c.val < 4 → systemAddress c page addr = page.toNat * 65536 + addr.toNat ∧
      systemAddress c page addr ≤ page.toNat * 65536 + 65535) ∧
    (4 ≤ c.val →
      let block := (page &&& 0xFE).toNat * 65536
      systemAddress c page addr = block + 2 * addr.toNat ∧ systemAddress c page addr % 2 = 0 ∧
        systemAddress c page addr ≤ block + 131070)

/-- CHAN_LOAD (R82): the checks in order; a load that is taken writes the whole program, resets the position and the unreported
notice, and leaves the state. -/
def Obligations.ChanLoadWritesTheProgram : Prop :=
  ∀ (s : State) (h : Hdr) (c : ChanId) (p : ChanProgram), Served s h →
    (p.kind = none ∨ p.service = none ∨ p.step = none →
      exec (.chanLoad h (chanNumber c) p) s = .next (s.answered h 0x18 .range .empty)) ∧
    (∀ (k : ChanKind) (v : Service) (d : StepDir), p.kind = some k → p.service = some v → p.step = some d →
      (p.matchByte ≠ none → (4 ≤ c.val ∨ k ≠ .fill) →
        exec (.chanLoad h (chanNumber c) p) s = .next (s.answered h 0x18 .range .empty)) ∧
      ((p.matchByte = none ∨ (c.val < 4 ∧ k = .fill)) → s.chans[c].state = .serving →
        exec (.chanLoad h (chanNumber c) p) s = .next (s.answered h 0x18 .busy .empty)) ∧
      ((p.matchByte = none ∨ (c.val < 4 ∧ k = .fill)) → s.chans[c].state ≠ .serving →
        ∃ t : State, exec (.chanLoad h (chanNumber c) p) s = .next t ∧ t.kept = s.kept ∧ t.store = s.store ∧
          t.link = s.link.answered s.now h.more (.reply 0x98 h.tag .ok .empty) ∧ t.arb = s.arb ∧
          t.inFlight = s.inFlight ∧ t.queue = s.queue ∧ t.lane = s.lane ∧ t.relay = s.relay ∧ t.lines = s.lines ∧
          t.chans = s.chans.set c { s.chans[c] with
            programmed := true, kind := k, service := v, autoInit := p.autoInit ≠ 0, step := d, page := p.page
            baseAddress := p.baseAddress, currentAddress := p.baseAddress, baseCount := p.baseCount
            currentCount := p.baseCount, matchByte := p.matchByte, notifyTerminal := p.notify ≠ 0, tcFlag := false
            blockOpen := false, causes := {}, pendingTerminals := 0, pendingFaults := 0, faultDetail := none
            faultAddress := none, awaitedRegions := [] }))

/-- CHAN_MASK (R83): at once for a channel that is not the owner; pending with the tag waiting for an owner under SINGLE, DEMAND
or BLOCK; pending and answered at once under a master grant. CHAN_UNMASK (R84): STATE if not programmed, BUSY with a mask
pending, no change if not MASKED, and otherwise SERVING with an open BLOCK run or an asserted request, READY without; its claim on
an idle bus is granted at once (R40). -/
def Obligations.ChannelsAreMaskedAndUnmasked : Prop :=
  ∀ (s : State) (h : Hdr) (c : ChanId), Served s h →
    (¬ (s.chans[c].state = .serving ∧ s.arb.owner.isChan c = true) →
      exec (.chanMask h (chanNumber c)) s = .next { s.answered h 0x19 .ok .empty with
        chans := s.chans.set c { s.chans[c] with state := .masked, maskReason := some .host } }) ∧
    (s.chans[c].state = .serving → s.arb.owner = .dma c false →
      exec (.chanMask h (chanNumber c)) s = .next { s with
        link := s.link.taken s.now h.more
        chans := s.chans.set c { s.chans[c] with
          maskPending := some .host, maskWaiters := s.chans[c].maskWaiters ++ [h.tag] } }) ∧
    (s.chans[c].state = .serving → s.arb.owner = .dma c true →
      exec (.chanMask h (chanNumber c)) s = .next { s.answered h 0x19 .ok .empty with
        chans := s.chans.set c { s.chans[c] with maskPending := some .host } }) ∧
    (exec (.chanUnmask h (chanNumber c)) s =
      if s.chans[c].programmed = false then .next (s.answered h 0x1A .state .empty)
      else if s.chans[c].maskPending ≠ none then .next (s.answered h 0x1A .busy .empty)
      else if s.chans[c].state ≠ .masked then .next (s.answered h 0x1A .ok .empty)
      else .next (State.claimed { s.answered h 0x1A .ok .empty with
        chans := s.chans.set c { s.chans[c] with
          maskReason := none
          state := if (s.chans[c].blockOpen = true ∧ s.chans[c].service = .block) ∨ s.chans[c].request = true
            then .serving else .ready } }))

/-- REQUEST_LEVEL_CHANGE (R12, R78, R79): a card in a connected slot raises its request on a READY channel, which enters SERVING;
when no connected card is left asserting it, a SINGLE or DEMAND channel that waits in SERVING enters READY; an isolated card's
request reaches nobody. A claim on an idle bus is granted at once (R40). Shown with every other level as recorded and the channel not
the owner. -/
def Obligations.RequestsMoveWaitingChannels : Prop :=
  ∀ (s : State) (i : SlotId) (c : ChanId), (∀ d : ChanId, s.requestLevel d = s.chans[d].request) →
    s.arb.owner.isMaster = false → s.arb.owner.isChan c = false →
    (s.slots[i].closed = true → s.chans[c].request = false → s.chans[c].state = .ready →
      exec (.requestLevelChange i c true) s = .next (State.claimed { s with
        drives := s.drives.set i { s.drives[i] with requests := setInsert c s.drives[i].requests }
        chans := s.chans.set c { s.chans[c] with request := true, state := .serving } })) ∧
    (s.chans[c].request = true → s.chans[c].state = .serving →
      (s.chans[c].service = .single ∨ s.chans[c].service = .demand) →
      (∀ j : SlotId, j ≠ i → s.slots[j].closed = true → c ∉ s.drives[j].requests) →
      exec (.requestLevelChange i c false) s = .next (State.claimed { s with
        drives := s.drives.set i { s.drives[i] with requests := setRemove c s.drives[i].requests }
        chans := s.chans.set c { s.chans[c] with request := false, state := .ready } })) ∧
    (s.slots[i].closed = false → exec (.requestLevelChange i c true) s = .next (State.claimed { s with
      drives := s.drives.set i { s.drives[i] with requests := setInsert c s.drives[i].requests } }))

/-- TRANSFER_END, the position (R99, R100): whatever the transfer's kind, target and outcome, last_system_address becomes its
address, current_address moves by one step within 16 bits and current_count falls by one; a count of 0 becomes 65,535 with tc_flag
set, or both return to their bases under auto_init. The other channels' programs and positions stay. -/
def Obligations.TransfersMoveThePosition : Prop :=
  ∀ (s : State) (x : Transfer) (e : BusEnd), s.inFlight = .transfer x → s.orphan = false →
    let ch := s.chans[x.ch]
    let next : Half := match ch.step with
      | .up => ch.currentAddress + 1
      | .down => ch.currentAddress - 1
    ∃ t : State, exec (.transferEnd e) s = .next t ∧ t.kept = s.kept ∧ t.lines = s.lines ∧
      (∃ more : List Report, t.link.reports = s.link.reports ++ more) ∧
      t.chans[x.ch].request = ch.request ∧
      (ch.currentCount ≠ 0 → t.chans[x.ch].program =
        { ch with currentAddress := next, currentCount := ch.currentCount - 1, lastSystemAddress := x.sysAddr }.program) ∧
      (ch.currentCount = 0 → ch.autoInit = false → t.chans[x.ch].program =
        { ch with currentAddress := next, currentCount := 0xFFFF, tcFlag := true, lastSystemAddress := x.sysAddr }.program) ∧
      (ch.currentCount = 0 → ch.autoInit = true → t.chans[x.ch].program =
        { ch with currentAddress := ch.baseAddress, currentCount := ch.baseCount, tcFlag := true
                  lastSystemAddress := x.sysAddr }.program) ∧
      (∀ d : ChanId, d ≠ x.ch → t.chans[d].program = s.chans[d].program)

/-- TRANSFER_END, the memory side (R97, R98, R124, R131): a FILL into the mirror store writes its byte, or the low and high halves of
its word from the even address on, all ones if the cycle timed out; every other byte is unchanged, and a transfer of another kind or
target leaves the whole store. Each byte stored is marked in its region's ship queue: a granule not queued joins the tail with the
byte's place and the present time, a queued one is widened where it stands, dirty_total gains the difference; dirty_total at the
threshold begins a pass. Shown with no other work on the store waiting and no region about to be placed, the marks with no room to
ship them in the same step. -/
def Obligations.TransfersFillTheStore : Prop :=
  (∀ (q : ShipQueue) (ageMs off : Nat) (now : Time),
    ((∀ x ∈ q.entries, x.granule ≠ off / 64) →
      (q.mark ageMs now off).entries = q.entries ++ [⟨off / 64, off % 64, off % 64, now⟩] ∧
      (q.mark ageMs now off).dirtyTotal = q.dirtyTotal + 1) ∧
    (∀ (before after : List ShipEntry) (x : ShipEntry), q.entries = before ++ x :: after → x.granule = off / 64 →
      (∀ y ∈ before ++ after, y.granule ≠ off / 64) → x.lo ≤ x.hi →
      (q.mark ageMs now off).entries = before ++ { x with lo := min x.lo (off % 64), hi := max x.hi (off % 64) } :: after ∧
      (q.mark ageMs now off).dirtyTotal + (x.hi - x.lo) = q.dirtyTotal + (max x.hi (off % 64) - min x.lo (off % 64))) ∧
    (q.mark ageMs now off).ageDeadline = (if q.entries = [] then some ⟨now, ageMs * 1000⟩ else q.ageDeadline) ∧
    (q.mark ageMs now off).running = q.running ∧ (q.mark ageMs now off).waiters = q.waiters) ∧
  (∀ (s : State) (x : Transfer) (e : BusEnd), StoreOk s → s.inFlight = .transfer x → s.orphan = false →
    s.storeWaits = [] → (∀ r : RegionId, s.regions[r].successor = none) → x.kind = s.chans[x.ch].kind →
    (s.readyHeld x.switched e = 0 ∨ x.timedOut = true) →
    let lo : Byte := if x.timedOut then 0xFF else s.lowLines e
    let hi : Byte := if x.timedOut then 0xFF else s.highLines e
    ∃ t : State, exec (.transferEnd e) s = .next t ∧
      (∀ id : RegionId, x.kind = .fill → x.target = .mirror id → x.ch.val < 4 → ∀ a : Nat,
        Memory.read t.store a = if a = x.sysAddr then lo else Memory.read s.store a) ∧
      (∀ id : RegionId, x.kind = .fill → x.target = .mirror id → 4 ≤ x.ch.val → ∀ a : Nat,
        Memory.read t.store a =
          if a = x.sysAddr then lo else if a = x.sysAddr + 1 then hi else Memory.read s.store a) ∧
      ((x.kind ≠ .fill ∨ x.target = .card ∨ x.target = .nothing) → t.store = s.store) ∧
      (∀ id : RegionId, s.NoRoom → x.kind = .fill → x.target = .mirror id →
        let g := s.regions[id]
        let off := x.sysAddr - g.fields.base
        let one := g.ship.mark (g.fields.age.getD 0) s.now off
        let q := if 4 ≤ x.ch.val then one.mark (g.fields.age.getD 0) s.now (off + 1) else one
        t.regions[id].ship.entries = q.entries ∧ t.regions[id].ship.dirtyTotal = q.dirtyTotal ∧
        t.regions[id].ship.ageDeadline = q.ageDeadline ∧
        (g.ship.running = true → t.regions[id].ship.running = true) ∧
        (g.cond ≠ .absent → g.fields.kind = .mirror → g.ship.running = false →
          (∃ n, g.fields.threshold = some n ∧ n ≤ q.dirtyTotal) →
          t.regions[id].ship.running = true ∧ id ∈ t.fillLine)))

/-- TRANSFER_END, the stop (R83, R86, R100, R101): a wait fault masks with reason FAULT, else a match on an OK byte with MATCH, else a
terminal count without auto_init with TERMINAL, else a pending mask takes effect; a pending mask is gone with each, and the CHAN_MASK
requests that waited for it are answered, in order. The causes join the channel's unreported notice (R87): TERMINAL where it is to be
notified, also under auto_init with nothing to mask the channel, MATCH, FAULT with detail WAIT and the address, each counted within
255, with the present time if none was pending; and a pass is demanded on the MIRROR region of the transfer's address, which the
notice then awaits, unless nothing is queued there. A BLOCK run closes at its terminal count (R80), also, which is the model's choice
(log entry 43), where MATCH or FAULT masks it there; one reloaded leaves the channel READY without a request, and otherwise opens
again with the next grant. The demand is shown with no room to ship in the same step. -/
def Obligations.TransferStopsMaskTheChannel : Prop :=
  ∀ (s : State) (x : Transfer) (e : BusEnd), s.inFlight = .transfer x → s.orphan = false →
    (s.readyHeld x.switched e = 0 ∨ x.timedOut = true) →
    let ch := s.chans[x.ch]
    let hit : Prop := ch.kind = .fill ∧ x.ch.val < 4 ∧ x.timedOut = false ∧ ch.matchByte = some (s.lowLines e)
    let stop : Prop := ch.currentCount = 0 ∧ ch.autoInit = false
    let told : Prop := ch.currentCount = 0 ∧ ch.notifyTerminal = true
    let masked : Prop := x.timedOut = true ∨ hit ∨ stop ∨ ch.maskPending ≠ none
    let count : Nat → Nat := fun n => if n < 255 then n + 1 else 255
    ∃ t : State, exec (.transferEnd e) s = .next t ∧
      (x.timedOut = true → t.chans[x.ch].state = .masked ∧ t.chans[x.ch].maskReason = some .fault ∧
        t.chans[x.ch].maskPending = none) ∧
      (hit → t.chans[x.ch].state = .masked ∧ t.chans[x.ch].maskReason = some .matched ∧
        t.chans[x.ch].maskPending = none) ∧
      (x.timedOut = false → ¬ hit → stop → t.chans[x.ch].state = .masked ∧
        t.chans[x.ch].maskReason = some .terminal ∧ t.chans[x.ch].maskPending = none) ∧
      (x.timedOut = false → ¬ hit → ¬ stop → ∀ r : MaskReason, ch.maskPending = some r →
        t.chans[x.ch].state = .masked ∧ t.chans[x.ch].maskReason = some r ∧ t.chans[x.ch].maskPending = none) ∧
      (masked → t.chans[x.ch].maskWaiters = [] ∧ t.arb.owner.isChan x.ch = false ∧
        (PassesOk s → ch.maskWaiters.length ≤ s.link.reservations → ∃ more : List Report, t.link.reports =
          s.link.reports ++ (ch.maskWaiters.map fun tag => .reply 0x99 tag .ok .empty) ++ more) ∧
        t.chans[x.ch].blockOpen = (if ch.currentCount = 0 ∧ ch.service = .block then false else ch.blockOpen)) ∧
      (¬ masked → ch.currentCount = 0 → ch.service = .block →
        (ch.request = false → t.chans[x.ch].state = .ready ∧ t.chans[x.ch].blockOpen = false) ∧
        (ch.request = true → t.chans[x.ch].state = .serving →
          (t.chans[x.ch].blockOpen = true ↔ t.arb.owner = .dma x.ch false))) ∧
      (told → t.chans[x.ch].causes.terminal = true ∧ t.chans[x.ch].pendingTerminals = count ch.pendingTerminals) ∧
      (¬ told → t.chans[x.ch].causes.terminal = ch.causes.terminal ∧
        t.chans[x.ch].pendingTerminals = ch.pendingTerminals) ∧
      (hit → t.chans[x.ch].causes.matched = true) ∧
      (¬ hit → t.chans[x.ch].causes.matched = ch.causes.matched) ∧
      (x.timedOut = true → t.chans[x.ch].causes.fault = true ∧ t.chans[x.ch].pendingFaults = count ch.pendingFaults ∧
        t.chans[x.ch].faultDetail = some .wait ∧ t.chans[x.ch].faultAddress = some x.sysAddr) ∧
      (x.timedOut = false → masked → t.chans[x.ch].causes.fault = ch.causes.fault ∧
        t.chans[x.ch].pendingFaults = ch.pendingFaults ∧ t.chans[x.ch].faultDetail = ch.faultDetail ∧
        t.chans[x.ch].faultAddress = ch.faultAddress) ∧
      (told ∨ hit ∨ x.timedOut = true → t.chans[x.ch].pendingSince =
        if ch.causes.terminal = false ∧ ch.causes.matched = false ∧ ch.causes.fault = false then s.now
        else ch.pendingSince) ∧
      (masked → ¬ (told ∨ hit ∨ x.timedOut = true) → t.chans[x.ch].pendingSince = ch.pendingSince) ∧
      (told ∨ hit ∨ x.timedOut = true → s.NoRoom → ∀ id : RegionId, s.mirrorAt x.sysAddr = some id →
        (s.regions[id].ship.entries ≠ [] ∨ (ch.kind = .fill ∧ x.target = .mirror id) →
          id ∈ t.chans[x.ch].awaitedRegions ∧ t.regions[id].ship.running = true ∧
          x.ch ∈ t.regions[id].ship.waiters.chans) ∧
        (s.regions[id].ship.entries = [] → s.regions[id].ship.running = false →
          ¬ (ch.kind = .fill ∧ ∃ r, x.target = .mirror r) → id ∉ t.chans[x.ch].awaitedRegions))

/-! ### The memory map, the store and shipping -/

/-- REGION_SET (R106 to R109, R113): a field outside its range is refused RANGE, a DROPPING entry BUSY, an extent that meets
another's OVERLAP; on an ABSENT entry the region is ACTIVE with its attributes applied, its queue empty, and a MIRROR region's bytes
read 0x00 while every byte outside is unchanged. On an ACTIVE entry of the same shape the attributes are replaced, store and queue
kept, and a threshold or age already reached begins a pass; of another shape a region in use is refused BUSY, a CARD region is
replaced at once, and a MIRROR region with bytes queued becomes DROPPING with its successor, the reply waiting for the end of the
pass it demands; with none queued and no pass its successor is placed at once. Placements are shown with no transfer in flight. -/
def Obligations.RegionsArePlacedZeroed : Prop :=
  (∀ (s : State) (h : Hdr) (n : Nat) (r : RegionRequest), Served s h →
    (r.kind = none ∨ accessSet r.access = none ∨ r.base % 256 ≠ 0 ∨ 0xFFFF00 < r.base ∨ r.length = 0 ∨ r.length % 256 ≠ 0 ∨
      1048576 < r.length ∨ 16777216 < r.base + r.length) →
    exec (.regionSet h n r) s = .next (s.answered h 0x20 .range .empty)) ∧
  (∀ (s : State) (h : Hdr) (id : RegionId) (r : RegionRequest) (k : RegionKind) (acc : List ChanId), Served s h →
    r.kind = some k → accessSet r.access = some acc → r.base % 256 = 0 →
    r.length % 256 = 0 → 0 < r.length → r.length ≤ 1048576 → r.base + r.length ≤ 16777216 →
    let f : RegionFields :=
      { base := r.base, length := r.length, kind := k, access := acc, master := r.master ≠ 0
        threshold := if k = .mirror then some (max 64 (min 1024 ((r.threshold + 63) / 64 * 64))) else none
        age := if k = .mirror then some (max 1 (min 100 r.age)) else none }
    let g := s.regions[id]
    let meets : Prop := ∃ j : RegionId, j ≠ id ∧ ∃ o ∈ s.regions[j].held,
      f.base < o.base + o.length ∧ o.base < f.base + f.length
    let placed : State → Prop := fun t =>
      t.regions[id].cond = .active ∧ t.regions[id].fields = f ∧ t.regions[id].successor = none ∧
      t.regions[id].dropWaiters = [] ∧ t.regions[id].flushWaiters = [] ∧ t.regions[id].ship.entries = [] ∧
      t.regions[id].ship.dirtyTotal = 0 ∧ t.regions[id].ship.running = false ∧
      (∀ j : RegionId, j ≠ id → t.regions[j] = s.regions[j]) ∧ t.kept = s.kept ∧
      t.link = s.link.answered s.now h.more (.reply 0xA0 h.tag .ok (.region id f)) ∧ t.chans = s.chans ∧
      (∀ a : Nat, Memory.read t.store a =
        if k = .mirror ∧ f.base ≤ a ∧ a < f.base + f.length then 0 else Memory.read s.store a)
    let same : Prop := g.fields.base = f.base ∧ g.fields.length = f.length ∧ g.fields.kind = k
    (g.cond = .dropping → exec (.regionSet h id.val r) s = .next (s.answered h 0x20 .busy .empty)) ∧
    (g.cond = .absent → meets → exec (.regionSet h id.val r) s = .next (s.answered h 0x20 .overlap .empty)) ∧
    (g.cond = .absent → ¬ meets → s.transferring = false →
      ∃ t : State, exec (.regionSet h id.val r) s = .next t ∧ placed t) ∧
    (g.cond = .active → same → meets → exec (.regionSet h id.val r) s = .next (s.answered h 0x20 .overlap .empty)) ∧
    (g.cond = .active → same → ¬ meets →
      let q : ShipQueue := { g.ship with
        ageDeadline := g.ship.entries.head?.map fun x => ⟨x.joined, f.age.getD 0 * 1000⟩ }
      let due : Prop := k = .mirror ∧ g.ship.running = false ∧ (f.threshold.getD 0 ≤ g.ship.dirtyTotal ∨
        ∃ x rest, g.ship.entries = x :: rest ∧ f.age.getD 0 * 1000 ≤ (s.now - x.joined).toNat)
      (¬ due → exec (.regionSet h id.val r) s = .next { s.answered h 0x20 .ok (.region id f) with
        regions := s.regions.set id { g with fields := f, ship := q } }) ∧
      (due → g.ship.entries ≠ [] → exec (.regionSet h id.val r) s = .next { s.answered h 0x20 .ok (.region id f) with
        regions := s.regions.set id { g with fields := f, ship := { q with running := true } }
        fillLine := s.fillLine ++ [id] })) ∧
    (g.cond = .active → ¬ same → s.inUse id = true →
      exec (.regionSet h id.val r) s = .next (s.answered h 0x20 .busy .empty)) ∧
    (g.cond = .active → ¬ same → s.inUse id = false → meets →
      exec (.regionSet h id.val r) s = .next (s.answered h 0x20 .overlap .empty)) ∧
    (g.cond = .active → ¬ same → s.inUse id = false → ¬ meets →
      (g.fields.kind = .card → s.transferring = false →
        ∃ t : State, exec (.regionSet h id.val r) s = .next t ∧ placed t ∧ t.written = setRemove id s.written) ∧
      (g.fields.kind = .mirror → g.ship.entries ≠ [] → g.ship.running = false →
        exec (.regionSet h id.val r) s = .next { s with
          link := s.link.taken s.now h.more, fillLine := s.fillLine ++ [id]
          regions := s.regions.set id { g with
            cond := .dropping, successor := some f, dropWaiters := g.dropWaiters ++ [⟨h.tag, true⟩]
            ship := { g.ship with running := true, waiters := { g.ship.waiters with map := true } } } }) ∧
      (g.fields.kind = .mirror → g.ship.entries = [] → g.ship.running = false → g.ship.waiters = {} →
        g.dropWaiters = [] → g.flushWaiters = [] → s.transferring = false →
        ∃ t : State, exec (.regionSet h id.val r) s = .next t ∧ placed t ∧ t.written = setRemove id s.written)))

/-- REGION_DROP, REGION_FLUSH and SHIP_AGE_EXPIRY (R111, R112, R114, R126, R132): STATE for an ABSENT entry; a region in use is not
dropped; a CARD region leaves at once; a MIRROR region becomes DROPPING, or is flushed, by a pass that joins the fill line, or by
the one that runs, and the reply waits for its end; a drop or a flush of a DROPPING entry joins those that wait; with nothing queued
the pass ends at once and the request is answered, a dropped entry ABSENT with every field cleared; a queue whose age deadline has
come, its pass IDLE, begins a pass, and before it nothing happens. -/
def Obligations.DropsFlushesAndAgeBeginAPass : Prop :=
  (∀ (s : State) (h : Hdr) (id : RegionId), Served s h →
      (s.regions[id].cond = .absent →
        exec (.regionDrop h id.val) s = .next (s.answered h 0x21 .state .empty) ∧
        exec (.regionFlush h id.val) s = .next (s.answered h 0x22 .state .empty)) ∧
      (s.regions[id].cond = .active → s.inUse id = true →
        exec (.regionDrop h id.val) s = .next (s.answered h 0x21 .busy .empty)) ∧
      (s.regions[id].cond = .active → s.regions[id].fields.kind = .card →
        exec (.regionFlush h id.val) s = .next (s.answered h 0x22 .ok .empty) ∧
        (s.inUse id = false → exec (.regionDrop h id.val) s = .next { s.answered h 0x21 .ok .empty with
          regions := s.regions.set id {}, written := setRemove id s.written })) ∧
      (s.regions[id].cond = .active → s.regions[id].fields.kind = .mirror → s.regions[id].ship.running = false →
        s.regions[id].ship.entries ≠ [] →
        let q : ShipQueue := { s.regions[id].ship with
          running := true, waiters := { s.regions[id].ship.waiters with map := true } }
        exec (.regionFlush h id.val) s = .next { s with
          link := s.link.taken s.now h.more, fillLine := s.fillLine ++ [id]
          regions := s.regions.set id { s.regions[id] with
            flushWaiters := s.regions[id].flushWaiters ++ [h.tag], ship := q } } ∧
        (s.inUse id = false → exec (.regionDrop h id.val) s = .next { s with
          link := s.link.taken s.now h.more, fillLine := s.fillLine ++ [id]
          regions := s.regions.set id { s.regions[id] with
            cond := .dropping, successor := none, dropWaiters := s.regions[id].dropWaiters ++ [⟨h.tag, false⟩]
            ship := q } })) ∧
      (s.regions[id].cond ≠ .absent → s.regions[id].fields.kind = .mirror → s.regions[id].ship.running = true →
        let q : ShipQueue := { s.regions[id].ship with waiters := { s.regions[id].ship.waiters with map := true } }
        exec (.regionFlush h id.val) s = .next { s with
          link := s.link.taken s.now h.more
          regions := s.regions.set id { s.regions[id] with
            flushWaiters := s.regions[id].flushWaiters ++ [h.tag], ship := q } } ∧
        (s.regions[id].cond = .active → s.inUse id = false → exec (.regionDrop h id.val) s = .next { s with
          link := s.link.taken s.now h.more
          regions := s.regions.set id { s.regions[id] with
            cond := .dropping, successor := none, dropWaiters := s.regions[id].dropWaiters ++ [⟨h.tag, false⟩]
            ship := q } })) ∧
      (s.regions[id].cond = .dropping → exec (.regionDrop h id.val) s = .next { s with
        link := s.link.taken s.now h.more
        regions := s.regions.set id { s.regions[id] with
          dropWaiters := s.regions[id].dropWaiters ++ [⟨h.tag, false⟩] } }) ∧
      (s.regions[id].cond = .active → s.regions[id].fields.kind = .mirror → s.regions[id].ship.running = false →
        s.regions[id].ship.entries = [] → s.regions[id].ship.waiters = {} → s.regions[id].dropWaiters = [] →
        s.regions[id].flushWaiters = [] →
        exec (.regionFlush h id.val) s = .next (s.answered h 0x22 .ok .empty) ∧
        (s.inUse id = false → exec (.regionDrop h id.val) s = .next { s.answered h 0x21 .ok .empty with
          regions := s.regions.set id {}, written := setRemove id s.written }))) ∧
  (∀ (s : State) (id : RegionId) (d : Deadline), s.regions[id].ship.ageDeadline = some d →
      (s.regions[id].cond ≠ .absent → s.regions[id].fields.kind = .mirror → s.regions[id].ship.running = false →
        s.regions[id].ship.entries ≠ [] → d.reached s.now = true →
        exec (.shipAgeExpiry id) s = .next { s with
          fillLine := s.fillLine ++ [id]
          regions := s.regions.set id { s.regions[id] with ship := { s.regions[id].ship with running := true } } }) ∧
      (d.reached s.now = false ∨ s.regions[id].ship.running = true → exec (.shipAgeExpiry id) s = .next s))

/-- MIRROR_PUT and MIRROR_GET (R115, R116): a range inside one ACTIVE MIRROR region is written whole, every other byte unchanged and
nothing marked, or copied into the reply; with a transfer in flight the work waits (log entry 17). An address above 0xFFFFFF is refused
RANGE; a range inside one ACTIVE CARD region, or inside one extent held by a DROPPING entry, its own or its successor's, STATE; any
other, one partly in no region, across two, or past 0xFFFFFF among them, RANGE. -/
def Obligations.MirrorPutAndGetReachTheStore : Prop :=
  ∀ (s : State) (h : Hdr) (addr : Nat) (bs : List Byte), Served s h → StoreOk s → 1 ≤ bs.length → bs.length ≤ 1016 →
    (0xFFFFFF < addr →
      exec (.mirrorPut h addr bs) s = .next (s.answered h 0x23 .range .empty) ∧
      exec (.mirrorGet h addr bs.length) s = .next (s.answered h 0x24 .range .empty)) ∧
    (let inside : RegionFields → Prop := fun f => f.base ≤ addr ∧ addr + bs.length ≤ f.base + f.length
      let mirrored : Prop := ∃ id : RegionId, s.regions[id].cond = .active ∧ s.regions[id].fields.kind = .mirror ∧
        inside s.regions[id].fields
      let barred : Prop := ∃ id : RegionId,
        (s.regions[id].cond = .active ∧ s.regions[id].fields.kind = .card ∧ inside s.regions[id].fields) ∨
        (s.regions[id].cond = .dropping ∧
          (inside s.regions[id].fields ∨ ∃ f, s.regions[id].successor = some f ∧ inside f))
      addr ≤ 0xFFFFFF → ¬ mirrored →
        (barred → exec (.mirrorPut h addr bs) s = .next (s.answered h 0x23 .state .empty) ∧
          exec (.mirrorGet h addr bs.length) s = .next (s.answered h 0x24 .state .empty)) ∧
        (¬ barred → exec (.mirrorPut h addr bs) s = .next (s.answered h 0x23 .range .empty) ∧
          exec (.mirrorGet h addr bs.length) s = .next (s.answered h 0x24 .range .empty))) ∧
    (∀ id : RegionId, addr ≤ 0xFFFFFF → s.regions[id].cond = .active → s.regions[id].fields.kind = .mirror →
      s.regions[id].fields.base ≤ addr →
      addr + bs.length ≤ s.regions[id].fields.base + s.regions[id].fields.length →
      (s.transferring = false →
        (∃ m : List Host.Cell, exec (.mirrorPut h addr bs) s = .next { s.answered h 0x23 .ok .empty with store := m } ∧
          ∀ a : Nat, Memory.read m a =
            if ha : addr ≤ a ∧ a < addr + bs.length then bs[a - addr]'(by omega) else Memory.read s.store a) ∧
        exec (.mirrorGet h addr bs.length) s = .next (s.answered h 0x24 .ok
          (.bytes ((List.range bs.length).map fun i => Memory.read s.store (addr + i))))) ∧
      (s.transferring = true →
        exec (.mirrorPut h addr bs) s = .next { s with
          link := s.link.taken s.now h.more
          storeWaits := s.storeWaits ++ [.put addr bs (some ⟨0x23, h.tag, .empty⟩)] } ∧
        exec (.mirrorGet h addr bs.length) s = .next { s with
          link := s.link.taken s.now h.more
          storeWaits := s.storeWaits ++ [.get addr bs.length (some ⟨0x24, h.tag, .empty⟩)] }))

/-- MASTER_CYCLE (R12, R118 to R120, R124, R131, R135): a read in an ACTIVE MIRROR region that admits masters is served from the store
and changes nothing else; a write stores its byte or word, joins the region to the written set, leaves every other byte, marks the
bytes in the region's ship queue, and begins a pass there if none runs and dirty_total has come to the threshold or the region is
trickling; a CARD region is met with silence; an OPEN address, or a region that admits no master, is met with silence and reported
once in the grant, or counted in a notice still held; with no master on the bus, or from a slot whose switches are open, the command does nothing; a word at an odd
address is no cycle (log entry 28). The high eight lines of a byte read's answer, which R119 does not give, are 0x00: the model's choice
(log entry 38). -/
def Obligations.MasterCyclesAreDecoded : Prop :=
  ∀ (s : State) (i : SlotId) (c : ChanId) (a : BitVec 24) (data : Half), StoreOk s →
    (s.arb.owner.isMaster = false → ∀ word write : Bool, exec (.masterCycle ⟨i, a⟩ word write data) s = .next s) ∧
    (s.slots[i].closed = false → ∀ word write : Bool, exec (.masterCycle ⟨i, a⟩ word write data) s = .next s) ∧
    (s.arb.owner = .dma c true → s.slots[i].closed = true →
      (a.toNat % 2 = 1 → ∀ write : Bool, exec (.masterCycle ⟨i, a⟩ true write data) s = .fault .oddMasterWord) ∧
      (∀ id : RegionId, s.regionAt a.toNat = some id → s.regions[id].fields.kind = .mirror →
        s.regions[id].fields.master = true →
        exec (.masterCycle ⟨i, a⟩ false false data) s = .next { s with
          lastMaster := some ⟨true, some ((Memory.read s.store a.toNat).zeroExtend 16)⟩ } ∧
        (a.toNat % 2 = 0 → exec (.masterCycle ⟨i, a⟩ true false data) s = .next { s with
          lastMaster := some ⟨true, some
            ((Memory.read s.store (a.toNat + 1)).zeroExtend 16 <<< 8 ||| (Memory.read s.store a.toNat).zeroExtend 16)⟩ }) ∧
        ((∀ r : RegionId, s.regions[r].successor = none) →
          (∃ t : State, exec (.masterCycle ⟨i, a⟩ false true data) s = .next t ∧ t.written = setInsert id s.written ∧
            t.kept = { s with lastMaster := some ⟨true, none⟩ }.kept ∧
            (∀ d : ChanId, t.chans[d].program = s.chans[d].program) ∧ t.arb = s.arb ∧
            (∀ b : Nat, Memory.read t.store b = if b = a.toNat then lowByte data else Memory.read s.store b)) ∧
          (a.toNat % 2 = 0 → ∃ t : State, exec (.masterCycle ⟨i, a⟩ true true data) s = .next t ∧
            t.written = setInsert id s.written ∧ t.kept = { s with lastMaster := some ⟨true, none⟩ }.kept ∧
            (∀ d : ChanId, t.chans[d].program = s.chans[d].program) ∧ t.arb = s.arb ∧
            (∀ b : Nat, Memory.read t.store b = if b = a.toNat then lowByte data
              else if b = a.toNat + 1 then highByte data else Memory.read s.store b))) ∧
        (∀ word : Bool, (word = true → a.toNat % 2 = 0) →
          let g := s.regions[id]
          let off := a.toNat - g.fields.base
          let one := g.ship.mark (g.fields.age.getD 0) s.now off
          let q := if word = true then one.mark (g.fields.age.getD 0) s.now (off + 1) else one
          let trickling : Prop := ∃ (d : ChanId) (l : LineId), s.chans[d].kind = .fill ∧ s.lines[l].linked = some d ∧
            s.lines[l].level = true ∧ g.fields.base ≤ s.chans[d].lastSystemAddress ∧
            s.chans[d].lastSystemAddress < g.fields.base + g.fields.length
          let ships : Prop := trickling ∨ ∃ n, g.fields.threshold = some n ∧ n ≤ q.dirtyTotal
          ∃ t : State, exec (.masterCycle ⟨i, a⟩ word true data) s = .next t ∧ t.link = s.link ∧
            t.regions[id].ship.entries = q.entries ∧ t.regions[id].ship.dirtyTotal = q.dirtyTotal ∧
            t.regions[id].ship.ageDeadline = q.ageDeadline ∧ t.regions[id].ship.waiters = g.ship.waiters ∧
            (t.regions[id].ship.trickling = true ↔ trickling) ∧
            (t.regions[id].ship.running = true ↔ g.ship.running = true ∨ ships) ∧
            (g.ship.running = false → ships → id ∈ t.fillLine))) ∧
      (∀ word write : Bool, (word = true → a.toNat % 2 = 0) →
        let silent : State := { s with lastMaster := some ⟨false, none⟩ }
        let reported : OpenDetail → Prop := fun detail =>
          (s.openSent = false → s.heldOpen[c] = none → exec (.masterCycle ⟨i, a⟩ word write data) s = .next { silent with
            openSent := true
            heldOpen := s.heldOpen.set c (some ⟨s.arb.grantTime, a.toNat, write, detail, s.now, 0⟩) }) ∧
          (∀ n : OpenNotice, s.openSent = false → s.heldOpen[c] = some n →
            exec (.masterCycle ⟨i, a⟩ word write data) s = .next { silent with
              openSent := true
              heldOpen := s.heldOpen.set c (some { n with
                repeats := if n.repeats < 255 then n.repeats + 1 else 255 }) }) ∧
          (s.openSent = true → exec (.masterCycle ⟨i, a⟩ word write data) s = .next silent)
        (s.regionAt a.toNat = none → reported .openAddress) ∧
        ∀ id : RegionId, s.regionAt a.toNat = some id →
          (s.regions[id].fields.kind = .card → exec (.masterCycle ⟨i, a⟩ word write data) s = .next silent) ∧
          (s.regions[id].fields.kind = .mirror → s.regions[id].fields.master = false → reported .denied)))

/-- The packing of a FILL notice (R127) and the payloads the manual lays out (11.8): entries are taken whole from the head of the
queue, in order, the head always; the offsets the pieces cover are, in order, granule × 64 + lo to granule × 64 + hi of the entries
taken; an entry extends the last piece exactly where the entry before it ends its granule and it starts the next one; the payload of
2 bytes and 6 more for each piece stays within 1,024, and the first entry left is one that does not fit. The payload of a FILL notice
is its head and, for each piece, 6 bytes and the piece's bytes; of an INTERRUPT notice, 6 bytes and 6 for each line. -/
def Obligations.NoticesFitTheirPayload : Prop :=
  (∀ es : List ShipEntry, (∀ e ∈ es, e.lo ≤ e.hi ∧ e.hi < 64) →
    let p := packEntries 2 none [] es
    let joins : ShipEntry → ShipEntry → Bool := fun x y => x.hi = 63 && y.granule = x.granule + 1 && y.lo = 0
    let size := 2 + (p.1.map fun x => 6 + x.len).sum
    ∃ taken : List ShipEntry, es = taken ++ p.2 ∧ size ≤ 1024 ∧
      (p.1.map Span.len).sum = (taken.map ShipEntry.span).sum ∧ (es ≠ [] → taken ≠ []) ∧
      (p.1.flatMap fun x => (List.range x.len).map (x.off + ·)) =
        taken.flatMap (fun e => (List.range (e.hi - e.lo + 1)).map (e.granule * 64 + e.lo + ·)) ∧
      p.1.length + ((taken.zip taken.tail).countP fun xy => joins xy.1 xy.2) = taken.length ∧
      (∀ (x y : ShipEntry) (rest : List ShipEntry), p.2 = y :: rest → taken.getLast? = some x →
        1024 < size + (if joins x y = true then 0 else 6) + (y.hi - y.lo + 1))) ∧
  (∀ (id : RegionId) (ps : List Piece), (fillPayload id ps).length = 2 + (ps.map fun p => 6 + p.bytes.length).sum) ∧
  (∀ (o : Origin) (time : Time) (ls : List LineReport), (interruptPayload o time ls).length = 6 + 6 * ls.length)

/-- FILL_PASS_ADMIT (R125, R127, R128, R130; R111, R113, R114): with room, no transfer in flight and a pass the first claimant, its
FILL notice joins the report queue with the bytes the store holds now, and what was taken has left the queue, dirty_total and the
age deadline with it. With entries left the region joins the tail of the fill line. With none left the pass is over: the channels
and the relay that waited for it are told; the flush requests are answered; a DROPPING region is removed, or its successor placed
with its bytes zeroed, and the requests that waited for that answered after them. With a transfer in flight nothing happens: that the
pass waits whole is the model's choice (log entry 16). -/
def Obligations.AdmittedPassesShip : Prop :=
  ∀ (s : State) (id : RegionId) (rest : List RegionId), s.link.canAdmit = true → s.firstClaimant = some (.fill id) →
    s.fillLine = id :: rest →
    (s.transferring = true → exec .fillPassAdmit s = .next s) ∧
    (s.transferring = false →
      let g := s.regions[id]
      let base := g.fields.base
      let p := packEntries 2 none [] g.ship.entries
      let taken := g.ship.entries.take (g.ship.entries.length - p.2.length)
      let q : ShipQueue := { g.ship with
        entries := p.2, dirtyTotal := g.ship.dirtyTotal - (taken.map ShipEntry.span).sum
        ageDeadline := p.2.head?.map fun x => ⟨x.joined, g.fields.age.getD 0 * 1000⟩ }
      let w := g.ship.waiters
      let flushes : List Report := g.flushWaiters.map fun tag => .reply 0xA2 tag .ok .empty
      let drops : List Report := g.dropWaiters.map fun x =>
        if x.reshape = true then .reply 0xA0 x.tag .ok (.region id (g.successor.getD {})) else .reply 0xA1 x.tag .ok .empty
      ∃ (t : State) (more : List Report), exec .fillPassAdmit s = .next t ∧ State.Apart s t ∧ t.lines = s.lines ∧
        t.arb = s.arb ∧ t.link.reports = s.link.reports ++ .notice (.fill id (p.1.map fun x =>
          ⟨base + x.off, (List.range x.len).map fun i => Memory.read s.store (base + x.off + i)⟩)) :: more ∧
        (∀ j : RegionId, j ≠ id → t.regions[j] = s.regions[j]) ∧
        (p.2 ≠ [] → more = [] ∧ t.fillLine = rest ++ [id] ∧ t.regions[id] = { g with ship := q } ∧ t.chans = s.chans ∧
          t.relay = s.relay) ∧
        (p.2 = [] → t.fillLine = rest ∧
          (∀ c : ChanId, t.chans[c].awaitedRegions =
            if c ∈ w.chans then setRemove id s.chans[c].awaitedRegions else s.chans[c].awaitedRegions) ∧
          t.relay = (if w.relay = true then
            let left := setRemove id s.relay.awaited
            { s.relay with
              awaited := left, hand := if s.relay.hand = .flushing ∧ left = [] then .claiming else s.relay.hand }
            else s.relay) ∧
          (w.map = false → more = [] ∧
            t.regions[id] = { g with ship := { q with running := false, waiters := {} } }) ∧
          (w.map = true → g.cond ≠ .dropping → (g.flushWaiters.length ≤ s.link.reservations → more = flushes) ∧
            t.regions[id] = { g with flushWaiters := [], ship := { q with running := false, waiters := {} } }) ∧
          (w.map = true → g.cond = .dropping →
            t.written = setRemove id s.written ∧
            (g.flushWaiters.length + g.dropWaiters.length ≤ s.link.reservations → more = flushes ++ drops) ∧
            (g.successor = none → t.regions[id] = {} ∧ t.store = s.store) ∧
            (∀ f : RegionFields, g.successor = some f → t.regions[id].cond = .active ∧ t.regions[id].fields = f ∧
              t.regions[id].successor = none ∧ t.regions[id].dropWaiters = [] ∧ t.regions[id].flushWaiters = [] ∧
              t.regions[id].ship.entries = [] ∧ t.regions[id].ship.running = false ∧
              (StoreOk s → ∀ a : Nat, Memory.read t.store a =
                if f.kind = .mirror ∧ f.base ≤ a ∧ a < f.base + f.length then 0 else Memory.read s.store a)))))

/-! ### The interrupt relay -/

/-- INTERRUPT_LEVEL_CHANGE (R12, R134, R135, R140 to R142): a rise a connected card makes is latched as an edge, masked or not: pending
with the present time, or merged where it was pending; a card that raises a line already asserted, or one whose switches are open,
makes no edge; a fall latches nothing, and the line stays asserted while another connected slot asserts it; the relay makes its check
after each. A MIRROR region trickles
exactly while it holds the last_system_address of a FILL channel to which an asserted line is linked, and one that does so with
entries queued and no pass begins one. Shown with every level as recorded before. -/
def Obligations.EdgesAreLatched : Prop :=
  ∀ (s : State) (i : SlotId) (l : LineId), (∀ m : LineId, s.lineLevel m = s.lines[m].level) →
    let trickles : State → RegionId → Prop := fun t id => t.regions[id].cond ≠ .absent ∧ t.regions[id].fields.kind = .mirror ∧
      ∃ (c : ChanId) (m : LineId), t.chans[c].kind = .fill ∧ t.lines[m].linked = some c ∧ t.lines[m].level = true ∧
        t.regions[id].fields.base ≤ t.chans[c].lastSystemAddress ∧
        t.chans[c].lastSystemAddress < t.regions[id].fields.base + t.regions[id].fields.length
    let shipped : State → Prop := fun t => ∀ id : RegionId, (t.regions[id].ship.trickling = true ↔ trickles t id) ∧
      (trickles t id → s.regions[id].ship.entries ≠ [] → t.regions[id].ship.running = true ∧
        (s.regions[id].ship.running = false → id ∈ t.fillLine))
    (s.slots[i].closed = true → s.lines[l].level = false →
      ∃ t : State, exec (.interruptLevelChange i l true) s = .next t ∧
        State.Apart { s with drives := s.drives.set i { s.drives[i] with lines := setInsert l s.drives[i].lines } } t ∧
        t.arb = s.arb ∧ t.lines[l].level = true ∧ t.lines[l].pending = true ∧ t.lines[l].masked = s.lines[l].masked ∧
        t.lines[l].inService = s.lines[l].inService ∧ t.lines[l].linked = s.lines[l].linked ∧
        (s.lines[l].pending = false → t.lines[l].edgeTime = s.now ∧ t.lines[l].merged = s.lines[l].merged) ∧
        (s.lines[l].pending = true → t.lines[l].edgeTime = s.lines[l].edgeTime ∧ t.lines[l].merged = true) ∧
        (∀ m : LineId, m ≠ l → { t.lines[m] with chosen := false } = { s.lines[m] with chosen := false }) ∧
        shipped t ∧
        State.RelayChecked { s with lines := s.lines.set l (if s.lines[l].pending = true
          then { s.lines[l] with level := true, merged := true }
          else { s.lines[l] with level := true, pending := true, edgeTime := s.now }) } t) ∧
    (s.slots[i].closed = false ∨ s.lines[l].level = true →
      ∃ t : State, exec (.interruptLevelChange i l true) s = .next t ∧
        State.Apart { s with drives := s.drives.set i { s.drives[i] with lines := setInsert l s.drives[i].lines } } t ∧
        t.arb = s.arb ∧ (∀ m : LineId, { t.lines[m] with chosen := false } = { s.lines[m] with chosen := false }) ∧
        shipped t ∧ State.RelayChecked s t) ∧
    (∃ t : State, exec (.interruptLevelChange i l false) s = .next t ∧
      State.Apart { s with drives := s.drives.set i { s.drives[i] with lines := setRemove l s.drives[i].lines } } t ∧
      t.arb = s.arb ∧ shipped t ∧
      let after : Line := { s.lines[l] with
        level := decide (∃ j : SlotId, j ≠ i ∧ s.slots[j].closed = true ∧ l ∈ s.drives[j].lines) }
      (∀ m : LineId, { t.lines[m] with chosen := false } =
        { (if m = l then after else s.lines[m]) with chosen := false }) ∧
      State.RelayChecked { s with lines := s.lines.set l after } t)

/-- HOLDOFF_EXPIRY (R142, R143): every line eligible at that moment is chosen into one notice with origin HOLDOFF, which demands the
pass of each linked channel's region and waits for those with bytes to ship; with none eligible the hand is EMPTY; before the
deadline nothing happens. -/
def Obligations.HoldoffChoosesEveryEligibleLine : Prop :=
  ∀ (s : State) (d : Deadline), s.relay.holdoffAt = some d → s.relay.hand = .holdoff →
    (d.reached s.now = true → s.eligibleLines = [] → exec .holdoffExpiry s = .next { s with
      relay := { s.relay with hand := .empty, holdoffAt := none } }) ∧
    (d.reached s.now = true → s.eligibleLines ≠ [] → ∃ t : State, exec .holdoffExpiry s = .next t ∧
      State.Apart s t ∧ t.arb = s.arb ∧ s.NoticeFormed s.eligibleLines .holdoff t ∧ t.relay.holdoffAt = none ∧
      t.relay.mode = s.relay.mode ∧ t.relay.holdoff = s.relay.holdoff) ∧
    (d.reached s.now = false → exec .holdoffExpiry s = .next s)

/-- INT_SET, LINE_SET and INT_DONE (R139, R141, R142, R144, R146 to R148): the mode and the clamped holdoff; a line's mask and link, its
pending and merged kept, and out of the notice in hand when it is masked, which is discarded with its last line; in_service cleared
on the lines named. The replies carry the settings, the line's record after the change (before the relay's check, log entry 19), and
the lines named that were not in service, in priority order; that LINE_SET's carries the line's number is the model's choice (log
entry 46). After each the relay makes its check (R143 for a notice it forms). A number that names no line, or
a link to no channel, is refused RANGE. -/
def Obligations.RelayRequestsSetTheirFields : Prop :=
  ∀ (s : State) (h : Hdr), Served s h →
    (∀ hold : Nat, exec (.intSet h none hold) s = .next (s.answered h 0x28 .range .empty)) ∧
    (∀ (m : RelayMode) (hold : Nat), ∃ (t : State) (more : List Report), exec (.intSet h (some m) hold) s = .next t ∧
      State.Apart s t ∧ t.arb = s.arb ∧ t.relay.mode = m ∧ t.relay.holdoff = min hold 200 ∧
      t.link.reports = s.link.reports ++ .reply 0xA8 h.tag .ok (.relaySettings m (min hold 200)) :: more ∧
      State.RelayChecked { s with relay := { s.relay with mode := m, holdoff := min hold 200 } } t ∧
      (∀ n : LineId, { t.lines[n] with chosen := false } = { s.lines[n] with chosen := false })) ∧
    (∀ (n : Nat) (masked link : Nat), (n ∉ [3, 4, 5, 6, 7, 9, 10, 11, 12, 14, 15] ∨ link = 4 ∨ (8 ≤ link ∧ link ≠ 0xFF)) →
      exec (.lineSet h n masked link) s = .next (s.answered h 0x29 .range .empty)) ∧
    (∀ (l : LineId) (masked : Nat) (link : Option ChanId), ∃ (t : State) (more : List Report),
      exec (.lineSet h (lineNumber l) masked (match link with
        | some c => chanNumber c
        | none => 0xFF)) s = .next t ∧ State.Apart s t ∧ t.arb = s.arb ∧
      (masked ≠ 0 → t.lines[l].chosen = false) ∧
      (∀ n : LineId, { t.lines[n] with chosen := false } =
        if n = l then { s.lines[l] with chosen := false, linked := link, masked := masked ≠ 0 }
        else { s.lines[n] with chosen := false }) ∧
      let set : Line := { s.lines[l] with
        linked := link, masked := masked ≠ 0, chosen := s.lines[l].chosen && decide (masked = 0) }
      let u : State := { s with lines := s.lines.set l set }
      let emptied : Prop := masked ≠ 0 ∧ s.lines[l].chosen = true ∧ (∀ n : LineId, n ≠ l → s.lines[n].chosen = false) ∧
        (s.relay.hand = .flushing ∨ s.relay.hand = .claiming)
      t.link.reports = s.link.reports ++ .reply 0xA9 h.tag .ok (.line (lineNumber l) set) :: more ∧
      (¬ emptied → State.RelayChecked u t) ∧
      (emptied → State.RelayChecked { u with relay := { s.relay with hand := .empty, awaited := [] } } t)) ∧
    (∀ ns : List Nat, 1 ≤ ns.length → ns.length ≤ 11 → (∃ n ∈ ns, n ∉ [3, 4, 5, 6, 7, 9, 10, 11, 12, 14, 15]) →
      exec (.intDone h ns) s = .next (s.answered h 0x2A .range .empty)) ∧
    (∀ ls : List LineId, 1 ≤ ls.length → ls.length ≤ 11 → ∃ (t : State) (more : List Report),
      exec (.intDone h (ls.map lineNumber)) s = .next t ∧ State.Apart s t ∧ t.arb = s.arb ∧
      t.link.reports = s.link.reports ++ .reply 0xAA h.tag .ok (.lines (((List.finRange 11).filter fun n =>
        decide (n ∈ ls) && !s.lines[n].inService).map lineNumber)) :: more ∧
      (∀ us : Vector Line 11, (∀ n : LineId, us[n] =
          { s.lines[n] with inService := s.lines[n].inService && !decide (n ∈ ls) }) →
        State.RelayChecked { s with lines := us } t) ∧
      (∀ n : LineId, { t.lines[n] with chosen := false } =
        { s.lines[n] with chosen := false, inService := s.lines[n].inService && !decide (n ∈ ls) }))

/-! ### Timers -/

/-- TIMER_LOAD (R154): RANGE for a mode or count outside its set, BUSY for a PERIODIC timer with its gate on; otherwise counter and
holding take the count, with the mode and notify. TIMER_GATE (R155): the gate and the flags that are cleared. TIMER_BATCH (R156): a
batch is refused RANGE for an operation or address it may not hold, BUSY while its run is in the lane, and otherwise replaces the
stored one, none for an empty list. Each reply carries the record, or the number stored; that
the record comes with the timer's number is the model's choice (log entry 46). -/
def Obligations.TimerRequestsSetTheRecord : Prop :=
  ∀ (s : State) (h : Hdr) (i : TimerId), Served s h →
    (∀ count notify : Nat, exec (.timerLoad h i.val count none notify) s = .next (s.answered h 0x30 .range .empty)) ∧
    (∀ (count notify : Nat) (m : TimerMode), exec (.timerLoad h i.val count (some m) notify) s =
      if 16777215 < count then .next (s.answered h 0x30 .range .empty)
      else if s.timers[i].gate = true ∧ s.timers[i].mode = .periodic then .next (s.answered h 0x30 .busy .empty)
      else
        let r : Timer := { s.timers[i] with
          counter := count, holding := count, mode := m, notify := notify ≠ 0, due := false }
        .next { s.answered h 0x30 .ok (.timer i.val { r with heldNotice := none } (s.runState i) r.heldNotice.isSome) with
          timers := s.timers.set i r }) ∧
    (∀ gate cf co : Nat,
      let r : Timer := { s.timers[i] with
        gate := gate ≠ 0, due := s.timers[i].due && decide (gate ≠ 0)
        fired := if cf ≠ 0 then false else s.timers[i].fired
        overrun := if co ≠ 0 then false else s.timers[i].overrun }
      exec (.timerGate h i.val gate cf co) s =
        .next { s.answered h 0x31 .ok
          (.timer i.val { r with heldNotice := none, due := false } (s.runState i) r.heldNotice.isSome) with
          timers := s.timers.set i r }) ∧
    (∀ es : List RawEntry, es.length ≤ 16 →
      exec (.timerBatch h i.val es) s =
        if (∃ e ∈ es, timedOpOk e = false ∨ addressOk e = false) then .next (s.answered h 0x32 .range .empty)
        else if s.runState i ≠ .absent then .next (s.answered h 0x32 .busy .empty)
        else .next { s.answered h 0x32 .ok (.stored es.length) with
          timers := s.timers.set i { s.timers[i] with batch := if es = [] then none else some es } })

/-- TIMER_EXPIRY (R153, R159): fired is set and expiries counted; PERIODIC reloads, ONE_SHOT stops with its gate off; without a
batch a notice is produced if notify is yes, in place of one still held, which it counts; with one a run joins the lane, its claim
granted at once on an idle bus (R40), or overrun is set when a run is still there. -/
def Obligations.TimerExpiriesQueueARun : Prop :=
  ∀ (s : State) (i : TimerId),
    (s.timers[i].gate = false ∨ s.timers[i].due = false → exec (.timerExpiry i) s = .next s) ∧
    (s.timers[i].gate = true → s.timers[i].due = true →
      let base : Timer := { s.timers[i] with
        fired := true, expiries := if s.timers[i].expiries < 255 then s.timers[i].expiries + 1 else 255, due := false
        counter := match s.timers[i].mode with
          | .periodic => s.timers[i].holding
          | .oneShot => 0
        gate := match s.timers[i].mode with
          | .periodic => true
          | .oneShot => false }
      (s.timers[i].batch = none → s.timers[i].notify = false →
        exec (.timerExpiry i) s = .next { s with timers := s.timers.set i base }) ∧
      (s.timers[i].batch = none → s.timers[i].notify = true → s.timers[i].heldNotice = none →
        exec (.timerExpiry i) s = .next { s with timers := s.timers.set i { base with
          expiries := 0, heldNotice := some ⟨s.now, base.overrun, base.expiries, none, 0⟩ } }) ∧
      (∀ n : TimerNotice, s.timers[i].batch = none → s.timers[i].notify = true → s.timers[i].heldNotice = some n →
        exec (.timerExpiry i) s = .next { s with timers := s.timers.set i { base with
          expiries := 0
          heldNotice := some ⟨s.now, base.overrun, base.expiries, none,
            if n.replaced < 255 then n.replaced + 1 else 255⟩ } }) ∧
      (s.timers[i].batch ≠ none → s.runState i ≠ .absent →
        exec (.timerExpiry i) s = .next { s with timers := s.timers.set i { base with overrun := true } }) ∧
      (s.timers[i].batch ≠ none → s.runState i = .absent →
        exec (.timerExpiry i) s = .next (State.claimed { s with
          timers := s.timers.set i base, lane := s.lane ++ [{ timer := i, expiry := s.now }] })))

/-- TIMED_ENTRY_END (R158, R159): an IN, OUT, MRD or MWR of either width whose access has ended, with what the access hands back (R25 to
R30): a read's value joins the results; ended OK the run goes on at its next entry, and the last one ends it; a TIMEOUT or ALIGN
ends it at its index. The run that ends leaves the lane, and its timer's notice carries what it did if notify is yes then (log entry
41), in place of one still held, which it counts; with notify no there is none. -/
def Obligations.TimedEntriesEnd : Prop :=
  ∀ (s : State) (i : TimerId) (a : Access) (r : Run) (rest : List Run) (es : List RawEntry) (en : RawEntry) (op : Op)
    (e : BusEnd) (x : AccessEnd),
    s.inFlight = .access a → s.arb.owner = .timed i → s.orphan = false → s.lane = r :: rest → r.timer = i →
    s.timers[i].batch = some es → es[r.next]? = some en → opOf en.op = some op → s.accessEnd a e = some x →
    r.discard = false →
    let results : List EntryResult :=
      if op = .out8 ∨ op = .out16 ∨ op = .mwr8 ∨ op = .mwr16 then r.results else r.results ++ [.word x.value]
    let ends : Status → Nat → Nat → State → Prop := fun st done stop t =>
      t.lane.map Run.timer = rest.map Run.timer ∧
      State.Apart { s with timers := if s.timers[i].notify = true then s.timers.set i { s.timers[i] with
          expiries := 0
          heldNotice := some ⟨r.expiry, s.timers[i].overrun, s.timers[i].expiries, some ⟨st, done, stop, results⟩,
            match s.timers[i].heldNotice with
            | some n => if n.replaced < 255 then n.replaced + 1 else 255
            | none => 0⟩ } else s.timers } t
    ∃ t : State, exec (.timedEntryEnd e) s = .next t ∧ t.lines = s.lines ∧ t.lastClocks = x.clocks.getD s.lastClocks ∧
      (x.status = .ok → r.next + 1 < es.length → State.Apart s t ∧
        ∃ r' rest', t.lane = r' :: rest' ∧ r'.timer = i ∧ r'.next = r.next + 1 ∧ r'.done = r.done + 1 ∧
          r'.expiry = r.expiry ∧ r'.results = results) ∧
      (x.status = .ok → r.next + 1 = es.length → r.status = .ok → ends .ok (r.done + 1) 255 t) ∧
      (x.status ≠ .ok → ends x.status r.done r.next t)

/-! ### Records as bytes -/

/-- A record header of six bytes is read back as it was written, with what follows it (11.7, "Record header"); any list of batch
entries, every field at every value, is read back from its bytes, twelve to an entry (11.8, "Batch entry"). -/
def Obligations.RecordsReadBack : Prop :=
  (∀ (x : Header) (rest : List Byte), Header.decode (x.encode ++ rest) = some (x, rest)) ∧
  (∀ (es : List RawEntry) (n : Nat), es.length ≤ n →
    decodeEntries n (encodeEntries es) = some es ∧ (encodeEntries es).length = 12 * es.length)

/-! ### Laws that every step keeps -/

/-- Every law holds right after power-on. -/
def Obligations.ResetKeepsTheLaws : Prop := Inv State.reset ∧ ShipOk State.reset ∧ PassesOk State.reset ∧ RegionsOk State.reset

/-- In every step the mirror store (R105) keeps its canonical form, which is the model's (log entry 5). -/
def Obligations.EveryStepKeepsTheStoreCanonical : Prop :=
  ∀ s t : State, StoreOk s → step s = .next t → StoreOk t

/-- The report queue's law (R164): records and reservations together never pass the 32 entries. -/
def Obligations.EveryStepKeepsTheReportRoom : Prop :=
  ∀ s t : State, RoomOk s → step s = .next t → RoomOk t

/-- R1: in every step each slot's power switch, isolation switches and reset line stand as its state says. -/
def Obligations.EveryStepKeepsTheSlotTable : Prop :=
  ∀ s t : State, SlotsOk s → step s = .next t → SlotsOk t

/-- R31, R32, R35, R50, R51, R61: in every step owed stays within 0 to 4 and row within 0 to 255; at most 24 port rules, no port in
two; the cycle queue holds at most 8 batches; the bus settings stay within their ranges. -/
def Obligations.EveryStepKeepsTheBusLaws : Prop :=
  ∀ s t : State, step s = .next t →
    (RefreshOk s → RefreshOk t) ∧ (RulesOk s → RulesOk t) ∧ (QueueOk s → QueueOk t) ∧ (BusOk s → BusOk t)

/-- R104: no address lies in two extents held by different entries of the region table. -/
def Obligations.EveryStepKeepsRegionsApart : Prop :=
  ∀ s t : State, RegionsOk s → step s = .next t → RegionsOk t

/-- R124, R125: a granule is queued at most once, and dirty_total is the sum of the spans queued. R126, R129, R130, R136: the fill line
holds the running passes, and whoever awaits a pass awaits one that runs and will tell it of its end (PassesOk), so that a notice
that waits is placed after the bytes it waits for. -/
def Obligations.EveryStepKeepsTheDirtyTotals : Prop :=
  ∀ s t : State, step s = .next t → (ShipOk s → ShipOk t) ∧ (PassesOk s → PassesOk t)

/-! ### Tenures -/

/-- A tenure at the end of a transfer (R44 to R46, R79, R80, R92 to R95), shown for one that ended OK, with no terminal count, match or
pending mask and no region DROPPING. It goes on, under BLOCK or under DEMAND with the request asserted, below its cap and with no
urgent refresh: the next transfer starts at the next address with the settings in force, or its address faults, which masks the
channel FAULT with no cycle. Otherwise it ends, and the next grant is made: at owed 4 refresh preempts; a tenure that reached its
cap, one transfer under SINGLE, leaves the bus to the first lower class waiting, once; one that ended early does not, nor is the
channel kept from a new tenure when nobody waits. A region lookup finds the ACTIVE region that contains the address: OPEN with none,
DENIED to a channel it does not admit. A master's tenure ends when its request falls (R48, R81, R121): the channel is READY, or
MASKED with its pending reason, each region written has its pass, and the bus is granted on. -/
def Obligations.TenuresGoOnAndEnd : Prop :=
  (∀ (s : State) (c : ChanId) (k : ChanKind) (a : Nat),
    (k = .verify → s.lookup c k a = .target .nothing) ∧
    (k ≠ .verify → (∀ r : RegionId, s.regions[r].cond = .active →
        ¬ (s.regions[r].fields.base ≤ a ∧ a < s.regions[r].fields.base + s.regions[r].fields.length)) →
      s.lookup c k a = .fault .openAddress) ∧
    (k ≠ .verify → RegionsOk s → ∀ r : RegionId, s.regions[r].cond = .active → s.regions[r].fields.base ≤ a →
      a < s.regions[r].fields.base + s.regions[r].fields.length →
      s.lookup c k a = if c ∈ s.regions[r].fields.access then
        .target (if s.regions[r].fields.kind = .mirror then .mirror r else .card) else .fault .denied)) ∧
  (∀ (s : State) (x : Transfer) (e : BusEnd), s.inFlight = .transfer x → s.orphan = false →
    s.arb.owner = .dma x.ch false → s.chans[x.ch].state = .serving → s.chans[x.ch].service ≠ .cascade →
    x.timedOut = false → s.readyHeld x.switched e = 0 → s.chans[x.ch].currentCount ≠ 0 → s.chans[x.ch].matchByte = none →
    s.chans[x.ch].maskPending = none → (∀ r : RegionId, s.regions[r].cond ≠ .dropping) →
    let c := x.ch
    let ch := s.chans[c]
    let next : Half := match ch.step with
      | .up => ch.currentAddress + 1
      | .down => ch.currentAddress - 1
    let ch' : Chan := { ch with
      currentAddress := next, currentCount := ch.currentCount - 1, lastSystemAddress := x.sysAddr }
    let a := systemAddress c ch.page next
    let goes : Prop := (ch.service = .block ∨ (ch.service = .demand ∧ ch.request = true)) ∧
      s.arb.burstCount + 1 < s.arb.burstCap ∧ s.arb.owed < 4
    let spent : Prop := ch.service = .single ∨ s.arb.burstCap ≤ s.arb.burstCount + 1
    ∃ t : State, exec (.transferEnd e) s = .next t ∧
      (goes → ∀ tg : Target, s.lookup c ch.kind a = .target tg → t.chans[c].state = .serving ∧
        t.arb = { s.arb with burstCount := s.arb.burstCount + 1 } ∧
        t.inFlight = .transfer (s.starting c ch' a tg t.store)) ∧
      (goes → ∀ d : FaultDetail, s.lookup c ch.kind a = .fault d →
        t.chans[c].Faulted s.now ch' d a ∧ t.chans[c].program = ch'.program ∧ t.arb.owner.isChan c = false) ∧
      (¬ goes → s.arb.owed = 4 → t.arb.owner = .refresh ∧
        t.inFlight = .refresh ⟨s.arb.row, s.bus.wait8mem, s.bus.clock⟩ ∧ (t.arb.yield = true ↔ s.arb.yield = true ∨
          (spent ∧ (s.timedClaims.isSome = true ∨ s.linkClaims = true ∨ s.censusClaims = true)))) ∧
      (¬ goes → spent → 1 ≤ s.arb.owed → s.arb.owed < 4 → t.arb.owner = .refresh ∧ t.arb.yield = false) ∧
      (¬ goes → spent → s.arb.owed = 0 →
        (∀ (r : Run) (rest : List Run), s.lane = r :: rest → r.step = .claiming → r.discard = false →
          s.runEntry r ≠ none → t.arb.owner = .timed r.timer ∧ t.arb.yield = false) ∧
        (s.timedClaims = none → ∀ (b : Batch) (rest : List Batch), s.queue = b :: rest → b.step = .claiming →
          b.discard = false → b.entry ≠ none → t.arb.owner = .link ∧ t.arb.yield = false) ∧
        (s.timedClaims = none → s.linkClaims = false → s.censusClaims = true →
          t.arb.owner = .census ∧ t.arb.yield = false)) ∧
      (¬ goes → s.arb.owed < 4 → s.arb.yield = false → (spent → s.lowerClaim = false) → ∀ d : ChanId,
        s.chans[d].state = .serving → (d = c → ch.request = true ∨ ch.service = .block) →
        (∀ d' : ChanId, d' < d → s.chans[d'].state ≠ .serving ∨ (d' = c ∧ ch.request = false ∧ ch.service ≠ .block)) →
        (s.chans[d].service = .cascade → t.arb.owner = .dma d true) ∧
        (s.chans[d].service ≠ .cascade → s.chans[d].kind = .verify →
          t.arb.owner = .dma d false ∧ t.arb.burstCount = 0 ∧ t.arb.burstCap = s.bus.burst))) ∧
  (∀ (s : State) (i : SlotId) (c : ChanId), s.arb.owner = .dma c true → s.chans[c].state = .serving →
    s.chans[c].request = true → (∀ d : ChanId, s.requestLevel d = s.chans[d].request) →
    (∀ j : SlotId, j ≠ i → s.slots[j].closed = true → c ∉ s.drives[j].requests) →
    ∃ t : State, exec (.requestLevelChange i c false) s = .next t ∧ t.arb.owner.isChan c = false ∧ t.written = [] ∧
      t.chans[c].request = false ∧ t.chans[c].program = s.chans[c].program ∧
      (s.chans[c].maskPending = none → t.chans[c].state = .ready) ∧
      (∀ r : MaskReason, s.chans[c].maskPending = some r → t.chans[c].state = .masked ∧
        t.chans[c].maskReason = some r ∧ t.chans[c].maskPending = none) ∧
      (∀ r ∈ s.written, s.regions[r].isMirror = true → s.regions[r].ship.entries ≠ [] →
        t.regions[r].ship.running = true ∧ (s.regions[r].ship.running = false → r ∈ t.fillLine)))
end

