-- ==== Sys2Proof/Laws/State.lean ====
section
/-! SUPPORT. One lemma per field of State for each update of one block: the field updated reads as the update gives it, every
other field reads as before. All by rfl, so that no later proof unfolds a record update. -/

namespace Sys2Proof.Machine

@[simp] theorem State.modSlot_now (s : State) (i : SlotId) (f : Slot → Slot) : (s.modSlot i f).now = s.now := rfl
@[simp] theorem State.modSlot_sampleAt (s : State) (i : SlotId) (f : Slot → Slot) :
    (s.modSlot i f).sampleAt = s.sampleAt := rfl
@[simp] theorem State.modSlot_drives (s : State) (i : SlotId) (f : Slot → Slot) :
    (s.modSlot i f).drives = s.drives := rfl
@[simp] theorem State.modSlot_bus (s : State) (i : SlotId) (f : Slot → Slot) : (s.modSlot i f).bus = s.bus := rfl
@[simp] theorem State.modSlot_rules (s : State) (i : SlotId) (f : Slot → Slot) : (s.modSlot i f).rules = s.rules := rfl
@[simp] theorem State.modSlot_queue (s : State) (i : SlotId) (f : Slot → Slot) : (s.modSlot i f).queue = s.queue := rfl
@[simp] theorem State.modSlot_cancelled (s : State) (i : SlotId) (f : Slot → Slot) :
    (s.modSlot i f).cancelled = s.cancelled := rfl
@[simp] theorem State.modSlot_lane (s : State) (i : SlotId) (f : Slot → Slot) : (s.modSlot i f).lane = s.lane := rfl
@[simp] theorem State.modSlot_census (s : State) (i : SlotId) (f : Slot → Slot) :
    (s.modSlot i f).census = s.census := rfl
@[simp] theorem State.modSlot_inFlight (s : State) (i : SlotId) (f : Slot → Slot) :
    (s.modSlot i f).inFlight = s.inFlight := rfl
@[simp] theorem State.modSlot_orphan (s : State) (i : SlotId) (f : Slot → Slot) :
    (s.modSlot i f).orphan = s.orphan := rfl
@[simp] theorem State.modSlot_lastClocks (s : State) (i : SlotId) (f : Slot → Slot) :
    (s.modSlot i f).lastClocks = s.lastClocks := rfl
@[simp] theorem State.modSlot_arb (s : State) (i : SlotId) (f : Slot → Slot) : (s.modSlot i f).arb = s.arb := rfl
@[simp] theorem State.modSlot_chans (s : State) (i : SlotId) (f : Slot → Slot) : (s.modSlot i f).chans = s.chans := rfl
@[simp] theorem State.modSlot_regions (s : State) (i : SlotId) (f : Slot → Slot) :
    (s.modSlot i f).regions = s.regions := rfl
@[simp] theorem State.modSlot_store (s : State) (i : SlotId) (f : Slot → Slot) : (s.modSlot i f).store = s.store := rfl
@[simp] theorem State.modSlot_storeWaits (s : State) (i : SlotId) (f : Slot → Slot) :
    (s.modSlot i f).storeWaits = s.storeWaits := rfl
@[simp] theorem State.modSlot_openSent (s : State) (i : SlotId) (f : Slot → Slot) :
    (s.modSlot i f).openSent = s.openSent := rfl
@[simp] theorem State.modSlot_written (s : State) (i : SlotId) (f : Slot → Slot) :
    (s.modSlot i f).written = s.written := rfl
@[simp] theorem State.modSlot_heldOpen (s : State) (i : SlotId) (f : Slot → Slot) :
    (s.modSlot i f).heldOpen = s.heldOpen := rfl
@[simp] theorem State.modSlot_lastMaster (s : State) (i : SlotId) (f : Slot → Slot) :
    (s.modSlot i f).lastMaster = s.lastMaster := rfl
@[simp] theorem State.modSlot_fillLine (s : State) (i : SlotId) (f : Slot → Slot) :
    (s.modSlot i f).fillLine = s.fillLine := rfl
@[simp] theorem State.modSlot_relay (s : State) (i : SlotId) (f : Slot → Slot) : (s.modSlot i f).relay = s.relay := rfl
@[simp] theorem State.modSlot_lines (s : State) (i : SlotId) (f : Slot → Slot) : (s.modSlot i f).lines = s.lines := rfl
@[simp] theorem State.modSlot_timers (s : State) (i : SlotId) (f : Slot → Slot) :
    (s.modSlot i f).timers = s.timers := rfl
@[simp] theorem State.modSlot_link (s : State) (i : SlotId) (f : Slot → Slot) : (s.modSlot i f).link = s.link := rfl
@[simp] theorem State.modSlot_free (s : State) (i : SlotId) (f : Slot → Slot) : (s.modSlot i f).free = s.free := rfl
@[simp] theorem State.modSlot_pending (s : State) (i : SlotId) (f : Slot → Slot) :
    (s.modSlot i f).pending = s.pending := rfl

@[simp] theorem State.modDrive_now (s : State) (i : SlotId) (f : Drive → Drive) : (s.modDrive i f).now = s.now := rfl
@[simp] theorem State.modDrive_slots (s : State) (i : SlotId) (f : Drive → Drive) :
    (s.modDrive i f).slots = s.slots := rfl
@[simp] theorem State.modDrive_sampleAt (s : State) (i : SlotId) (f : Drive → Drive) :
    (s.modDrive i f).sampleAt = s.sampleAt := rfl
@[simp] theorem State.modDrive_bus (s : State) (i : SlotId) (f : Drive → Drive) : (s.modDrive i f).bus = s.bus := rfl
@[simp] theorem State.modDrive_rules (s : State) (i : SlotId) (f : Drive → Drive) :
    (s.modDrive i f).rules = s.rules := rfl
@[simp] theorem State.modDrive_queue (s : State) (i : SlotId) (f : Drive → Drive) :
    (s.modDrive i f).queue = s.queue := rfl
@[simp] theorem State.modDrive_cancelled (s : State) (i : SlotId) (f : Drive → Drive) :
    (s.modDrive i f).cancelled = s.cancelled := rfl
@[simp] theorem State.modDrive_lane (s : State) (i : SlotId) (f : Drive → Drive) :
    (s.modDrive i f).lane = s.lane := rfl
@[simp] theorem State.modDrive_census (s : State) (i : SlotId) (f : Drive → Drive) :
    (s.modDrive i f).census = s.census := rfl
@[simp] theorem State.modDrive_inFlight (s : State) (i : SlotId) (f : Drive → Drive) :
    (s.modDrive i f).inFlight = s.inFlight := rfl
@[simp] theorem State.modDrive_orphan (s : State) (i : SlotId) (f : Drive → Drive) :
    (s.modDrive i f).orphan = s.orphan := rfl
@[simp] theorem State.modDrive_lastClocks (s : State) (i : SlotId) (f : Drive → Drive) :
    (s.modDrive i f).lastClocks = s.lastClocks := rfl
@[simp] theorem State.modDrive_arb (s : State) (i : SlotId) (f : Drive → Drive) : (s.modDrive i f).arb = s.arb := rfl
@[simp] theorem State.modDrive_chans (s : State) (i : SlotId) (f : Drive → Drive) :
    (s.modDrive i f).chans = s.chans := rfl
@[simp] theorem State.modDrive_regions (s : State) (i : SlotId) (f : Drive → Drive) :
    (s.modDrive i f).regions = s.regions := rfl
@[simp] theorem State.modDrive_store (s : State) (i : SlotId) (f : Drive → Drive) :
    (s.modDrive i f).store = s.store := rfl
@[simp] theorem State.modDrive_storeWaits (s : State) (i : SlotId) (f : Drive → Drive) :
    (s.modDrive i f).storeWaits = s.storeWaits := rfl
@[simp] theorem State.modDrive_openSent (s : State) (i : SlotId) (f : Drive → Drive) :
    (s.modDrive i f).openSent = s.openSent := rfl
@[simp] theorem State.modDrive_written (s : State) (i : SlotId) (f : Drive → Drive) :
    (s.modDrive i f).written = s.written := rfl
@[simp] theorem State.modDrive_heldOpen (s : State) (i : SlotId) (f : Drive → Drive) :
    (s.modDrive i f).heldOpen = s.heldOpen := rfl
@[simp] theorem State.modDrive_lastMaster (s : State) (i : SlotId) (f : Drive → Drive) :
    (s.modDrive i f).lastMaster = s.lastMaster := rfl
@[simp] theorem State.modDrive_fillLine (s : State) (i : SlotId) (f : Drive → Drive) :
    (s.modDrive i f).fillLine = s.fillLine := rfl
@[simp] theorem State.modDrive_relay (s : State) (i : SlotId) (f : Drive → Drive) :
    (s.modDrive i f).relay = s.relay := rfl
@[simp] theorem State.modDrive_lines (s : State) (i : SlotId) (f : Drive → Drive) :
    (s.modDrive i f).lines = s.lines := rfl
@[simp] theorem State.modDrive_timers (s : State) (i : SlotId) (f : Drive → Drive) :
    (s.modDrive i f).timers = s.timers := rfl
@[simp] theorem State.modDrive_link (s : State) (i : SlotId) (f : Drive → Drive) :
    (s.modDrive i f).link = s.link := rfl
@[simp] theorem State.modDrive_free (s : State) (i : SlotId) (f : Drive → Drive) :
    (s.modDrive i f).free = s.free := rfl
@[simp] theorem State.modDrive_pending (s : State) (i : SlotId) (f : Drive → Drive) :
    (s.modDrive i f).pending = s.pending := rfl

@[simp] theorem State.modChan_now (s : State) (c : ChanId) (f : Chan → Chan) : (s.modChan c f).now = s.now := rfl
@[simp] theorem State.modChan_slots (s : State) (c : ChanId) (f : Chan → Chan) : (s.modChan c f).slots = s.slots := rfl
@[simp] theorem State.modChan_sampleAt (s : State) (c : ChanId) (f : Chan → Chan) :
    (s.modChan c f).sampleAt = s.sampleAt := rfl
@[simp] theorem State.modChan_drives (s : State) (c : ChanId) (f : Chan → Chan) :
    (s.modChan c f).drives = s.drives := rfl
@[simp] theorem State.modChan_bus (s : State) (c : ChanId) (f : Chan → Chan) : (s.modChan c f).bus = s.bus := rfl
@[simp] theorem State.modChan_rules (s : State) (c : ChanId) (f : Chan → Chan) : (s.modChan c f).rules = s.rules := rfl
@[simp] theorem State.modChan_queue (s : State) (c : ChanId) (f : Chan → Chan) : (s.modChan c f).queue = s.queue := rfl
@[simp] theorem State.modChan_cancelled (s : State) (c : ChanId) (f : Chan → Chan) :
    (s.modChan c f).cancelled = s.cancelled := rfl
@[simp] theorem State.modChan_lane (s : State) (c : ChanId) (f : Chan → Chan) : (s.modChan c f).lane = s.lane := rfl
@[simp] theorem State.modChan_census (s : State) (c : ChanId) (f : Chan → Chan) :
    (s.modChan c f).census = s.census := rfl
@[simp] theorem State.modChan_inFlight (s : State) (c : ChanId) (f : Chan → Chan) :
    (s.modChan c f).inFlight = s.inFlight := rfl
@[simp] theorem State.modChan_orphan (s : State) (c : ChanId) (f : Chan → Chan) :
    (s.modChan c f).orphan = s.orphan := rfl
@[simp] theorem State.modChan_lastClocks (s : State) (c : ChanId) (f : Chan → Chan) :
    (s.modChan c f).lastClocks = s.lastClocks := rfl
@[simp] theorem State.modChan_arb (s : State) (c : ChanId) (f : Chan → Chan) : (s.modChan c f).arb = s.arb := rfl
@[simp] theorem State.modChan_regions (s : State) (c : ChanId) (f : Chan → Chan) :
    (s.modChan c f).regions = s.regions := rfl
@[simp] theorem State.modChan_store (s : State) (c : ChanId) (f : Chan → Chan) : (s.modChan c f).store = s.store := rfl
@[simp] theorem State.modChan_storeWaits (s : State) (c : ChanId) (f : Chan → Chan) :
    (s.modChan c f).storeWaits = s.storeWaits := rfl
@[simp] theorem State.modChan_openSent (s : State) (c : ChanId) (f : Chan → Chan) :
    (s.modChan c f).openSent = s.openSent := rfl
@[simp] theorem State.modChan_written (s : State) (c : ChanId) (f : Chan → Chan) :
    (s.modChan c f).written = s.written := rfl
@[simp] theorem State.modChan_heldOpen (s : State) (c : ChanId) (f : Chan → Chan) :
    (s.modChan c f).heldOpen = s.heldOpen := rfl
@[simp] theorem State.modChan_lastMaster (s : State) (c : ChanId) (f : Chan → Chan) :
    (s.modChan c f).lastMaster = s.lastMaster := rfl
@[simp] theorem State.modChan_fillLine (s : State) (c : ChanId) (f : Chan → Chan) :
    (s.modChan c f).fillLine = s.fillLine := rfl
@[simp] theorem State.modChan_relay (s : State) (c : ChanId) (f : Chan → Chan) : (s.modChan c f).relay = s.relay := rfl
@[simp] theorem State.modChan_lines (s : State) (c : ChanId) (f : Chan → Chan) : (s.modChan c f).lines = s.lines := rfl
@[simp] theorem State.modChan_timers (s : State) (c : ChanId) (f : Chan → Chan) :
    (s.modChan c f).timers = s.timers := rfl
@[simp] theorem State.modChan_link (s : State) (c : ChanId) (f : Chan → Chan) : (s.modChan c f).link = s.link := rfl
@[simp] theorem State.modChan_free (s : State) (c : ChanId) (f : Chan → Chan) : (s.modChan c f).free = s.free := rfl
@[simp] theorem State.modChan_pending (s : State) (c : ChanId) (f : Chan → Chan) :
    (s.modChan c f).pending = s.pending := rfl

@[simp] theorem State.modRegion_now (s : State) (r : RegionId) (f : Region → Region) :
    (s.modRegion r f).now = s.now := rfl
@[simp] theorem State.modRegion_slots (s : State) (r : RegionId) (f : Region → Region) :
    (s.modRegion r f).slots = s.slots := rfl
@[simp] theorem State.modRegion_sampleAt (s : State) (r : RegionId) (f : Region → Region) :
    (s.modRegion r f).sampleAt = s.sampleAt := rfl
@[simp] theorem State.modRegion_drives (s : State) (r : RegionId) (f : Region → Region) :
    (s.modRegion r f).drives = s.drives := rfl
@[simp] theorem State.modRegion_bus (s : State) (r : RegionId) (f : Region → Region) :
    (s.modRegion r f).bus = s.bus := rfl
@[simp] theorem State.modRegion_rules (s : State) (r : RegionId) (f : Region → Region) :
    (s.modRegion r f).rules = s.rules := rfl
@[simp] theorem State.modRegion_queue (s : State) (r : RegionId) (f : Region → Region) :
    (s.modRegion r f).queue = s.queue := rfl
@[simp] theorem State.modRegion_cancelled (s : State) (r : RegionId) (f : Region → Region) :
    (s.modRegion r f).cancelled = s.cancelled := rfl
@[simp] theorem State.modRegion_lane (s : State) (r : RegionId) (f : Region → Region) :
    (s.modRegion r f).lane = s.lane := rfl
@[simp] theorem State.modRegion_census (s : State) (r : RegionId) (f : Region → Region) :
    (s.modRegion r f).census = s.census := rfl
@[simp] theorem State.modRegion_inFlight (s : State) (r : RegionId) (f : Region → Region) :
    (s.modRegion r f).inFlight = s.inFlight := rfl
@[simp] theorem State.modRegion_orphan (s : State) (r : RegionId) (f : Region → Region) :
    (s.modRegion r f).orphan = s.orphan := rfl
@[simp] theorem State.modRegion_lastClocks (s : State) (r : RegionId) (f : Region → Region) :
    (s.modRegion r f).lastClocks = s.lastClocks := rfl
@[simp] theorem State.modRegion_arb (s : State) (r : RegionId) (f : Region → Region) :
    (s.modRegion r f).arb = s.arb := rfl
@[simp] theorem State.modRegion_chans (s : State) (r : RegionId) (f : Region → Region) :
    (s.modRegion r f).chans = s.chans := rfl
@[simp] theorem State.modRegion_store (s : State) (r : RegionId) (f : Region → Region) :
    (s.modRegion r f).store = s.store := rfl
@[simp] theorem State.modRegion_storeWaits (s : State) (r : RegionId) (f : Region → Region) :
    (s.modRegion r f).storeWaits = s.storeWaits := rfl
@[simp] theorem State.modRegion_openSent (s : State) (r : RegionId) (f : Region → Region) :
    (s.modRegion r f).openSent = s.openSent := rfl
@[simp] theorem State.modRegion_written (s : State) (r : RegionId) (f : Region → Region) :
    (s.modRegion r f).written = s.written := rfl
@[simp] theorem State.modRegion_heldOpen (s : State) (r : RegionId) (f : Region → Region) :
    (s.modRegion r f).heldOpen = s.heldOpen := rfl
@[simp] theorem State.modRegion_lastMaster (s : State) (r : RegionId) (f : Region → Region) :
    (s.modRegion r f).lastMaster = s.lastMaster := rfl
@[simp] theorem State.modRegion_fillLine (s : State) (r : RegionId) (f : Region → Region) :
    (s.modRegion r f).fillLine = s.fillLine := rfl
@[simp] theorem State.modRegion_relay (s : State) (r : RegionId) (f : Region → Region) :
    (s.modRegion r f).relay = s.relay := rfl
@[simp] theorem State.modRegion_lines (s : State) (r : RegionId) (f : Region → Region) :
    (s.modRegion r f).lines = s.lines := rfl
@[simp] theorem State.modRegion_timers (s : State) (r : RegionId) (f : Region → Region) :
    (s.modRegion r f).timers = s.timers := rfl
@[simp] theorem State.modRegion_link (s : State) (r : RegionId) (f : Region → Region) :
    (s.modRegion r f).link = s.link := rfl
@[simp] theorem State.modRegion_free (s : State) (r : RegionId) (f : Region → Region) :
    (s.modRegion r f).free = s.free := rfl
@[simp] theorem State.modRegion_pending (s : State) (r : RegionId) (f : Region → Region) :
    (s.modRegion r f).pending = s.pending := rfl

@[simp] theorem State.modLine_now (s : State) (l : LineId) (f : Line → Line) : (s.modLine l f).now = s.now := rfl
@[simp] theorem State.modLine_slots (s : State) (l : LineId) (f : Line → Line) : (s.modLine l f).slots = s.slots := rfl
@[simp] theorem State.modLine_sampleAt (s : State) (l : LineId) (f : Line → Line) :
    (s.modLine l f).sampleAt = s.sampleAt := rfl
@[simp] theorem State.modLine_drives (s : State) (l : LineId) (f : Line → Line) :
    (s.modLine l f).drives = s.drives := rfl
@[simp] theorem State.modLine_bus (s : State) (l : LineId) (f : Line → Line) : (s.modLine l f).bus = s.bus := rfl
@[simp] theorem State.modLine_rules (s : State) (l : LineId) (f : Line → Line) : (s.modLine l f).rules = s.rules := rfl
@[simp] theorem State.modLine_queue (s : State) (l : LineId) (f : Line → Line) : (s.modLine l f).queue = s.queue := rfl
@[simp] theorem State.modLine_cancelled (s : State) (l : LineId) (f : Line → Line) :
    (s.modLine l f).cancelled = s.cancelled := rfl
@[simp] theorem State.modLine_lane (s : State) (l : LineId) (f : Line → Line) : (s.modLine l f).lane = s.lane := rfl
@[simp] theorem State.modLine_census (s : State) (l : LineId) (f : Line → Line) :
    (s.modLine l f).census = s.census := rfl
@[simp] theorem State.modLine_inFlight (s : State) (l : LineId) (f : Line → Line) :
    (s.modLine l f).inFlight = s.inFlight := rfl
@[simp] theorem State.modLine_orphan (s : State) (l : LineId) (f : Line → Line) :
    (s.modLine l f).orphan = s.orphan := rfl
@[simp] theorem State.modLine_lastClocks (s : State) (l : LineId) (f : Line → Line) :
    (s.modLine l f).lastClocks = s.lastClocks := rfl
@[simp] theorem State.modLine_arb (s : State) (l : LineId) (f : Line → Line) : (s.modLine l f).arb = s.arb := rfl
@[simp] theorem State.modLine_chans (s : State) (l : LineId) (f : Line → Line) : (s.modLine l f).chans = s.chans := rfl
@[simp] theorem State.modLine_regions (s : State) (l : LineId) (f : Line → Line) :
    (s.modLine l f).regions = s.regions := rfl
@[simp] theorem State.modLine_store (s : State) (l : LineId) (f : Line → Line) : (s.modLine l f).store = s.store := rfl
@[simp] theorem State.modLine_storeWaits (s : State) (l : LineId) (f : Line → Line) :
    (s.modLine l f).storeWaits = s.storeWaits := rfl
@[simp] theorem State.modLine_openSent (s : State) (l : LineId) (f : Line → Line) :
    (s.modLine l f).openSent = s.openSent := rfl
@[simp] theorem State.modLine_written (s : State) (l : LineId) (f : Line → Line) :
    (s.modLine l f).written = s.written := rfl
@[simp] theorem State.modLine_heldOpen (s : State) (l : LineId) (f : Line → Line) :
    (s.modLine l f).heldOpen = s.heldOpen := rfl
@[simp] theorem State.modLine_lastMaster (s : State) (l : LineId) (f : Line → Line) :
    (s.modLine l f).lastMaster = s.lastMaster := rfl
@[simp] theorem State.modLine_fillLine (s : State) (l : LineId) (f : Line → Line) :
    (s.modLine l f).fillLine = s.fillLine := rfl
@[simp] theorem State.modLine_relay (s : State) (l : LineId) (f : Line → Line) : (s.modLine l f).relay = s.relay := rfl
@[simp] theorem State.modLine_timers (s : State) (l : LineId) (f : Line → Line) :
    (s.modLine l f).timers = s.timers := rfl
@[simp] theorem State.modLine_link (s : State) (l : LineId) (f : Line → Line) : (s.modLine l f).link = s.link := rfl
@[simp] theorem State.modLine_free (s : State) (l : LineId) (f : Line → Line) : (s.modLine l f).free = s.free := rfl
@[simp] theorem State.modLine_pending (s : State) (l : LineId) (f : Line → Line) :
    (s.modLine l f).pending = s.pending := rfl

@[simp] theorem State.modTimer_now (s : State) (t : TimerId) (f : Timer → Timer) : (s.modTimer t f).now = s.now := rfl
@[simp] theorem State.modTimer_slots (s : State) (t : TimerId) (f : Timer → Timer) :
    (s.modTimer t f).slots = s.slots := rfl
@[simp] theorem State.modTimer_sampleAt (s : State) (t : TimerId) (f : Timer → Timer) :
    (s.modTimer t f).sampleAt = s.sampleAt := rfl
@[simp] theorem State.modTimer_drives (s : State) (t : TimerId) (f : Timer → Timer) :
    (s.modTimer t f).drives = s.drives := rfl
@[simp] theorem State.modTimer_bus (s : State) (t : TimerId) (f : Timer → Timer) : (s.modTimer t f).bus = s.bus := rfl
@[simp] theorem State.modTimer_rules (s : State) (t : TimerId) (f : Timer → Timer) :
    (s.modTimer t f).rules = s.rules := rfl
@[simp] theorem State.modTimer_queue (s : State) (t : TimerId) (f : Timer → Timer) :
    (s.modTimer t f).queue = s.queue := rfl
@[simp] theorem State.modTimer_cancelled (s : State) (t : TimerId) (f : Timer → Timer) :
    (s.modTimer t f).cancelled = s.cancelled := rfl
@[simp] theorem State.modTimer_lane (s : State) (t : TimerId) (f : Timer → Timer) :
    (s.modTimer t f).lane = s.lane := rfl
@[simp] theorem State.modTimer_census (s : State) (t : TimerId) (f : Timer → Timer) :
    (s.modTimer t f).census = s.census := rfl
@[simp] theorem State.modTimer_inFlight (s : State) (t : TimerId) (f : Timer → Timer) :
    (s.modTimer t f).inFlight = s.inFlight := rfl
@[simp] theorem State.modTimer_orphan (s : State) (t : TimerId) (f : Timer → Timer) :
    (s.modTimer t f).orphan = s.orphan := rfl
@[simp] theorem State.modTimer_lastClocks (s : State) (t : TimerId) (f : Timer → Timer) :
    (s.modTimer t f).lastClocks = s.lastClocks := rfl
@[simp] theorem State.modTimer_arb (s : State) (t : TimerId) (f : Timer → Timer) : (s.modTimer t f).arb = s.arb := rfl
@[simp] theorem State.modTimer_chans (s : State) (t : TimerId) (f : Timer → Timer) :
    (s.modTimer t f).chans = s.chans := rfl
@[simp] theorem State.modTimer_regions (s : State) (t : TimerId) (f : Timer → Timer) :
    (s.modTimer t f).regions = s.regions := rfl
@[simp] theorem State.modTimer_store (s : State) (t : TimerId) (f : Timer → Timer) :
    (s.modTimer t f).store = s.store := rfl
@[simp] theorem State.modTimer_storeWaits (s : State) (t : TimerId) (f : Timer → Timer) :
    (s.modTimer t f).storeWaits = s.storeWaits := rfl
@[simp] theorem State.modTimer_openSent (s : State) (t : TimerId) (f : Timer → Timer) :
    (s.modTimer t f).openSent = s.openSent := rfl
@[simp] theorem State.modTimer_written (s : State) (t : TimerId) (f : Timer → Timer) :
    (s.modTimer t f).written = s.written := rfl
@[simp] theorem State.modTimer_heldOpen (s : State) (t : TimerId) (f : Timer → Timer) :
    (s.modTimer t f).heldOpen = s.heldOpen := rfl
@[simp] theorem State.modTimer_lastMaster (s : State) (t : TimerId) (f : Timer → Timer) :
    (s.modTimer t f).lastMaster = s.lastMaster := rfl
@[simp] theorem State.modTimer_fillLine (s : State) (t : TimerId) (f : Timer → Timer) :
    (s.modTimer t f).fillLine = s.fillLine := rfl
@[simp] theorem State.modTimer_relay (s : State) (t : TimerId) (f : Timer → Timer) :
    (s.modTimer t f).relay = s.relay := rfl
@[simp] theorem State.modTimer_lines (s : State) (t : TimerId) (f : Timer → Timer) :
    (s.modTimer t f).lines = s.lines := rfl
@[simp] theorem State.modTimer_link (s : State) (t : TimerId) (f : Timer → Timer) :
    (s.modTimer t f).link = s.link := rfl
@[simp] theorem State.modTimer_free (s : State) (t : TimerId) (f : Timer → Timer) :
    (s.modTimer t f).free = s.free := rfl
@[simp] theorem State.modTimer_pending (s : State) (t : TimerId) (f : Timer → Timer) :
    (s.modTimer t f).pending = s.pending := rfl

@[simp] theorem State.modArb_now (s : State) (f : Arbiter → Arbiter) : (s.modArb f).now = s.now := rfl
@[simp] theorem State.modArb_slots (s : State) (f : Arbiter → Arbiter) : (s.modArb f).slots = s.slots := rfl
@[simp] theorem State.modArb_sampleAt (s : State) (f : Arbiter → Arbiter) : (s.modArb f).sampleAt = s.sampleAt := rfl
@[simp] theorem State.modArb_drives (s : State) (f : Arbiter → Arbiter) : (s.modArb f).drives = s.drives := rfl
@[simp] theorem State.modArb_bus (s : State) (f : Arbiter → Arbiter) : (s.modArb f).bus = s.bus := rfl
@[simp] theorem State.modArb_rules (s : State) (f : Arbiter → Arbiter) : (s.modArb f).rules = s.rules := rfl
@[simp] theorem State.modArb_queue (s : State) (f : Arbiter → Arbiter) : (s.modArb f).queue = s.queue := rfl
@[simp] theorem State.modArb_cancelled (s : State) (f : Arbiter → Arbiter) :
    (s.modArb f).cancelled = s.cancelled := rfl
@[simp] theorem State.modArb_lane (s : State) (f : Arbiter → Arbiter) : (s.modArb f).lane = s.lane := rfl
@[simp] theorem State.modArb_census (s : State) (f : Arbiter → Arbiter) : (s.modArb f).census = s.census := rfl
@[simp] theorem State.modArb_inFlight (s : State) (f : Arbiter → Arbiter) : (s.modArb f).inFlight = s.inFlight := rfl
@[simp] theorem State.modArb_orphan (s : State) (f : Arbiter → Arbiter) : (s.modArb f).orphan = s.orphan := rfl
@[simp] theorem State.modArb_lastClocks (s : State) (f : Arbiter → Arbiter) :
    (s.modArb f).lastClocks = s.lastClocks := rfl
@[simp] theorem State.modArb_chans (s : State) (f : Arbiter → Arbiter) : (s.modArb f).chans = s.chans := rfl
@[simp] theorem State.modArb_regions (s : State) (f : Arbiter → Arbiter) : (s.modArb f).regions = s.regions := rfl
@[simp] theorem State.modArb_store (s : State) (f : Arbiter → Arbiter) : (s.modArb f).store = s.store := rfl
@[simp] theorem State.modArb_storeWaits (s : State) (f : Arbiter → Arbiter) :
    (s.modArb f).storeWaits = s.storeWaits := rfl
@[simp] theorem State.modArb_openSent (s : State) (f : Arbiter → Arbiter) : (s.modArb f).openSent = s.openSent := rfl
@[simp] theorem State.modArb_written (s : State) (f : Arbiter → Arbiter) : (s.modArb f).written = s.written := rfl
@[simp] theorem State.modArb_heldOpen (s : State) (f : Arbiter → Arbiter) : (s.modArb f).heldOpen = s.heldOpen := rfl
@[simp] theorem State.modArb_lastMaster (s : State) (f : Arbiter → Arbiter) :
    (s.modArb f).lastMaster = s.lastMaster := rfl
@[simp] theorem State.modArb_fillLine (s : State) (f : Arbiter → Arbiter) : (s.modArb f).fillLine = s.fillLine := rfl
@[simp] theorem State.modArb_relay (s : State) (f : Arbiter → Arbiter) : (s.modArb f).relay = s.relay := rfl
@[simp] theorem State.modArb_lines (s : State) (f : Arbiter → Arbiter) : (s.modArb f).lines = s.lines := rfl
@[simp] theorem State.modArb_timers (s : State) (f : Arbiter → Arbiter) : (s.modArb f).timers = s.timers := rfl
@[simp] theorem State.modArb_link (s : State) (f : Arbiter → Arbiter) : (s.modArb f).link = s.link := rfl
@[simp] theorem State.modArb_free (s : State) (f : Arbiter → Arbiter) : (s.modArb f).free = s.free := rfl
@[simp] theorem State.modArb_pending (s : State) (f : Arbiter → Arbiter) : (s.modArb f).pending = s.pending := rfl

@[simp] theorem State.modLink_now (s : State) (f : Link → Link) : (s.modLink f).now = s.now := rfl
@[simp] theorem State.modLink_slots (s : State) (f : Link → Link) : (s.modLink f).slots = s.slots := rfl
@[simp] theorem State.modLink_sampleAt (s : State) (f : Link → Link) : (s.modLink f).sampleAt = s.sampleAt := rfl
@[simp] theorem State.modLink_drives (s : State) (f : Link → Link) : (s.modLink f).drives = s.drives := rfl
@[simp] theorem State.modLink_bus (s : State) (f : Link → Link) : (s.modLink f).bus = s.bus := rfl
@[simp] theorem State.modLink_rules (s : State) (f : Link → Link) : (s.modLink f).rules = s.rules := rfl
@[simp] theorem State.modLink_queue (s : State) (f : Link → Link) : (s.modLink f).queue = s.queue := rfl
@[simp] theorem State.modLink_cancelled (s : State) (f : Link → Link) : (s.modLink f).cancelled = s.cancelled := rfl
@[simp] theorem State.modLink_lane (s : State) (f : Link → Link) : (s.modLink f).lane = s.lane := rfl
@[simp] theorem State.modLink_census (s : State) (f : Link → Link) : (s.modLink f).census = s.census := rfl
@[simp] theorem State.modLink_inFlight (s : State) (f : Link → Link) : (s.modLink f).inFlight = s.inFlight := rfl
@[simp] theorem State.modLink_orphan (s : State) (f : Link → Link) : (s.modLink f).orphan = s.orphan := rfl
@[simp] theorem State.modLink_lastClocks (s : State) (f : Link → Link) : (s.modLink f).lastClocks = s.lastClocks := rfl
@[simp] theorem State.modLink_arb (s : State) (f : Link → Link) : (s.modLink f).arb = s.arb := rfl
@[simp] theorem State.modLink_chans (s : State) (f : Link → Link) : (s.modLink f).chans = s.chans := rfl
@[simp] theorem State.modLink_regions (s : State) (f : Link → Link) : (s.modLink f).regions = s.regions := rfl
@[simp] theorem State.modLink_store (s : State) (f : Link → Link) : (s.modLink f).store = s.store := rfl
@[simp] theorem State.modLink_storeWaits (s : State) (f : Link → Link) : (s.modLink f).storeWaits = s.storeWaits := rfl
@[simp] theorem State.modLink_openSent (s : State) (f : Link → Link) : (s.modLink f).openSent = s.openSent := rfl
@[simp] theorem State.modLink_written (s : State) (f : Link → Link) : (s.modLink f).written = s.written := rfl
@[simp] theorem State.modLink_heldOpen (s : State) (f : Link → Link) : (s.modLink f).heldOpen = s.heldOpen := rfl
@[simp] theorem State.modLink_lastMaster (s : State) (f : Link → Link) : (s.modLink f).lastMaster = s.lastMaster := rfl
@[simp] theorem State.modLink_fillLine (s : State) (f : Link → Link) : (s.modLink f).fillLine = s.fillLine := rfl
@[simp] theorem State.modLink_relay (s : State) (f : Link → Link) : (s.modLink f).relay = s.relay := rfl
@[simp] theorem State.modLink_lines (s : State) (f : Link → Link) : (s.modLink f).lines = s.lines := rfl
@[simp] theorem State.modLink_timers (s : State) (f : Link → Link) : (s.modLink f).timers = s.timers := rfl
@[simp] theorem State.modLink_free (s : State) (f : Link → Link) : (s.modLink f).free = s.free := rfl
@[simp] theorem State.modLink_pending (s : State) (f : Link → Link) : (s.modLink f).pending = s.pending := rfl

@[simp] theorem State.modRelay_now (s : State) (f : Relay → Relay) : (s.modRelay f).now = s.now := rfl
@[simp] theorem State.modRelay_slots (s : State) (f : Relay → Relay) : (s.modRelay f).slots = s.slots := rfl
@[simp] theorem State.modRelay_sampleAt (s : State) (f : Relay → Relay) : (s.modRelay f).sampleAt = s.sampleAt := rfl
@[simp] theorem State.modRelay_drives (s : State) (f : Relay → Relay) : (s.modRelay f).drives = s.drives := rfl
@[simp] theorem State.modRelay_bus (s : State) (f : Relay → Relay) : (s.modRelay f).bus = s.bus := rfl
@[simp] theorem State.modRelay_rules (s : State) (f : Relay → Relay) : (s.modRelay f).rules = s.rules := rfl
@[simp] theorem State.modRelay_queue (s : State) (f : Relay → Relay) : (s.modRelay f).queue = s.queue := rfl
@[simp] theorem State.modRelay_cancelled (s : State) (f : Relay → Relay) :
    (s.modRelay f).cancelled = s.cancelled := rfl
@[simp] theorem State.modRelay_lane (s : State) (f : Relay → Relay) : (s.modRelay f).lane = s.lane := rfl
@[simp] theorem State.modRelay_census (s : State) (f : Relay → Relay) : (s.modRelay f).census = s.census := rfl
@[simp] theorem State.modRelay_inFlight (s : State) (f : Relay → Relay) : (s.modRelay f).inFlight = s.inFlight := rfl
@[simp] theorem State.modRelay_orphan (s : State) (f : Relay → Relay) : (s.modRelay f).orphan = s.orphan := rfl
@[simp] theorem State.modRelay_lastClocks (s : State) (f : Relay → Relay) :
    (s.modRelay f).lastClocks = s.lastClocks := rfl
@[simp] theorem State.modRelay_arb (s : State) (f : Relay → Relay) : (s.modRelay f).arb = s.arb := rfl
@[simp] theorem State.modRelay_chans (s : State) (f : Relay → Relay) : (s.modRelay f).chans = s.chans := rfl
@[simp] theorem State.modRelay_regions (s : State) (f : Relay → Relay) : (s.modRelay f).regions = s.regions := rfl
@[simp] theorem State.modRelay_store (s : State) (f : Relay → Relay) : (s.modRelay f).store = s.store := rfl
@[simp] theorem State.modRelay_storeWaits (s : State) (f : Relay → Relay) :
    (s.modRelay f).storeWaits = s.storeWaits := rfl
@[simp] theorem State.modRelay_openSent (s : State) (f : Relay → Relay) : (s.modRelay f).openSent = s.openSent := rfl
@[simp] theorem State.modRelay_written (s : State) (f : Relay → Relay) : (s.modRelay f).written = s.written := rfl
@[simp] theorem State.modRelay_heldOpen (s : State) (f : Relay → Relay) : (s.modRelay f).heldOpen = s.heldOpen := rfl
@[simp] theorem State.modRelay_lastMaster (s : State) (f : Relay → Relay) :
    (s.modRelay f).lastMaster = s.lastMaster := rfl
@[simp] theorem State.modRelay_fillLine (s : State) (f : Relay → Relay) : (s.modRelay f).fillLine = s.fillLine := rfl
@[simp] theorem State.modRelay_lines (s : State) (f : Relay → Relay) : (s.modRelay f).lines = s.lines := rfl
@[simp] theorem State.modRelay_timers (s : State) (f : Relay → Relay) : (s.modRelay f).timers = s.timers := rfl
@[simp] theorem State.modRelay_link (s : State) (f : Relay → Relay) : (s.modRelay f).link = s.link := rfl
@[simp] theorem State.modRelay_free (s : State) (f : Relay → Relay) : (s.modRelay f).free = s.free := rfl
@[simp] theorem State.modRelay_pending (s : State) (f : Relay → Relay) : (s.modRelay f).pending = s.pending := rfl

@[simp] theorem State.modCensus_now (s : State) (f : Census → Census) : (s.modCensus f).now = s.now := rfl
@[simp] theorem State.modCensus_slots (s : State) (f : Census → Census) : (s.modCensus f).slots = s.slots := rfl
@[simp] theorem State.modCensus_sampleAt (s : State) (f : Census → Census) :
    (s.modCensus f).sampleAt = s.sampleAt := rfl
@[simp] theorem State.modCensus_drives (s : State) (f : Census → Census) : (s.modCensus f).drives = s.drives := rfl
@[simp] theorem State.modCensus_bus (s : State) (f : Census → Census) : (s.modCensus f).bus = s.bus := rfl
@[simp] theorem State.modCensus_rules (s : State) (f : Census → Census) : (s.modCensus f).rules = s.rules := rfl
@[simp] theorem State.modCensus_queue (s : State) (f : Census → Census) : (s.modCensus f).queue = s.queue := rfl
@[simp] theorem State.modCensus_cancelled (s : State) (f : Census → Census) :
    (s.modCensus f).cancelled = s.cancelled := rfl
@[simp] theorem State.modCensus_lane (s : State) (f : Census → Census) : (s.modCensus f).lane = s.lane := rfl
@[simp] theorem State.modCensus_inFlight (s : State) (f : Census → Census) :
    (s.modCensus f).inFlight = s.inFlight := rfl
@[simp] theorem State.modCensus_orphan (s : State) (f : Census → Census) : (s.modCensus f).orphan = s.orphan := rfl
@[simp] theorem State.modCensus_lastClocks (s : State) (f : Census → Census) :
    (s.modCensus f).lastClocks = s.lastClocks := rfl
@[simp] theorem State.modCensus_arb (s : State) (f : Census → Census) : (s.modCensus f).arb = s.arb := rfl
@[simp] theorem State.modCensus_chans (s : State) (f : Census → Census) : (s.modCensus f).chans = s.chans := rfl
@[simp] theorem State.modCensus_regions (s : State) (f : Census → Census) : (s.modCensus f).regions = s.regions := rfl
@[simp] theorem State.modCensus_store (s : State) (f : Census → Census) : (s.modCensus f).store = s.store := rfl
@[simp] theorem State.modCensus_storeWaits (s : State) (f : Census → Census) :
    (s.modCensus f).storeWaits = s.storeWaits := rfl
@[simp] theorem State.modCensus_openSent (s : State) (f : Census → Census) :
    (s.modCensus f).openSent = s.openSent := rfl
@[simp] theorem State.modCensus_written (s : State) (f : Census → Census) : (s.modCensus f).written = s.written := rfl
@[simp] theorem State.modCensus_heldOpen (s : State) (f : Census → Census) :
    (s.modCensus f).heldOpen = s.heldOpen := rfl
@[simp] theorem State.modCensus_lastMaster (s : State) (f : Census → Census) :
    (s.modCensus f).lastMaster = s.lastMaster := rfl
@[simp] theorem State.modCensus_fillLine (s : State) (f : Census → Census) :
    (s.modCensus f).fillLine = s.fillLine := rfl
@[simp] theorem State.modCensus_relay (s : State) (f : Census → Census) : (s.modCensus f).relay = s.relay := rfl
@[simp] theorem State.modCensus_lines (s : State) (f : Census → Census) : (s.modCensus f).lines = s.lines := rfl
@[simp] theorem State.modCensus_timers (s : State) (f : Census → Census) : (s.modCensus f).timers = s.timers := rfl
@[simp] theorem State.modCensus_link (s : State) (f : Census → Census) : (s.modCensus f).link = s.link := rfl
@[simp] theorem State.modCensus_free (s : State) (f : Census → Census) : (s.modCensus f).free = s.free := rfl
@[simp] theorem State.modCensus_pending (s : State) (f : Census → Census) : (s.modCensus f).pending = s.pending := rfl

@[simp] theorem State.modShip_now (s : State) (r : RegionId) (f : ShipQueue → ShipQueue) :
    (s.modShip r f).now = s.now := rfl
@[simp] theorem State.modShip_slots (s : State) (r : RegionId) (f : ShipQueue → ShipQueue) :
    (s.modShip r f).slots = s.slots := rfl
@[simp] theorem State.modShip_sampleAt (s : State) (r : RegionId) (f : ShipQueue → ShipQueue) :
    (s.modShip r f).sampleAt = s.sampleAt := rfl
@[simp] theorem State.modShip_drives (s : State) (r : RegionId) (f : ShipQueue → ShipQueue) :
    (s.modShip r f).drives = s.drives := rfl
@[simp] theorem State.modShip_bus (s : State) (r : RegionId) (f : ShipQueue → ShipQueue) :
    (s.modShip r f).bus = s.bus := rfl
@[simp] theorem State.modShip_rules (s : State) (r : RegionId) (f : ShipQueue → ShipQueue) :
    (s.modShip r f).rules = s.rules := rfl
@[simp] theorem State.modShip_queue (s : State) (r : RegionId) (f : ShipQueue → ShipQueue) :
    (s.modShip r f).queue = s.queue := rfl
@[simp] theorem State.modShip_cancelled (s : State) (r : RegionId) (f : ShipQueue → ShipQueue) :
    (s.modShip r f).cancelled = s.cancelled := rfl
@[simp] theorem State.modShip_lane (s : State) (r : RegionId) (f : ShipQueue → ShipQueue) :
    (s.modShip r f).lane = s.lane := rfl
@[simp] theorem State.modShip_census (s : State) (r : RegionId) (f : ShipQueue → ShipQueue) :
    (s.modShip r f).census = s.census := rfl
@[simp] theorem State.modShip_inFlight (s : State) (r : RegionId) (f : ShipQueue → ShipQueue) :
    (s.modShip r f).inFlight = s.inFlight := rfl
@[simp] theorem State.modShip_orphan (s : State) (r : RegionId) (f : ShipQueue → ShipQueue) :
    (s.modShip r f).orphan = s.orphan := rfl
@[simp] theorem State.modShip_lastClocks (s : State) (r : RegionId) (f : ShipQueue → ShipQueue) :
    (s.modShip r f).lastClocks = s.lastClocks := rfl
@[simp] theorem State.modShip_arb (s : State) (r : RegionId) (f : ShipQueue → ShipQueue) :
    (s.modShip r f).arb = s.arb := rfl
@[simp] theorem State.modShip_chans (s : State) (r : RegionId) (f : ShipQueue → ShipQueue) :
    (s.modShip r f).chans = s.chans := rfl
@[simp] theorem State.modShip_store (s : State) (r : RegionId) (f : ShipQueue → ShipQueue) :
    (s.modShip r f).store = s.store := rfl
@[simp] theorem State.modShip_storeWaits (s : State) (r : RegionId) (f : ShipQueue → ShipQueue) :
    (s.modShip r f).storeWaits = s.storeWaits := rfl
@[simp] theorem State.modShip_openSent (s : State) (r : RegionId) (f : ShipQueue → ShipQueue) :
    (s.modShip r f).openSent = s.openSent := rfl
@[simp] theorem State.modShip_written (s : State) (r : RegionId) (f : ShipQueue → ShipQueue) :
    (s.modShip r f).written = s.written := rfl
@[simp] theorem State.modShip_heldOpen (s : State) (r : RegionId) (f : ShipQueue → ShipQueue) :
    (s.modShip r f).heldOpen = s.heldOpen := rfl
@[simp] theorem State.modShip_lastMaster (s : State) (r : RegionId) (f : ShipQueue → ShipQueue) :
    (s.modShip r f).lastMaster = s.lastMaster := rfl
@[simp] theorem State.modShip_fillLine (s : State) (r : RegionId) (f : ShipQueue → ShipQueue) :
    (s.modShip r f).fillLine = s.fillLine := rfl
@[simp] theorem State.modShip_relay (s : State) (r : RegionId) (f : ShipQueue → ShipQueue) :
    (s.modShip r f).relay = s.relay := rfl
@[simp] theorem State.modShip_lines (s : State) (r : RegionId) (f : ShipQueue → ShipQueue) :
    (s.modShip r f).lines = s.lines := rfl
@[simp] theorem State.modShip_timers (s : State) (r : RegionId) (f : ShipQueue → ShipQueue) :
    (s.modShip r f).timers = s.timers := rfl
@[simp] theorem State.modShip_link (s : State) (r : RegionId) (f : ShipQueue → ShipQueue) :
    (s.modShip r f).link = s.link := rfl
@[simp] theorem State.modShip_free (s : State) (r : RegionId) (f : ShipQueue → ShipQueue) :
    (s.modShip r f).free = s.free := rfl
@[simp] theorem State.modShip_pending (s : State) (r : RegionId) (f : ShipQueue → ShipQueue) :
    (s.modShip r f).pending = s.pending := rfl

@[simp] theorem State.notice_now (s : State) (n : Notice) : (s.notice n).now = s.now := rfl
@[simp] theorem State.notice_slots (s : State) (n : Notice) : (s.notice n).slots = s.slots := rfl
@[simp] theorem State.notice_sampleAt (s : State) (n : Notice) : (s.notice n).sampleAt = s.sampleAt := rfl
@[simp] theorem State.notice_drives (s : State) (n : Notice) : (s.notice n).drives = s.drives := rfl
@[simp] theorem State.notice_bus (s : State) (n : Notice) : (s.notice n).bus = s.bus := rfl
@[simp] theorem State.notice_rules (s : State) (n : Notice) : (s.notice n).rules = s.rules := rfl
@[simp] theorem State.notice_queue (s : State) (n : Notice) : (s.notice n).queue = s.queue := rfl
@[simp] theorem State.notice_cancelled (s : State) (n : Notice) : (s.notice n).cancelled = s.cancelled := rfl
@[simp] theorem State.notice_lane (s : State) (n : Notice) : (s.notice n).lane = s.lane := rfl
@[simp] theorem State.notice_census (s : State) (n : Notice) : (s.notice n).census = s.census := rfl
@[simp] theorem State.notice_inFlight (s : State) (n : Notice) : (s.notice n).inFlight = s.inFlight := rfl
@[simp] theorem State.notice_orphan (s : State) (n : Notice) : (s.notice n).orphan = s.orphan := rfl
@[simp] theorem State.notice_lastClocks (s : State) (n : Notice) : (s.notice n).lastClocks = s.lastClocks := rfl
@[simp] theorem State.notice_arb (s : State) (n : Notice) : (s.notice n).arb = s.arb := rfl
@[simp] theorem State.notice_chans (s : State) (n : Notice) : (s.notice n).chans = s.chans := rfl
@[simp] theorem State.notice_regions (s : State) (n : Notice) : (s.notice n).regions = s.regions := rfl
@[simp] theorem State.notice_store (s : State) (n : Notice) : (s.notice n).store = s.store := rfl
@[simp] theorem State.notice_storeWaits (s : State) (n : Notice) : (s.notice n).storeWaits = s.storeWaits := rfl
@[simp] theorem State.notice_openSent (s : State) (n : Notice) : (s.notice n).openSent = s.openSent := rfl
@[simp] theorem State.notice_written (s : State) (n : Notice) : (s.notice n).written = s.written := rfl
@[simp] theorem State.notice_heldOpen (s : State) (n : Notice) : (s.notice n).heldOpen = s.heldOpen := rfl
@[simp] theorem State.notice_lastMaster (s : State) (n : Notice) : (s.notice n).lastMaster = s.lastMaster := rfl
@[simp] theorem State.notice_fillLine (s : State) (n : Notice) : (s.notice n).fillLine = s.fillLine := rfl
@[simp] theorem State.notice_relay (s : State) (n : Notice) : (s.notice n).relay = s.relay := rfl
@[simp] theorem State.notice_lines (s : State) (n : Notice) : (s.notice n).lines = s.lines := rfl
@[simp] theorem State.notice_timers (s : State) (n : Notice) : (s.notice n).timers = s.timers := rfl
@[simp] theorem State.notice_free (s : State) (n : Notice) : (s.notice n).free = s.free := rfl
@[simp] theorem State.notice_pending (s : State) (n : Notice) : (s.notice n).pending = s.pending := rfl

@[simp] theorem State.release_now (s : State) : (s.release).now = s.now := rfl
@[simp] theorem State.release_slots (s : State) : (s.release).slots = s.slots := rfl
@[simp] theorem State.release_sampleAt (s : State) : (s.release).sampleAt = s.sampleAt := rfl
@[simp] theorem State.release_drives (s : State) : (s.release).drives = s.drives := rfl
@[simp] theorem State.release_bus (s : State) : (s.release).bus = s.bus := rfl
@[simp] theorem State.release_rules (s : State) : (s.release).rules = s.rules := rfl
@[simp] theorem State.release_queue (s : State) : (s.release).queue = s.queue := rfl
@[simp] theorem State.release_cancelled (s : State) : (s.release).cancelled = s.cancelled := rfl
@[simp] theorem State.release_lane (s : State) : (s.release).lane = s.lane := rfl
@[simp] theorem State.release_census (s : State) : (s.release).census = s.census := rfl
@[simp] theorem State.release_inFlight (s : State) : (s.release).inFlight = s.inFlight := rfl
@[simp] theorem State.release_orphan (s : State) : (s.release).orphan = s.orphan := rfl
@[simp] theorem State.release_lastClocks (s : State) : (s.release).lastClocks = s.lastClocks := rfl
@[simp] theorem State.release_arb (s : State) : (s.release).arb = s.arb := rfl
@[simp] theorem State.release_chans (s : State) : (s.release).chans = s.chans := rfl
@[simp] theorem State.release_regions (s : State) : (s.release).regions = s.regions := rfl
@[simp] theorem State.release_store (s : State) : (s.release).store = s.store := rfl
@[simp] theorem State.release_storeWaits (s : State) : (s.release).storeWaits = s.storeWaits := rfl
@[simp] theorem State.release_openSent (s : State) : (s.release).openSent = s.openSent := rfl
@[simp] theorem State.release_written (s : State) : (s.release).written = s.written := rfl
@[simp] theorem State.release_heldOpen (s : State) : (s.release).heldOpen = s.heldOpen := rfl
@[simp] theorem State.release_lastMaster (s : State) : (s.release).lastMaster = s.lastMaster := rfl
@[simp] theorem State.release_fillLine (s : State) : (s.release).fillLine = s.fillLine := rfl
@[simp] theorem State.release_relay (s : State) : (s.release).relay = s.relay := rfl
@[simp] theorem State.release_lines (s : State) : (s.release).lines = s.lines := rfl
@[simp] theorem State.release_timers (s : State) : (s.release).timers = s.timers := rfl
@[simp] theorem State.release_free (s : State) : (s.release).free = s.free := rfl
@[simp] theorem State.release_pending (s : State) : (s.release).pending = s.pending := rfl

@[simp] theorem State.modSlot_slots (s : State) (i : SlotId) (f : Slot → Slot) :
    (s.modSlot i f).slots = s.slots.set i (f s.slots[i]) := rfl
@[simp] theorem State.modDrive_drives (s : State) (i : SlotId) (f : Drive → Drive) :
    (s.modDrive i f).drives = s.drives.set i (f s.drives[i]) := rfl
@[simp] theorem State.modChan_chans (s : State) (c : ChanId) (f : Chan → Chan) :
    (s.modChan c f).chans = s.chans.set c (f s.chans[c]) := rfl
@[simp] theorem State.modRegion_regions (s : State) (r : RegionId) (f : Region → Region) :
    (s.modRegion r f).regions = s.regions.set r (f s.regions[r]) := rfl
@[simp] theorem State.modLine_lines (s : State) (l : LineId) (f : Line → Line) :
    (s.modLine l f).lines = s.lines.set l (f s.lines[l]) := rfl
@[simp] theorem State.modTimer_timers (s : State) (t : TimerId) (f : Timer → Timer) :
    (s.modTimer t f).timers = s.timers.set t (f s.timers[t]) := rfl
@[simp] theorem State.modArb_arb (s : State) (f : Arbiter → Arbiter) : (s.modArb f).arb = f s.arb := rfl
@[simp] theorem State.modLink_link (s : State) (f : Link → Link) : (s.modLink f).link = f s.link := rfl
@[simp] theorem State.modRelay_relay (s : State) (f : Relay → Relay) : (s.modRelay f).relay = f s.relay := rfl
@[simp] theorem State.modCensus_census (s : State) (f : Census → Census) : (s.modCensus f).census = f s.census := rfl
@[simp] theorem State.modShip_regions (s : State) (r : RegionId) (f : ShipQueue → ShipQueue) :
    (s.modShip r f).regions = s.regions.set r { s.regions[r] with ship := f s.regions[r].ship } := rfl
@[simp] theorem State.notice_link (s : State) (n : Notice) :
    (s.notice n).link = { s.link with reports := s.link.reports ++ [.notice n] } := rfl
@[simp] theorem State.release_link (s : State) :
    s.release.link = { s.link with reservations := s.link.reservations - 1 } := rfl

/-! ### Replies -/

@[simp] theorem State.reply_now (s : State) (k t : Nat) (st : Status) (b : Body) :
    (s.reply k t st b).now = s.now := rfl
@[simp] theorem State.reply_slots (s : State) (k t : Nat) (st : Status) (b : Body) :
    (s.reply k t st b).slots = s.slots := rfl
@[simp] theorem State.reply_sampleAt (s : State) (k t : Nat) (st : Status) (b : Body) :
    (s.reply k t st b).sampleAt = s.sampleAt := rfl
@[simp] theorem State.reply_drives (s : State) (k t : Nat) (st : Status) (b : Body) :
    (s.reply k t st b).drives = s.drives := rfl
@[simp] theorem State.reply_bus (s : State) (k t : Nat) (st : Status) (b : Body) :
    (s.reply k t st b).bus = s.bus := rfl
@[simp] theorem State.reply_rules (s : State) (k t : Nat) (st : Status) (b : Body) :
    (s.reply k t st b).rules = s.rules := rfl
@[simp] theorem State.reply_queue (s : State) (k t : Nat) (st : Status) (b : Body) :
    (s.reply k t st b).queue = s.queue := rfl
@[simp] theorem State.reply_cancelled (s : State) (k t : Nat) (st : Status) (b : Body) :
    (s.reply k t st b).cancelled = s.cancelled := rfl
@[simp] theorem State.reply_lane (s : State) (k t : Nat) (st : Status) (b : Body) :
    (s.reply k t st b).lane = s.lane := rfl
@[simp] theorem State.reply_census (s : State) (k t : Nat) (st : Status) (b : Body) :
    (s.reply k t st b).census = s.census := rfl
@[simp] theorem State.reply_inFlight (s : State) (k t : Nat) (st : Status) (b : Body) :
    (s.reply k t st b).inFlight = s.inFlight := rfl
@[simp] theorem State.reply_orphan (s : State) (k t : Nat) (st : Status) (b : Body) :
    (s.reply k t st b).orphan = s.orphan := rfl
@[simp] theorem State.reply_lastClocks (s : State) (k t : Nat) (st : Status) (b : Body) :
    (s.reply k t st b).lastClocks = s.lastClocks := rfl
@[simp] theorem State.reply_arb (s : State) (k t : Nat) (st : Status) (b : Body) :
    (s.reply k t st b).arb = s.arb := rfl
@[simp] theorem State.reply_chans (s : State) (k t : Nat) (st : Status) (b : Body) :
    (s.reply k t st b).chans = s.chans := rfl
@[simp] theorem State.reply_regions (s : State) (k t : Nat) (st : Status) (b : Body) :
    (s.reply k t st b).regions = s.regions := rfl
@[simp] theorem State.reply_store (s : State) (k t : Nat) (st : Status) (b : Body) :
    (s.reply k t st b).store = s.store := rfl
@[simp] theorem State.reply_storeWaits (s : State) (k t : Nat) (st : Status) (b : Body) :
    (s.reply k t st b).storeWaits = s.storeWaits := rfl
@[simp] theorem State.reply_openSent (s : State) (k t : Nat) (st : Status) (b : Body) :
    (s.reply k t st b).openSent = s.openSent := rfl
@[simp] theorem State.reply_written (s : State) (k t : Nat) (st : Status) (b : Body) :
    (s.reply k t st b).written = s.written := rfl
@[simp] theorem State.reply_heldOpen (s : State) (k t : Nat) (st : Status) (b : Body) :
    (s.reply k t st b).heldOpen = s.heldOpen := rfl
@[simp] theorem State.reply_lastMaster (s : State) (k t : Nat) (st : Status) (b : Body) :
    (s.reply k t st b).lastMaster = s.lastMaster := rfl
@[simp] theorem State.reply_fillLine (s : State) (k t : Nat) (st : Status) (b : Body) :
    (s.reply k t st b).fillLine = s.fillLine := rfl
@[simp] theorem State.reply_relay (s : State) (k t : Nat) (st : Status) (b : Body) :
    (s.reply k t st b).relay = s.relay := rfl
@[simp] theorem State.reply_lines (s : State) (k t : Nat) (st : Status) (b : Body) :
    (s.reply k t st b).lines = s.lines := rfl
@[simp] theorem State.reply_timers (s : State) (k t : Nat) (st : Status) (b : Body) :
    (s.reply k t st b).timers = s.timers := rfl
@[simp] theorem State.reply_free (s : State) (k t : Nat) (st : Status) (b : Body) :
    (s.reply k t st b).free = s.free := rfl
@[simp] theorem State.reply_pending (s : State) (k t : Nat) (st : Status) (b : Body) :
    (s.reply k t st b).pending = s.pending := rfl

@[simp] theorem State.refuse_now (s : State) (k t : Nat) (st : Status) : (s.refuse k t st).now = s.now := rfl
@[simp] theorem State.refuse_slots (s : State) (k t : Nat) (st : Status) : (s.refuse k t st).slots = s.slots := rfl
@[simp] theorem State.refuse_sampleAt (s : State) (k t : Nat) (st : Status) :
    (s.refuse k t st).sampleAt = s.sampleAt := rfl
@[simp] theorem State.refuse_drives (s : State) (k t : Nat) (st : Status) : (s.refuse k t st).drives = s.drives := rfl
@[simp] theorem State.refuse_bus (s : State) (k t : Nat) (st : Status) : (s.refuse k t st).bus = s.bus := rfl
@[simp] theorem State.refuse_rules (s : State) (k t : Nat) (st : Status) : (s.refuse k t st).rules = s.rules := rfl
@[simp] theorem State.refuse_queue (s : State) (k t : Nat) (st : Status) : (s.refuse k t st).queue = s.queue := rfl
@[simp] theorem State.refuse_cancelled (s : State) (k t : Nat) (st : Status) :
    (s.refuse k t st).cancelled = s.cancelled := rfl
@[simp] theorem State.refuse_lane (s : State) (k t : Nat) (st : Status) : (s.refuse k t st).lane = s.lane := rfl
@[simp] theorem State.refuse_census (s : State) (k t : Nat) (st : Status) : (s.refuse k t st).census = s.census := rfl
@[simp] theorem State.refuse_inFlight (s : State) (k t : Nat) (st : Status) :
    (s.refuse k t st).inFlight = s.inFlight := rfl
@[simp] theorem State.refuse_orphan (s : State) (k t : Nat) (st : Status) : (s.refuse k t st).orphan = s.orphan := rfl
@[simp] theorem State.refuse_lastClocks (s : State) (k t : Nat) (st : Status) :
    (s.refuse k t st).lastClocks = s.lastClocks := rfl
@[simp] theorem State.refuse_arb (s : State) (k t : Nat) (st : Status) : (s.refuse k t st).arb = s.arb := rfl
@[simp] theorem State.refuse_chans (s : State) (k t : Nat) (st : Status) : (s.refuse k t st).chans = s.chans := rfl
@[simp] theorem State.refuse_regions (s : State) (k t : Nat) (st : Status) :
    (s.refuse k t st).regions = s.regions := rfl
@[simp] theorem State.refuse_store (s : State) (k t : Nat) (st : Status) : (s.refuse k t st).store = s.store := rfl
@[simp] theorem State.refuse_storeWaits (s : State) (k t : Nat) (st : Status) :
    (s.refuse k t st).storeWaits = s.storeWaits := rfl
@[simp] theorem State.refuse_openSent (s : State) (k t : Nat) (st : Status) :
    (s.refuse k t st).openSent = s.openSent := rfl
@[simp] theorem State.refuse_written (s : State) (k t : Nat) (st : Status) :
    (s.refuse k t st).written = s.written := rfl
@[simp] theorem State.refuse_heldOpen (s : State) (k t : Nat) (st : Status) :
    (s.refuse k t st).heldOpen = s.heldOpen := rfl
@[simp] theorem State.refuse_lastMaster (s : State) (k t : Nat) (st : Status) :
    (s.refuse k t st).lastMaster = s.lastMaster := rfl
@[simp] theorem State.refuse_fillLine (s : State) (k t : Nat) (st : Status) :
    (s.refuse k t st).fillLine = s.fillLine := rfl
@[simp] theorem State.refuse_relay (s : State) (k t : Nat) (st : Status) : (s.refuse k t st).relay = s.relay := rfl
@[simp] theorem State.refuse_lines (s : State) (k t : Nat) (st : Status) : (s.refuse k t st).lines = s.lines := rfl
@[simp] theorem State.refuse_timers (s : State) (k t : Nat) (st : Status) : (s.refuse k t st).timers = s.timers := rfl
@[simp] theorem State.refuse_free (s : State) (k t : Nat) (st : Status) : (s.refuse k t st).free = s.free := rfl
@[simp] theorem State.refuse_pending (s : State) (k t : Nat) (st : Status) :
    (s.refuse k t st).pending = s.pending := rfl

@[simp] theorem State.replyRefused_now (s : State) (t : Nat) (st : Status) (k : Nat) :
    (s.replyRefused t st k).now = s.now := rfl
@[simp] theorem State.replyRefused_slots (s : State) (t : Nat) (st : Status) (k : Nat) :
    (s.replyRefused t st k).slots = s.slots := rfl
@[simp] theorem State.replyRefused_sampleAt (s : State) (t : Nat) (st : Status) (k : Nat) :
    (s.replyRefused t st k).sampleAt = s.sampleAt := rfl
@[simp] theorem State.replyRefused_drives (s : State) (t : Nat) (st : Status) (k : Nat) :
    (s.replyRefused t st k).drives = s.drives := rfl
@[simp] theorem State.replyRefused_bus (s : State) (t : Nat) (st : Status) (k : Nat) :
    (s.replyRefused t st k).bus = s.bus := rfl
@[simp] theorem State.replyRefused_rules (s : State) (t : Nat) (st : Status) (k : Nat) :
    (s.replyRefused t st k).rules = s.rules := rfl
@[simp] theorem State.replyRefused_queue (s : State) (t : Nat) (st : Status) (k : Nat) :
    (s.replyRefused t st k).queue = s.queue := rfl
@[simp] theorem State.replyRefused_cancelled (s : State) (t : Nat) (st : Status) (k : Nat) :
    (s.replyRefused t st k).cancelled = s.cancelled := rfl
@[simp] theorem State.replyRefused_lane (s : State) (t : Nat) (st : Status) (k : Nat) :
    (s.replyRefused t st k).lane = s.lane := rfl
@[simp] theorem State.replyRefused_census (s : State) (t : Nat) (st : Status) (k : Nat) :
    (s.replyRefused t st k).census = s.census := rfl
@[simp] theorem State.replyRefused_inFlight (s : State) (t : Nat) (st : Status) (k : Nat) :
    (s.replyRefused t st k).inFlight = s.inFlight := rfl
@[simp] theorem State.replyRefused_orphan (s : State) (t : Nat) (st : Status) (k : Nat) :
    (s.replyRefused t st k).orphan = s.orphan := rfl
@[simp] theorem State.replyRefused_lastClocks (s : State) (t : Nat) (st : Status) (k : Nat) :
    (s.replyRefused t st k).lastClocks = s.lastClocks := rfl
@[simp] theorem State.replyRefused_arb (s : State) (t : Nat) (st : Status) (k : Nat) :
    (s.replyRefused t st k).arb = s.arb := rfl
@[simp] theorem State.replyRefused_chans (s : State) (t : Nat) (st : Status) (k : Nat) :
    (s.replyRefused t st k).chans = s.chans := rfl
@[simp] theorem State.replyRefused_regions (s : State) (t : Nat) (st : Status) (k : Nat) :
    (s.replyRefused t st k).regions = s.regions := rfl
@[simp] theorem State.replyRefused_store (s : State) (t : Nat) (st : Status) (k : Nat) :
    (s.replyRefused t st k).store = s.store := rfl
@[simp] theorem State.replyRefused_storeWaits (s : State) (t : Nat) (st : Status) (k : Nat) :
    (s.replyRefused t st k).storeWaits = s.storeWaits := rfl
@[simp] theorem State.replyRefused_openSent (s : State) (t : Nat) (st : Status) (k : Nat) :
    (s.replyRefused t st k).openSent = s.openSent := rfl
@[simp] theorem State.replyRefused_written (s : State) (t : Nat) (st : Status) (k : Nat) :
    (s.replyRefused t st k).written = s.written := rfl
@[simp] theorem State.replyRefused_heldOpen (s : State) (t : Nat) (st : Status) (k : Nat) :
    (s.replyRefused t st k).heldOpen = s.heldOpen := rfl
@[simp] theorem State.replyRefused_lastMaster (s : State) (t : Nat) (st : Status) (k : Nat) :
    (s.replyRefused t st k).lastMaster = s.lastMaster := rfl
@[simp] theorem State.replyRefused_fillLine (s : State) (t : Nat) (st : Status) (k : Nat) :
    (s.replyRefused t st k).fillLine = s.fillLine := rfl
@[simp] theorem State.replyRefused_relay (s : State) (t : Nat) (st : Status) (k : Nat) :
    (s.replyRefused t st k).relay = s.relay := rfl
@[simp] theorem State.replyRefused_lines (s : State) (t : Nat) (st : Status) (k : Nat) :
    (s.replyRefused t st k).lines = s.lines := rfl
@[simp] theorem State.replyRefused_timers (s : State) (t : Nat) (st : Status) (k : Nat) :
    (s.replyRefused t st k).timers = s.timers := rfl
@[simp] theorem State.replyRefused_free (s : State) (t : Nat) (st : Status) (k : Nat) :
    (s.replyRefused t st k).free = s.free := rfl
@[simp] theorem State.replyRefused_pending (s : State) (t : Nat) (st : Status) (k : Nat) :
    (s.replyRefused t st k).pending = s.pending := rfl

@[simp] theorem State.replyNow_now (s : State) (r : PendingReply) : (s.replyNow r).now = s.now := rfl
@[simp] theorem State.replyNow_slots (s : State) (r : PendingReply) : (s.replyNow r).slots = s.slots := rfl
@[simp] theorem State.replyNow_sampleAt (s : State) (r : PendingReply) : (s.replyNow r).sampleAt = s.sampleAt := rfl
@[simp] theorem State.replyNow_drives (s : State) (r : PendingReply) : (s.replyNow r).drives = s.drives := rfl
@[simp] theorem State.replyNow_bus (s : State) (r : PendingReply) : (s.replyNow r).bus = s.bus := rfl
@[simp] theorem State.replyNow_rules (s : State) (r : PendingReply) : (s.replyNow r).rules = s.rules := rfl
@[simp] theorem State.replyNow_queue (s : State) (r : PendingReply) : (s.replyNow r).queue = s.queue := rfl
@[simp] theorem State.replyNow_cancelled (s : State) (r : PendingReply) : (s.replyNow r).cancelled = s.cancelled := rfl
@[simp] theorem State.replyNow_lane (s : State) (r : PendingReply) : (s.replyNow r).lane = s.lane := rfl
@[simp] theorem State.replyNow_census (s : State) (r : PendingReply) : (s.replyNow r).census = s.census := rfl
@[simp] theorem State.replyNow_inFlight (s : State) (r : PendingReply) : (s.replyNow r).inFlight = s.inFlight := rfl
@[simp] theorem State.replyNow_orphan (s : State) (r : PendingReply) : (s.replyNow r).orphan = s.orphan := rfl
@[simp] theorem State.replyNow_lastClocks (s : State) (r : PendingReply) :
    (s.replyNow r).lastClocks = s.lastClocks := rfl
@[simp] theorem State.replyNow_arb (s : State) (r : PendingReply) : (s.replyNow r).arb = s.arb := rfl
@[simp] theorem State.replyNow_chans (s : State) (r : PendingReply) : (s.replyNow r).chans = s.chans := rfl
@[simp] theorem State.replyNow_regions (s : State) (r : PendingReply) : (s.replyNow r).regions = s.regions := rfl
@[simp] theorem State.replyNow_store (s : State) (r : PendingReply) : (s.replyNow r).store = s.store := rfl
@[simp] theorem State.replyNow_storeWaits (s : State) (r : PendingReply) :
    (s.replyNow r).storeWaits = s.storeWaits := rfl
@[simp] theorem State.replyNow_openSent (s : State) (r : PendingReply) : (s.replyNow r).openSent = s.openSent := rfl
@[simp] theorem State.replyNow_written (s : State) (r : PendingReply) : (s.replyNow r).written = s.written := rfl
@[simp] theorem State.replyNow_heldOpen (s : State) (r : PendingReply) : (s.replyNow r).heldOpen = s.heldOpen := rfl
@[simp] theorem State.replyNow_lastMaster (s : State) (r : PendingReply) :
    (s.replyNow r).lastMaster = s.lastMaster := rfl
@[simp] theorem State.replyNow_fillLine (s : State) (r : PendingReply) : (s.replyNow r).fillLine = s.fillLine := rfl
@[simp] theorem State.replyNow_relay (s : State) (r : PendingReply) : (s.replyNow r).relay = s.relay := rfl
@[simp] theorem State.replyNow_lines (s : State) (r : PendingReply) : (s.replyNow r).lines = s.lines := rfl
@[simp] theorem State.replyNow_timers (s : State) (r : PendingReply) : (s.replyNow r).timers = s.timers := rfl
@[simp] theorem State.replyNow_free (s : State) (r : PendingReply) : (s.replyNow r).free = s.free := rfl
@[simp] theorem State.replyNow_pending (s : State) (r : PendingReply) : (s.replyNow r).pending = s.pending := rfl

@[simp] theorem State.reply_link (s : State) (k t : Nat) (st : Status) (b : Body) :
    (s.reply k t st b).link = s.link.place (.reply (replyKind k) t st b) := rfl
@[simp] theorem State.refuse_link (s : State) (k t : Nat) (st : Status) :
    (s.refuse k t st).link = s.link.place (.reply (replyKind k) t st .empty) := rfl
@[simp] theorem State.replyRefused_link (s : State) (t : Nat) (st : Status) (k : Nat) :
    (s.replyRefused t st k).link = s.link.place (.reply refusedKind t st (.kindCode k)) := rfl
@[simp] theorem State.replyNow_link (s : State) (r : PendingReply) :
    (s.replyNow r).link = s.link.place (.reply (replyKind r.kind) r.tag .ok r.body) := rfl

/-! ### Folds -/

@[simp] theorem State.each_nil {α : Type} (s : State) (f : α → State → State) : s.each [] f = s := rfl
@[simp] theorem State.each_cons {α : Type} (s : State) (x : α) (xs : List α) (f : α → State → State) :
    s.each (x :: xs) f = (f x s).each xs f := rfl

/-- What each operation keeps, a fold keeps. -/
theorem State.each_keeps {α β : Type} (p : State → β) (f : α → State → State) (xs : List α)
    (hf : ∀ x ∈ xs, ∀ s, p (f x s) = p s) (s : State) : p (s.each xs f) = p s := by
  induction xs generalizing s with
  | nil => rfl
  | cons x xs ih =>
    rw [State.each_cons, ih fun y hy => hf y (List.mem_cons_of_mem x hy)]
    exact hf x List.mem_cons_self s

/-- An invariant that each operation keeps, a fold keeps. -/
theorem State.each_invariant {α : Type} (p : State → Prop) (f : α → State → State) (xs : List α)
    (hf : ∀ x ∈ xs, ∀ s, p s → p (f x s)) (s : State) (h : p s) : p (s.each xs f) := by
  induction xs generalizing s with
  | nil => exact h
  | cons x xs ih =>
    exact ih (fun y hy => hf y (List.mem_cons_of_mem x hy)) _ (hf x List.mem_cons_self s h)

end Sys2Proof.Machine
end

