-- ==== Sys2Proof/Laws/Memory.lean ====
section
/-! SUPPORT. The mirror store's memory: reads after writes, and every operation keeps the canonical form. -/

namespace Sys2Proof.Machine

/-- The canonical form of a list with a head: a non-zero byte, below every later address. -/
theorem Memory.wf_cons_iff (c : Host.Cell) (m : List Host.Cell) :
    Memory.wf (c :: m) = true ↔ c.2 ≠ 0 ∧ (∀ d ∈ m, c.1 < d.1) ∧ Memory.wf m = true := by
  induction m generalizing c with
  | nil => obtain ⟨k, v⟩ := c; simp [Memory.wf]
  | cons d m ih =>
    obtain ⟨k, v⟩ := c
    obtain ⟨k', v'⟩ := d
    simp only [Memory.wf, Bool.and_eq_true, decide_eq_true_eq]
    constructor
    · rintro ⟨⟨hv, hk⟩, hw⟩
      refine ⟨hv, ?_, hw⟩
      intro d hd
      rcases List.mem_cons.mp hd with rfl | hd
      · exact hk
      · exact Nat.lt_trans hk (((ih (k', v')).mp hw).2.1 d hd)
    · rintro ⟨hv, hk, hw⟩
      exact ⟨⟨hv, hk (k', v') List.mem_cons_self⟩, hw⟩

/-- An address below every listed one reads 0x00. -/
theorem Memory.read_of_lt (m : List Host.Cell) (a : Nat) (h : ∀ d ∈ m, a < d.1) : Memory.read m a = 0 := by
  induction m with
  | nil => rfl
  | cons c m ih =>
    obtain ⟨k, v⟩ := c
    have hk : k ≠ a := Nat.ne_of_gt (h (k, v) List.mem_cons_self)
    simp only [Memory.read, if_neg hk]
    exact ih fun d hd => h d (List.mem_cons_of_mem _ hd)

/-- Every address a write lists was listed before, or is the one written. -/
theorem Memory.mem_write (m : List Host.Cell) (a : Nat) (v : Byte) :
    ∀ d ∈ Memory.write m a v, d.1 = a ∨ d ∈ m := by
  induction m with
  | nil =>
    intro d hd
    simp only [Memory.write] at hd
    split at hd
    · cases hd
    · exact .inl (by rw [List.mem_singleton.mp hd])
  | cons c m ih =>
    obtain ⟨k, w⟩ := c
    intro d hd
    simp only [Memory.write] at hd
    split at hd
    · split at hd
      · exact .inr hd
      · rcases List.mem_cons.mp hd with rfl | hd
        · exact .inl rfl
        · exact .inr hd
    · split at hd
      · split at hd
        · exact .inr (List.mem_cons_of_mem _ hd)
        · rcases List.mem_cons.mp hd with rfl | hd
          · exact .inl rfl
          · exact .inr (List.mem_cons_of_mem _ hd)
      · rcases List.mem_cons.mp hd with rfl | hd
        · exact .inr List.mem_cons_self
        · rcases ih d hd with h | h
          · exact .inl h
          · exact .inr (List.mem_cons_of_mem _ h)

/-- A write keeps the canonical form. -/
theorem Memory.write_wf (m : List Host.Cell) (a : Nat) (v : Byte) (h : Memory.wf m = true) :
    Memory.wf (Memory.write m a v) = true := by
  induction m with
  | nil =>
    simp only [Memory.write]
    split
    · rfl
    · simp_all [Memory.wf]
  | cons c m ih =>
    obtain ⟨k, w⟩ := c
    obtain ⟨hw, hk, hm⟩ := (Memory.wf_cons_iff (k, w) m).mp h
    simp only [Memory.write]
    split
    · split
      · exact h
      · refine (Memory.wf_cons_iff _ _).mpr ⟨by assumption, ?_, h⟩
        intro d hd
        rcases List.mem_cons.mp hd with rfl | hd
        · assumption
        · exact Nat.lt_trans (by assumption) (hk d hd)
    · split
      · split
        · exact hm
        · refine (Memory.wf_cons_iff _ _).mpr ⟨by assumption, ?_, hm⟩
          intro d hd
          have := hk d hd
          simp_all
      · refine (Memory.wf_cons_iff _ _).mpr ⟨hw, ?_, ih hm⟩
        intro d hd
        rcases Memory.mem_write m a v d hd with h' | h'
        · simp only [h']; omega
        · exact hk d h'

/-- Reading the address written gives the value written. -/
theorem Memory.read_write_same (m : List Host.Cell) (a : Nat) (v : Byte) (h : Memory.wf m = true) :
    Memory.read (Memory.write m a v) a = v := by
  induction m with
  | nil =>
    simp only [Memory.write]
    split <;> simp_all [Memory.read]
  | cons c m ih =>
    obtain ⟨k, w⟩ := c
    obtain ⟨-, hk, hm⟩ := (Memory.wf_cons_iff (k, w) m).mp h
    simp only [Memory.write]
    split
    · split
      · rename_i hlt hv
        rw [hv]
        refine Memory.read_of_lt _ _ ?_
        intro d hd
        rcases List.mem_cons.mp hd with rfl | hd
        · exact hlt
        · exact Nat.lt_trans hlt (hk d hd)
      · simp [Memory.read]
    · split
      · split
        · rename_i heq hv
          rw [hv]
          refine Memory.read_of_lt _ _ ?_
          intro d hd
          have := hk d hd
          simp_all
        · simp [Memory.read]
      · have hka : k ≠ a := by omega
        simp only [Memory.read, if_neg hka]
        exact ih hm

/-- A write leaves every other address alone. -/
theorem Memory.read_write_other (m : List Host.Cell) (a b : Nat) (v : Byte) (hab : b ≠ a) :
    Memory.read (Memory.write m a v) b = Memory.read m b := by
  induction m with
  | nil =>
    simp only [Memory.write]
    split
    · rfl
    · simp [Memory.read, Ne.symm hab]
  | cons c m ih =>
    obtain ⟨k, w⟩ := c
    simp only [Memory.write]
    split
    · split
      · rfl
      · simp [Memory.read, Ne.symm hab]
    · split
      · rename_i heq
        have hkb : k ≠ b := by rw [← heq]; exact Ne.symm hab
        split
        · simp [Memory.read, hkb]
        · simp [Memory.read, Ne.symm hab, hkb]
      · simp only [Memory.read, ih]

/-- Writing bytes in a row keeps the canonical form. -/
theorem Memory.writeAll_wf (bs : List Byte) (m : List Host.Cell) (a : Nat) (h : Memory.wf m = true) :
    Memory.wf (Memory.writeAll m a bs) = true := by
  induction bs generalizing m a with
  | nil => exact h
  | cons b bs ih => exact ih _ _ (Memory.write_wf m a b h)

/-- Writing bytes in a row leaves every address outside them alone. -/
theorem Memory.read_writeAll_outside (bs : List Byte) (m : List Host.Cell) (a b : Nat)
    (h : b < a ∨ a + bs.length ≤ b) : Memory.read (Memory.writeAll m a bs) b = Memory.read m b := by
  induction bs generalizing m a with
  | nil => rfl
  | cons v bs ih =>
    simp only [List.length_cons] at h
    rw [Memory.writeAll, ih _ _ (by omega), Memory.read_write_other _ _ _ _ (by omega)]

/-- Writing bytes in a row stores each at its address. -/
theorem Memory.read_writeAll_inside (bs : List Byte) (m : List Host.Cell) (a i : Nat) (h : Memory.wf m = true)
    (hi : i < bs.length) : Memory.read (Memory.writeAll m a bs) (a + i) = bs[i] := by
  induction bs generalizing m a i with
  | nil => simp at hi
  | cons v bs ih =>
    cases i with
    | zero =>
      rw [Memory.writeAll, Nat.add_zero, Memory.read_writeAll_outside _ _ _ _ (by omega)]
      exact Memory.read_write_same m a v h
    | succ i =>
      have := ih (Memory.write m a v) (a + 1) i (Memory.write_wf m a v h) (by simpa using hi)
      rw [Memory.writeAll, show a + (i + 1) = a + 1 + i by omega]
      simpa using this

/-- Dropping cells keeps the canonical form. -/
theorem Memory.filter_wf (p : Host.Cell → Bool) (m : List Host.Cell) (h : Memory.wf m = true) :
    Memory.wf (m.filter p) = true := by
  induction m with
  | nil => rfl
  | cons c m ih =>
    obtain ⟨hv, hk, hm⟩ := (Memory.wf_cons_iff c m).mp h
    rw [List.filter_cons]
    split
    · exact (Memory.wf_cons_iff _ _).mpr ⟨hv, fun d hd => hk d (List.mem_of_mem_filter hd), ih hm⟩
    · exact ih hm

/-- Zeroing an extent keeps the canonical form. -/
theorem Memory.zero_wf (m : List Host.Cell) (base n : Nat) (h : Memory.wf m = true) :
    Memory.wf (Memory.zero m base n) = true := Memory.filter_wf _ m h

/-- A zeroed extent reads 0x00, every other address as before. -/
theorem Memory.read_zero (m : List Host.Cell) (base n a : Nat) :
    Memory.read (Memory.zero m base n) a = if a < base ∨ base + n ≤ a then Memory.read m a else 0 := by
  induction m with
  | nil => simp [Memory.zero, Memory.read]
  | cons c m ih =>
    obtain ⟨k, v⟩ := c
    simp only [Memory.zero] at ih ⊢
    rw [List.filter_cons]
    by_cases hk : k < base ∨ base + n ≤ k
    · simp only [Bool.or_eq_true, decide_eq_true_eq, hk, if_true, Memory.read, ih]
      by_cases hka : k = a
      · subst hka; simp [hk]
      · simp [hka]
    · have : ¬ (k = a ∧ (a < base ∨ base + n ≤ a)) := by rintro ⟨rfl, h⟩; exact hk h
      simp only [Bool.or_eq_true, decide_eq_true_eq, hk, if_false, Memory.read, ih]
      by_cases hka : k = a
      · subst hka; simp [hk]
      · simp [hka]

/-- Bytes read at rising addresses are as many as asked. -/
@[simp] theorem Memory.readAll_length (m : List Host.Cell) (a n : Nat) : (Memory.readAll m a n).length = n := by
  simp [Memory.readAll]

end Sys2Proof.Machine
end

