-- ==== Sys2Proof/Laws/Footprint.lean ====
section
/-! SUPPORT. What the shared operations of the memory map, the fill shipper, the relay and the DMA controller leave alone, and
what they can do to the link unit: place replies, and nothing else. -/

namespace Sys2Proof.Machine

/-! ### The state outside the memory map, the ship passes, the relay and the channels -/

/-- The fields that store work, ship passes and the relay's notice in hand never touch. -/
def State.outer (s : State) :=
  ((s.now, s.slots, s.sampleAt, s.drives, s.bus, s.rules, s.queue, s.cancelled, s.lane, s.census),
    (s.inFlight, s.orphan, s.lastClocks, s.arb, s.openSent, s.heldOpen, s.lastMaster, s.timers, s.free, s.pending))

@[simp] theorem State.outer_reply (s : State) (k t : Nat) (st : Status) (b : Body) :
    (s.reply k t st b).outer = s.outer := rfl
@[simp] theorem State.outer_replyNow (s : State) (r : PendingReply) : (s.replyNow r).outer = s.outer := rfl
@[simp] theorem State.outer_notice (s : State) (n : Notice) : (s.notice n).outer = s.outer := rfl
@[simp] theorem State.outer_modRegion (s : State) (r : RegionId) (f : Region → Region) :
    (s.modRegion r f).outer = s.outer := rfl
@[simp] theorem State.outer_modShip (s : State) (r : RegionId) (f : ShipQueue → ShipQueue) :
    (s.modShip r f).outer = s.outer := rfl
@[simp] theorem State.outer_modChan (s : State) (c : ChanId) (f : Chan → Chan) : (s.modChan c f).outer = s.outer := rfl
@[simp] theorem State.outer_modRelay (s : State) (f : Relay → Relay) : (s.modRelay f).outer = s.outer := rfl
@[simp] theorem State.outer_modLine (s : State) (l : LineId) (f : Line → Line) : (s.modLine l f).outer = s.outer := rfl
@[simp] theorem State.outer_modLink (s : State) (f : Link → Link) : (s.modLink f).outer = s.outer := rfl

theorem State.outer_each {α : Type} (f : α → State → State) (hf : ∀ x s, (f x s).outer = s.outer) (xs : List α)
    (s : State) : (s.each xs f).outer = s.outer := State.each_keeps State.outer f xs (fun x _ t => hf x t) s

@[simp] theorem State.outer_applyStoreOp (op : StoreOp) (s : State) : (s.applyStoreOp op).outer = s.outer := by
  cases op with
  | put a bs r => cases r <;> rfl
  | get a n r => cases r <;> rfl
  | zero b n rs => exact State.outer_each _ (by intros; rfl) rs _

@[simp] theorem State.outer_submitStoreOp (op : StoreOp) (s : State) : (s.submitStoreOp op).outer = s.outer := by
  simp only [State.submitStoreOp]
  split
  · rfl
  · simp

@[simp] theorem State.outer_runStoreWaits (s : State) : s.runStoreWaits.outer = s.outer := by
  simp only [State.runStoreWaits]
  rw [State.outer_each _ (by simp)]
  rfl

@[simp] theorem State.outer_placeRegion (id : RegionId) (f : RegionFields) (rs : List PendingReply) (s : State) :
    (s.placeRegion id f rs).outer = s.outer := by
  simp only [State.placeRegion]
  split
  · simp
  · rw [State.outer_each _ (by intros; rfl)]
    simp

@[simp] theorem State.outer_removeRegion (id : RegionId) (s : State) : (s.removeRegion id).outer = s.outer := by
  simp only [State.removeRegion]
  split
  · simp; rfl
  · rw [State.outer_each _ (by intros; rfl)]
    rfl

@[simp] theorem State.outer_relayPassEnded (id : RegionId) (s : State) : (s.relayPassEnded id).outer = s.outer := rfl

@[simp] theorem State.outer_mapPassEnded (id : RegionId) (s : State) : (s.mapPassEnded id).outer = s.outer := by
  have h : ∀ (ws : List Nat) (t : State),
      (t.each ws fun tag u => u.replyNow ⟨kRegionFlush, tag, .empty⟩).outer = t.outer :=
    fun ws t => State.outer_each _ (by intros; rfl) ws t
  simp only [State.mapPassEnded]
  split
  · rw [State.outer_removeRegion, h]; rfl
  · rw [h]; rfl

@[simp] theorem State.outer_endPass (id : RegionId) (s : State) : (s.endPass id).outer = s.outer := by
  have h : ∀ (cs : List ChanId) (t : State),
      (t.each cs fun c u => u.modChan c fun ch =>
        { ch with awaitedRegions := setRemove id ch.awaitedRegions }).outer = t.outer :=
    fun cs t => State.outer_each _ (by intros; rfl) cs t
  simp only [State.endPass]
  split <;> split <;> simp [h]

@[simp] theorem State.outer_beginPass (id : RegionId) (s : State) : (s.beginPass id).outer = s.outer := by
  simp only [State.beginPass]
  split
  · simp
  · rfl

@[simp] theorem State.outer_trigger (id : RegionId) (s : State) : (s.trigger id).outer = s.outer := by
  simp only [State.trigger]
  split <;> simp

@[simp] theorem State.outer_demand (id : RegionId) (d : Demander) (s : State) : (s.demand id d).outer = s.outer := by
  simp only [State.demand]
  split <;> simp

@[simp] theorem State.outer_handByte (id : RegionId) (off : Nat) (s : State) : (s.handByte id off).outer = s.outer := rfl

@[simp] theorem State.outer_thresholdCheck (id : RegionId) (s : State) :
    (s.thresholdCheck id).outer = s.outer := by
  simp only [State.thresholdCheck]
  split <;> simp

@[simp] theorem State.outer_trickleRegion (id : RegionId) (s : State) : (s.trickleRegion id).outer = s.outer := by
  simp only [State.trickleRegion]
  split <;> simp

@[simp] theorem State.outer_trickleUpdate (s : State) : s.trickleUpdate.outer = s.outer :=
  State.outer_each _ (by simp) _ s

@[simp] theorem State.outer_admitFill (id : RegionId) (s : State) : (s.admitFill id).outer = s.outer := by
  simp only [State.admitFill]
  split
  · simp; rfl
  · rfl

@[simp] theorem State.outer_admitFills (n : Nat) (s : State) : (State.admitFills n s).outer = s.outer := by
  induction n generalizing s with
  | zero => rfl
  | succ n ih =>
    simp only [State.admitFills]
    split
    · split
      · rw [ih]; simp
      · rfl
    · rfl

@[simp] theorem State.outer_demandLinked (l : LineId) (s : State) : (s.demandLinked l).outer = s.outer := by
  simp only [State.demandLinked]
  split
  · rfl
  · split
    · rfl
    · simp

@[simp] theorem State.outer_formNotice (ls : List LineId) (o : Origin) (s : State) :
    (s.formNotice ls o).outer = s.outer := by
  simp only [State.formNotice, State.outer_modRelay]
  rw [State.outer_each _ (by simp), State.outer_modRelay, State.outer_each _ (by simp)]

@[simp] theorem State.outer_expireHoldoff (s : State) : s.expireHoldoff.outer = s.outer := by
  simp only [State.expireHoldoff]
  split <;> simp

@[simp] theorem State.outer_relayCheck (s : State) : s.relayCheck.outer = s.outer := by
  simp only [State.relayCheck]
  split
  · rfl
  · split
    · rfl
    · simp
    · split <;> simp

@[simp] theorem State.outer_withdraw (l : LineId) (s : State) : (s.withdraw l).outer = s.outer := by
  simp only [State.withdraw]
  split <;> simp

@[simp] theorem State.outer_syncLine (l : LineId) (s : State) : (s.syncLine l).outer = s.outer := rfl

@[simp] theorem State.outer_syncLines (s : State) : s.syncLines.outer = s.outer := by
  simp only [State.syncLines, State.outer_relayCheck, State.outer_trickleUpdate]
  exact State.outer_each _ (by simp) _ s

@[simp] theorem State.outer_addCause (c : ChanId) (k : Cause) (s : State) : (s.addCause c k).outer = s.outer := by
  simp only [State.addCause]
  split <;> simp

@[simp] theorem State.outer_answerMasks (c : ChanId) (s : State) : (s.answerMasks c).outer = s.outer := by
  simp only [State.answerMasks]
  rw [State.outer_each _ (by intros; rfl)]
  rfl

@[simp] theorem State.outer_maskChan (c : ChanId) (r : MaskReason) (s : State) :
    (s.maskChan c r).outer = s.outer := by
  simp [State.maskChan]

@[simp] theorem State.outer_storeCardBytes (id : RegionId) (a : Nat) (bs : List Byte) (s : State) :
    (s.storeCardBytes id a bs).outer = s.outer := by
  simp only [State.storeCardBytes]
  rw [State.outer_each _ (by intros; rfl)]
  rfl

/-! ### The fields one by one, for rewriting -/

theorem State.slots_of_outer {s t : State} (h : t.outer = s.outer) : t.slots = s.slots :=
  congrArg (fun o => o.1.2.1) h
theorem State.now_of_outer {s t : State} (h : t.outer = s.outer) : t.now = s.now := congrArg (fun o => o.1.1) h
theorem State.bus_of_outer {s t : State} (h : t.outer = s.outer) : t.bus = s.bus :=
  congrArg (fun o => o.1.2.2.2.2.1) h
theorem State.rules_of_outer {s t : State} (h : t.outer = s.outer) : t.rules = s.rules :=
  congrArg (fun o => o.1.2.2.2.2.2.1) h
theorem State.queue_of_outer {s t : State} (h : t.outer = s.outer) : t.queue = s.queue :=
  congrArg (fun o => o.1.2.2.2.2.2.2.1) h
theorem State.census_of_outer {s t : State} (h : t.outer = s.outer) : t.census = s.census :=
  congrArg (fun o => o.1.2.2.2.2.2.2.2.2.2) h
theorem State.arb_of_outer {s t : State} (h : t.outer = s.outer) : t.arb = s.arb := congrArg (fun o => o.2.2.2.2.1) h
theorem State.timers_of_outer {s t : State} (h : t.outer = s.outer) : t.timers = s.timers :=
  congrArg (fun o => o.2.2.2.2.2.2.2.2.1) h
theorem State.pending_of_outer {s t : State} (h : t.outer = s.outer) : t.pending = s.pending :=
  congrArg (fun o => o.2.2.2.2.2.2.2.2.2.2) h

/-! ### The link unit: replies are placed, and nothing else -/

/-- The link unit has placed some replies and nothing else has happened to it: each took its reservation with it. -/
def Link.Placed (l m : Link) : Prop :=
  ∃ rs : List Report, m = { l with reports := l.reports ++ rs, reservations := l.reservations - rs.length } ∧
    rs.length ≤ l.reservations

theorem Link.placed_refl (l : Link) : l.Placed l := ⟨[], by simp, by simp⟩

theorem Link.placed_trans {l m n : Link} (h : l.Placed m) (h' : m.Placed n) : l.Placed n := by
  obtain ⟨rs, rfl, hr⟩ := h
  obtain ⟨rs', rfl, hr'⟩ := h'
  refine ⟨rs ++ rs', ?_, ?_⟩
  · simp [List.append_assoc, Nat.sub_sub]
  · simp only [List.length_append] at *; omega

theorem Link.placed_place (l : Link) (r : Report) : l.Placed (l.place r) := by
  simp only [Link.place]
  split
  · exact l.placed_refl
  · exact ⟨[r], rfl, by simp; omega⟩

/-- The law of the report queue's room is kept by placing replies (R164). -/
theorem Link.placed_room {l m : Link} (h : l.Placed m) (k : Nat) (hl : l.reports.length + l.reservations ≤ k) :
    m.reports.length + m.reservations ≤ k := by
  obtain ⟨rs, rfl, hr⟩ := h
  simp only [List.length_append]
  omega

theorem State.placed_each {α : Type} (f : α → State → State) (hf : ∀ (x : α) (s : State), s.link.Placed (f x s).link) (xs : List α)
    (s : State) : s.link.Placed (s.each xs f).link := by
  induction xs generalizing s with
  | nil => exact s.link.placed_refl
  | cons x xs ih => exact Link.placed_trans (hf x s) (ih (f x s))

theorem State.placed_replyNow (s : State) (r : PendingReply) : s.link.Placed (s.replyNow r).link :=
  s.link.placed_place _

theorem State.placed_applyStoreOp (op : StoreOp) (s : State) : s.link.Placed (s.applyStoreOp op).link := by
  cases op with
  | put a bs r =>
    cases r with
    | none => exact s.link.placed_refl
    | some r => exact s.link.placed_place _
  | get a n r =>
    cases r with
    | none => exact s.link.placed_refl
    | some r => exact s.link.placed_place _
  | zero b n rs => exact State.placed_each _ (fun r t => t.placed_replyNow r) rs _

theorem State.placed_submitStoreOp (op : StoreOp) (s : State) : s.link.Placed (s.submitStoreOp op).link := by
  simp only [State.submitStoreOp]
  split
  · exact s.link.placed_refl
  · exact s.placed_applyStoreOp op

theorem State.placed_runStoreWaits (s : State) : s.link.Placed s.runStoreWaits.link := by
  simp only [State.runStoreWaits]
  exact State.placed_each State.applyStoreOp (fun op t => t.placed_applyStoreOp op) s.storeWaits { s with storeWaits := [] }

theorem State.placed_placeRegion (id : RegionId) (f : RegionFields) (rs : List PendingReply) (s : State) :
    s.link.Placed (s.placeRegion id f rs).link := by
  simp only [State.placeRegion]
  split
  · exact State.placed_submitStoreOp _ ((s.modRegion id _).modShip id _)
  · exact State.placed_each _ (fun r t => t.placed_replyNow r) rs ((s.modRegion id _).modShip id _)

theorem State.placed_removeRegion (id : RegionId) (s : State) : s.link.Placed (s.removeRegion id).link := by
  simp only [State.removeRegion]
  split
  · exact State.placed_placeRegion _ _ _ { s with written := setRemove id s.written }
  · exact State.placed_each _ (fun _ t => t.placed_replyNow _) _
      (State.modRegion { s with written := setRemove id s.written } id fun _ => {})

theorem State.placed_mapPassEnded (id : RegionId) (s : State) : s.link.Placed (s.mapPassEnded id).link := by
  have h := State.placed_each (fun tag (t : State) => t.replyNow ⟨kRegionFlush, tag, .empty⟩)
    (fun _ t => t.placed_replyNow _) s.regions[id].flushWaiters (s.modRegion id fun g => { g with flushWaiters := [] })
  simp only [State.mapPassEnded]
  split
  · exact Link.placed_trans h (State.placed_removeRegion id _)
  · exact h

theorem State.placed_endPass (id : RegionId) (s : State) : s.link.Placed (s.endPass id).link := by
  have h := State.each_keeps State.link
    (fun c (t : State) => t.modChan c fun ch => { ch with awaitedRegions := setRemove id ch.awaitedRegions })
    s.regions[id].ship.waiters.chans (by intros; rfl)
    (s.modShip id fun q => { q with running := false, waiters := {} })
  have key : ∀ u : State, u.link = s.link →
      s.link.Placed (if s.regions[id].ship.waiters.map then u.mapPassEnded id else u).link := by
    intro u hu
    rw [← hu]
    split
    · exact u.placed_mapPassEnded id
    · exact u.link.placed_refl
  refine key _ ?_
  split
  · exact h
  · exact h

theorem State.placed_beginPass (id : RegionId) (s : State) : s.link.Placed (s.beginPass id).link := by
  simp only [State.beginPass]
  split
  · exact State.placed_endPass id (s.modShip id _)
  · exact s.link.placed_refl

theorem State.placed_trigger (id : RegionId) (s : State) : s.link.Placed (s.trigger id).link := by
  simp only [State.trigger]
  split
  · exact s.placed_beginPass id
  · exact s.link.placed_refl

theorem State.placed_demand (id : RegionId) (d : Demander) (s : State) : s.link.Placed (s.demand id d).link := by
  simp only [State.demand]
  split
  · exact s.link.placed_refl
  · exact State.placed_beginPass id (s.modShip id _)

theorem State.placed_thresholdCheck (id : RegionId) (s : State) : s.link.Placed (s.thresholdCheck id).link := by
  simp only [State.thresholdCheck]
  split
  · exact s.placed_trigger id
  · exact s.link.placed_refl

theorem State.placed_trickleRegion (id : RegionId) (s : State) : s.link.Placed (s.trickleRegion id).link := by
  simp only [State.trickleRegion]
  split
  · exact State.placed_trigger id (s.modShip id _)
  · exact s.link.placed_refl

theorem State.placed_trickleUpdate (s : State) : s.link.Placed s.trickleUpdate.link :=
  State.placed_each State.trickleRegion (fun id t => t.placed_trickleRegion id) (List.finRange 16) s

theorem State.placed_demandLinked (l : LineId) (s : State) : s.link.Placed (s.demandLinked l).link := by
  simp only [State.demandLinked]
  split
  · exact s.link.placed_refl
  · split
    · exact s.link.placed_refl
    · exact State.placed_demand _ _ (s.modRelay _)

theorem State.placed_formNotice (ls : List LineId) (o : Origin) (s : State) :
    s.link.Placed (s.formNotice ls o).link := by
  simp only [State.formNotice, State.modRelay_link]
  refine Link.placed_trans (m := _) ?_ (State.placed_each _ (fun l t => t.placed_demandLinked l) ls _)
  rw [State.modRelay_link, State.each_keeps State.link _ ls (by intros; rfl)]
  exact s.link.placed_refl

theorem State.placed_expireHoldoff (s : State) : s.link.Placed s.expireHoldoff.link := by
  simp only [State.expireHoldoff]
  split
  · exact s.link.placed_refl
  · exact State.placed_formNotice _ _ (s.modRelay _)

theorem State.placed_relayCheck (s : State) : s.link.Placed s.relayCheck.link := by
  simp only [State.relayCheck]
  split
  · exact s.link.placed_refl
  · split
    · exact s.link.placed_refl
    · exact s.placed_formNotice _ _
    · split
      · exact State.placed_expireHoldoff (s.modRelay _)
      · exact s.link.placed_refl

theorem State.placed_syncLines (s : State) : s.link.Placed s.syncLines.link := by
  simp only [State.syncLines]
  refine Link.placed_trans (m := _) ?_ (State.placed_relayCheck _)
  refine Link.placed_trans (m := _) ?_ (State.placed_trickleUpdate _)
  rw [State.each_keeps State.link _ _ (by intros; rfl)]
  exact s.link.placed_refl

theorem State.placed_addCause (c : ChanId) (k : Cause) (s : State) : s.link.Placed (s.addCause c k).link := by
  simp only [State.addCause]
  split
  · exact s.link.placed_refl
  · exact State.placed_demand _ _ ((s.modChan c _).modChan c _)

theorem State.placed_maskChan (c : ChanId) (r : MaskReason) (s : State) : s.link.Placed (s.maskChan c r).link := by
  simp only [State.maskChan, State.answerMasks]
  exact State.placed_each _ (fun _ t => t.link.placed_place _) _
    ((s.modChan c fun ch => { ch with state := .masked, maskReason := some r, maskPending := none }).modChan c _)

end Sys2Proof.Machine
end

