-- ==== Sys2Proof/Laws/LinkUnit.lean ====
section
/-! SUPPORT. Reading a record: what a request that is read and routed at once does, once for every request; the reply that joins
the queue with it; and the arbiter while the bus has an owner. -/

namespace Sys2Proof.Machine

/-- The reply to a record just read joins the tail, and reservations stand as before the reading. -/
theorem Link.place_readRecord (l : Link) (now : Time) (more : Bool) (r : Report) :
    (l.readRecord now more).place r = l.answered now more r := by
  simp only [Link.place, Link.readRecord, Link.answered, parserAfter, watchdogFrom]
  simp

theorem Link.readRecord_eq_taken (l : Link) (now : Time) (more : Bool) : l.readRecord now more = l.taken now more := rfl

/-- A record that can be read at once is read, and what follows its reading follows. -/
theorem offerRecord_reads (c : Instr) (more : Bool) (take : State → State) (s : State) (h : Reads s) :
    offerRecord c more take s = take { s with link := s.link.taken s.now more } := by
  obtain ⟨hc, hp, hd, hr⟩ := h
  simp only [offerRecord, hc, hp, hd, hr, List.isEmpty_nil, Bool.not_true, Bool.false_eq_true, if_false, if_true]
  rfl

/-- A record that passes the checks and that nothing holds goes to its owner. -/
theorem checkRecord_passes (c : Instr) (h : Hdr) (kind length getCount : Nat) (serve : State → State) (s : State)
    (hl : length ≤ Config.maxPayload) (ht : h.tag ≠ 0) (hk : recordCheck kind length getCount = .ok)
    (hh : s.holdCause kind h.ordered = none) : checkRecord c h kind length getCount serve s = serve s := by
  simp only [checkRecord, if_neg (Nat.not_lt.mpr hl), if_neg ht, hk, hh]

/-- A request other than BATCH that is served at once. -/
theorem takeRequest_served (c : Instr) (h : Hdr) (kind length getCount : Nat) (serve : State → State) (s : State)
    (hs : Served s h) (hb : kind ≠ kBatch) (hl : length ≤ Config.maxPayload)
    (hk : recordCheck kind length getCount = .ok) :
    takeRequest c h kind length getCount serve s = .next (serve { s with link := s.link.taken s.now h.more }) := by
  obtain ⟨hr, ht, ho⟩ := hs
  rw [takeRequest, offerRecord_reads c h.more _ s hr]
  rw [checkRecord_passes c h kind length getCount serve _ hl ht hk]
  simp only [State.holdCause, if_neg hb]
  rcases ho with ho | ho <;> simp [ho]

/-- A BATCH that is read with a place free in the cycle queue. -/
theorem takeRequest_batch (c : Instr) (h : Hdr) (length getCount : Nat) (serve : State → State) (s : State)
    (hs : Reads s) (ht : h.tag ≠ 0) (hq : s.queue.length < Config.queueCapacity) (hl : length ≤ Config.maxPayload)
    (hk : recordCheck kBatch length getCount = .ok) :
    takeRequest c h kBatch length getCount serve s = .next (serve { s with link := s.link.taken s.now h.more }) := by
  rw [takeRequest, offerRecord_reads c h.more _ s hs]
  rw [checkRecord_passes c h kBatch length getCount serve _ hl ht hk]
  simp only [State.holdCause, if_true, if_neg (Nat.not_le.mpr hq)]

/-- The reply placed by the owner of a request just read. -/
theorem Link.place_taken (l : Link) (now : Time) (more : Bool) (r : Report) :
    (l.taken now more).place r = l.answered now more r := l.place_readRecord now more r

/-- A refusal of a request just read. -/
theorem State.refuse_taken (s : State) (h : Hdr) (kind : Nat) (st : Status) :
    State.refuse { s with link := s.link.taken s.now h.more } kind h.tag st = s.answered h kind st .empty := by
  simp only [State.refuse, State.reply, State.modLink, State.answered, replyKind, Link.place_taken]

/-- A reply to a request just read. -/
theorem State.reply_taken (s : State) (h : Hdr) (kind : Nat) (st : Status) (b : Body) :
    State.reply { s with link := s.link.taken s.now h.more } kind h.tag st b = s.answered h kind st b := by
  simp only [State.reply, State.modLink, State.answered, replyKind, Link.place_taken]

/-- With the bus owned, a claim waits (R40). -/
theorem State.arbitrate_owned (s : State) (h : s.arb.owner ≠ .none) : s.arbitrate = s := by
  simp [State.arbitrate, h]

/-- With no claim, the bus stays as it is. -/
theorem State.arbitrate_quiet (s : State) (h : s.anyClaim = false) : s.arbitrate = s := by
  simp [State.arbitrate, h]

/-- What taking a waiting record can do: the command ran with those behind it out of the pipe, and they wait again after it (R167). -/
theorem State.takeWaiting_next {c : Instr} {rest : List Instr} {s t : State} (h : s.takeWaiting c rest = .next t) :
    ∃ u : State, exec c { s with link := { s.link with pipe := [], behind := rest } } = .next u ∧
      t = { u with link := { u.link with pipe := u.link.pipe ++ rest, behind := [] } } := by
  unfold State.takeWaiting at h
  split at h
  · rename_i u hu
    cases h
    exact ⟨u, hu, rfl⟩
  · cases h
  · cases h

/-- After every change that the cycle has seen, the switches as they stand tell. -/
@[simp] theorem State.connectedAfter_last (s : State) (switched : List (List SlotId)) (i : SlotId) :
    s.connectedAfter switched switched.length i = s.connected i := by
  simp [State.connectedAfter]

/-- Before the change that a slot list was kept for, that list tells (R13). -/
theorem State.connectedAfter_before (s : State) (b : List SlotId) (before after : List (List SlotId)) (i : SlotId) :
    s.connectedAfter (before ++ b :: after) before.length i = b.contains i := by
  simp [State.connectedAfter]

/-- With no sample that found ready held, none counts. -/
@[simp] theorem State.readyHeld_nil (s : State) (sw : List (List SlotId)) (e : BusEnd) (h : e.held = []) : s.readyHeld sw e = 0 := by
  simp [State.readyHeld, h]

/-- Samples that each find ready held all count (R21). -/
theorem State.readyHeld_append (s : State) (sw : List (List SlotId)) (e : BusEnd) (before after : List LineSample)
    (h : ∀ x ∈ before, s.finds sw x = true) : s.readyHeld sw { e with held := before ++ after } =
      before.length + s.readyHeld sw { e with held := after } := by
  simp only [State.readyHeld, List.takeWhile_append_of_pos h, List.length_append]

/-- The first sample that finds ready released ends the count (R12, R13). -/
theorem State.readyHeld_cons_released (s : State) (sw : List (List SlotId)) (e : BusEnd) (x : LineSample)
    (after : List LineSample) (h : s.finds sw x = false) : s.readyHeld sw { e with held := x :: after } = 0 := by
  simp [State.readyHeld, h]

/-- With no card that answers, no data line is driven. -/
@[simp] theorem State.drivenLines_nil (s : State) : s.drivenLines [] = (0, 0) := rfl

/-- A data line is driven high exactly if some connected card drives it so, and low likewise (R12). -/
theorem State.drivenLines_bit (s : State) (as : List Answer) (k : Nat) (hk : k < 16) :
    ((s.drivenLines as).1.getLsbD k = true ↔
      ∃ a ∈ as, s.connected a.slot = true ∧ a.lines.getLsbD k = true ∧ a.data.getLsbD k = true) ∧
    ((s.drivenLines as).2.getLsbD k = true ↔
      ∃ a ∈ as, s.connected a.slot = true ∧ a.lines.getLsbD k = true ∧ a.data.getLsbD k = false) := by
  induction as with
  | nil => simp
  | cons a as ih =>
    have hc : s.drivenLines (a :: as) = if s.connected a.slot then
      ((s.drivenLines as).1 ||| a.lines &&& a.data, (s.drivenLines as).2 ||| a.lines &&& ~~~a.data) else s.drivenLines as := rfl
    rw [hc]
    by_cases h : s.connected a.slot = true
    · simp only [h, if_true, BitVec.getLsbD_or, BitVec.getLsbD_and, BitVec.getLsbD_not, Bool.or_eq_true, ih.1, ih.2,
        List.exists_mem_cons_iff, Bool.and_eq_true, hk, decide_true, Bool.true_and, Bool.not_eq_true', true_and]
      exact ⟨Or.comm, Or.comm⟩
    · simp only [Bool.not_eq_true] at h
      simp [h, ih.1, ih.2]

/-- Only an access whose width the select decides is resolved by it (R27, R29). -/
theorem State.resolved_of_ne (s : State) (a : Access) (e : BusEnd) (h : a.plan ≠ .bySelect) : s.resolved a e = a.plan := by
  simp only [State.resolved]

/-- The select asserted by a slot connected when it was sampled makes one 16-bit cycle, and by none two 8-bit cycles (R12, R27, R29). -/
theorem State.resolved_bySelect (s : State) (a : Access) (e : BusEnd) (h : a.plan = .bySelect) :
    s.resolved a e = if s.finds a.switched e.select then .one16 else .two8 := by
  simp only [State.resolved, h]

/-- An access never stands resolved by the select once that is sampled. -/
theorem State.resolved_ne_bySelect (s : State) (a : Access) (e : BusEnd) : s.resolved a e ≠ .bySelect := by
  simp only [State.resolved]
  split
  · split <;> simp
  · assumption

/-- A card whose slot is isolated sees nothing of the card bus (R12). -/
theorem State.seenBy_isolated (s : State) (i : SlotId) (h : s.connected i = false) : s.seenBy i = (none, none) := by
  simp [State.seenBy, h]

@[simp] theorem InFlight.addChange_access (b : List SlotId) (a : Access) :
    InFlight.addChange b (.access a) = .access { a with switched := a.switched ++ [b] } := rfl
@[simp] theorem InFlight.addChange_transfer (b : List SlotId) (t : Transfer) :
    InFlight.addChange b (.transfer t) = .transfer { t with switched := t.switched ++ [b] } := rfl
@[simp] theorem InFlight.addChange_refresh (b : List SlotId) (r : RefreshCycle) :
    InFlight.addChange b (.refresh r) = .refresh r := rfl
@[simp] theorem InFlight.addChange_none (b : List SlotId) : InFlight.addChange b .none = .none := rfl

/-- Nothing but the cycle on the bus sees a change of the switches. -/
theorem State.noteSwitches_eq (s was : State) :
    s.noteSwitches was = { s with inFlight := (s.noteSwitches was).inFlight } := by
  simp only [State.noteSwitches]
  split <;> rfl

/-- With the switches as they were, the cycle on the bus has seen no change. -/
theorem State.noteSwitches_of_eq {s was : State} (h : s.connectedSlots = was.connectedSlots) : s.noteSwitches was = s := by
  simp only [State.noteSwitches, h, if_pos]

/-- With another slot connected, the slots connected before are kept with the cycle on the bus (R13, R21). -/
theorem State.noteSwitches_of_ne {s was : State} (h : s.connectedSlots ≠ was.connectedSlots) :
    s.noteSwitches was = { s with inFlight := s.inFlight.addChange was.connectedSlots } := by
  simp only [State.noteSwitches, h, if_false]

end Sys2Proof.Machine
end

