-- ==== Sys2Proof/Laws/Calm.lean ====
section
/-! SUPPORT. What everything that follows a command by itself leaves alone (a pass, the relay's notice, a mask, a grant of the bus, a
release by a master): once for every shared operation. -/

namespace Sys2Proof.Machine

/-- `Apart`, with what makes it compose: a settled state stays settled. -/
def State.Calm (s t : State) : Prop :=
  t.kept = s.kept ∧ (∀ c : ChanId, t.chans[c].program = s.chans[c].program) ∧
    (∃ more : List Report, t.link.reports = s.link.reports ++ more) ∧
    (s.Settled → t.store = s.store ∧ t.Settled)

theorem State.Calm.apart {s t : State} (h : s.Calm t) : s.Apart t :=
  ⟨h.1, h.2.1, h.2.2.1, fun hs => (h.2.2.2 hs).1⟩

theorem State.calm_refl (s : State) : s.Calm s := ⟨rfl, fun _ => rfl, ⟨[], by simp⟩, fun h => ⟨rfl, h⟩⟩

theorem State.calm_trans {s t u : State} (h : s.Calm t) (h' : t.Calm u) : s.Calm u := by
  obtain ⟨hk, hp, ⟨m, hm⟩, hs⟩ := h
  obtain ⟨hk', hp', ⟨m', hm'⟩, hs'⟩ := h'
  refine ⟨hk'.trans hk, fun c => (hp' c).trans (hp c), ⟨m ++ m', by rw [hm', hm, List.append_assoc]⟩, fun h => ?_⟩
  obtain ⟨h1, h2⟩ := hs h
  obtain ⟨h3, h4⟩ := hs' h2
  exact ⟨h3.trans h1, h4⟩

theorem State.calm_each {α : Type} (f : α → State → State) (hf : ∀ (x : α) (s : State), s.Calm (f x s)) (xs : List α)
    (s : State) : s.Calm (s.each xs f) := by
  induction xs generalizing s with
  | nil => exact s.calm_refl
  | cons x xs ih => exact State.calm_trans (hf x s) (ih (f x s))

/-! ### The kept fields one by one -/

theorem State.now_of_kept {s t : State} (h : t.kept = s.kept) : t.now = s.now := congrArg (fun k => k.1.1) h
theorem State.slots_of_kept {s t : State} (h : t.kept = s.kept) : t.slots = s.slots := congrArg (fun k => k.1.2.1) h
theorem State.drives_of_kept {s t : State} (h : t.kept = s.kept) : t.drives = s.drives :=
  congrArg (fun k => k.1.2.2.2.1) h
theorem State.bus_of_kept {s t : State} (h : t.kept = s.kept) : t.bus = s.bus := congrArg (fun k => k.1.2.2.2.2.1) h
theorem State.rules_of_kept {s t : State} (h : t.kept = s.kept) : t.rules = s.rules :=
  congrArg (fun k => k.1.2.2.2.2.2) h
theorem State.census_of_kept {s t : State} (h : t.kept = s.kept) : t.census = s.census := congrArg (fun k => k.2.1) h
theorem State.timers_of_kept {s t : State} (h : t.kept = s.kept) : t.timers = s.timers :=
  congrArg (fun k => k.2.2.1) h
theorem State.heldOpen_of_kept {s t : State} (h : t.kept = s.kept) : t.heldOpen = s.heldOpen :=
  congrArg (fun k => k.2.2.2.1) h
theorem State.pending_of_kept {s t : State} (h : t.kept = s.kept) : t.pending = s.pending :=
  congrArg (fun k => k.2.2.2.2.2) h

/-! ### Updates of one block -/

theorem State.calm_reply (s : State) (k t : Nat) (st : Status) (b : Body) : s.Calm (s.reply k t st b) := by
  refine ⟨rfl, fun _ => rfl, ?_, fun h => ⟨rfl, h⟩⟩
  simp only [State.reply, State.modLink, Link.place]
  split
  · exact ⟨[], by simp⟩
  · exact ⟨_, rfl⟩

theorem State.calm_replyNow (s : State) (r : PendingReply) : s.Calm (s.replyNow r) := s.calm_reply _ _ _ _

theorem State.calm_notice (s : State) (n : Notice) : s.Calm (s.notice n) :=
  ⟨rfl, fun _ => rfl, ⟨_, rfl⟩, fun h => ⟨rfl, h⟩⟩

theorem State.calm_modRelay (s : State) (f : Relay → Relay) : s.Calm (s.modRelay f) :=
  ⟨rfl, fun _ => rfl, ⟨[], by simp [State.modRelay]⟩, fun h => ⟨rfl, h⟩⟩

theorem State.calm_modArb (s : State) (f : Arbiter → Arbiter) : s.Calm (s.modArb f) :=
  ⟨rfl, fun _ => rfl, ⟨[], by simp [State.modArb]⟩, fun h => ⟨rfl, h⟩⟩

theorem State.calm_modLine (s : State) (l : LineId) (f : Line → Line) : s.Calm (s.modLine l f) :=
  ⟨rfl, fun _ => rfl, ⟨[], by simp [State.modLine]⟩, fun h => ⟨rfl, h⟩⟩

theorem State.chans_modChan (s : State) (c d : ChanId) (f : Chan → Chan) :
    (s.modChan c f).chans[d] = if d = c then f s.chans[c] else s.chans[d] := by
  simp only [State.modChan, Fin.getElem_fin, Vector.getElem_set, Fin.ext_iff, eq_comm]

theorem State.regions_modRegion (s : State) (c d : RegionId) (f : Region → Region) :
    (s.modRegion c f).regions[d] = if d = c then f s.regions[c] else s.regions[d] := by
  simp only [State.modRegion, Fin.getElem_fin, Vector.getElem_set, Fin.ext_iff, eq_comm]

/-- A choice between two calm outcomes. -/
theorem State.calm_ite {p : Prop} [Decidable p] {s t u : State} (h : s.Calm t) (h' : s.Calm u) :
    s.Calm (if p then t else u) := by
  split
  · exact h
  · exact h'

/-- A change of a channel that leaves its program and position. -/
theorem State.calm_modChan (s : State) (c : ChanId) (f : Chan → Chan) (hf : ∀ ch : Chan, (f ch).program = ch.program) :
    s.Calm (s.modChan c f) := by
  refine ⟨rfl, fun d => ?_, ⟨[], by simp [State.modChan]⟩, fun h => ⟨rfl, h⟩⟩
  rw [State.chans_modChan]
  split
  · next h => rw [hf, h]
  · rfl

/-- A change of a region that gives it no successor. -/
theorem State.calm_modRegion (s : State) (r : RegionId) (f : Region → Region)
    (hf : ∀ g : Region, g.successor = none → (f g).successor = none) : s.Calm (s.modRegion r f) := by
  refine ⟨rfl, fun _ => rfl, ⟨[], by simp [State.modRegion]⟩, fun h => ⟨rfl, h.1, fun q => ?_⟩⟩
  rw [State.regions_modRegion]
  split
  · exact hf _ (h.2 r)
  · exact h.2 q

theorem State.calm_modShip (s : State) (r : RegionId) (f : ShipQueue → ShipQueue) : s.Calm (s.modShip r f) :=
  s.calm_modRegion r _ fun _ h => h

/-! ### Ship passes -/

/-- What changes none of the four is calm. -/
theorem State.calm_of_eq {s t : State} (hk : t.kept = s.kept) (hc : t.chans = s.chans)
    (hl : ∃ more : List Report, t.link.reports = s.link.reports ++ more) (hs : t.store = s.store)
    (hw : t.storeWaits = s.storeWaits) (hr : t.regions = s.regions) : s.Calm t :=
  ⟨hk, fun c => by rw [hc], hl, fun h => ⟨hs, hw.trans h.1, fun r => by rw [hr]; exact h.2 r⟩⟩

theorem State.kept_of_outer {s t : State} (h : t.outer = s.outer) : t.kept = s.kept := by
  simp only [State.outer, Prod.mk.injEq] at h
  simp only [State.kept, h]

theorem State.chans_applyStoreOp (op : StoreOp) (s : State) : (s.applyStoreOp op).chans = s.chans := by
  have h (rs : List PendingReply) (s : State) : (s.each rs fun r t => t.replyNow r).chans = s.chans := by
    induction rs generalizing s with
    | nil => rfl
    | cons r rs ih => exact ih (s.replyNow r)
  cases op <;> simp only [State.applyStoreOp]
  · split <;> rfl
  · split <;> rfl
  · exact h _ _

theorem State.chans_submitStoreOp (op : StoreOp) (s : State) : (s.submitStoreOp op).chans = s.chans := by
  simp only [State.submitStoreOp]
  split
  · rfl
  · exact s.chans_applyStoreOp op

theorem Link.placed_reports {l m : Link} (h : l.Placed m) : ∃ more, m.reports = l.reports ++ more := by
  obtain ⟨rs, rfl, -⟩ := h
  exact ⟨rs, rfl⟩

theorem State.chans_each {α : Type} (f : α → State → State) (hf : ∀ x s, (f x s).chans = s.chans) (xs : List α)
    (s : State) : (s.each xs f).chans = s.chans := by
  induction xs generalizing s with
  | nil => rfl
  | cons x xs ih => exact (ih (f x s)).trans (hf x s)

theorem State.chans_placeRegion (id : RegionId) (f : RegionFields) (rs : List PendingReply) (s : State) :
    (s.placeRegion id f rs).chans = s.chans := by
  simp only [State.placeRegion]
  split
  · exact State.chans_submitStoreOp _ _
  · exact State.chans_each _ (by intros; rfl) _ _

theorem State.chans_removeRegion (id : RegionId) (s : State) : (s.removeRegion id).chans = s.chans := by
  dsimp only [State.removeRegion]
  cases s.regions[id].successor with
  | some f => exact State.chans_placeRegion _ _ _ _
  | none => exact State.chans_each (fun (w : DropWaiter) t => t.replyNow (w.reply id {})) (by intros; rfl) _ _

theorem State.calm_removeRegion (id : RegionId) (s : State) : s.Calm (s.removeRegion id) := by
  refine ⟨State.kept_of_outer (by simp), fun c => by simp only [State.chans_removeRegion],
    Link.placed_reports (s.placed_removeRegion id), fun h => ?_⟩
  have hm : s.Calm ({ s with written := setRemove id s.written } : State) :=
    State.calm_of_eq rfl rfl ⟨[], by simp⟩ rfl rfl rfl
  have h1 := State.calm_trans hm (State.calm_modRegion _ id (fun _ => ({} : Region)) fun _ _ => rfl)
  have h2 := (State.calm_trans h1 (State.calm_each (fun (w : DropWaiter) t => t.replyNow (w.reply id {}))
    (fun w t => t.calm_replyNow _) s.regions[id].dropWaiters _)).2.2.2 h
  have hn := h.2 id
  unfold State.removeRegion
  simp only [hn]
  exact h2

theorem State.calm_relayPassEnded (id : RegionId) (s : State) : s.Calm (s.relayPassEnded id) := s.calm_modRelay _

theorem State.calm_mapPassEnded (id : RegionId) (s : State) : s.Calm (s.mapPassEnded id) := by
  simp only [State.mapPassEnded]
  have h := State.calm_trans (s.calm_modRegion id (fun g => { g with flushWaiters := [] }) fun _ h => h)
    (State.calm_each (fun (tag : Nat) t => t.replyNow ⟨kRegionFlush, tag, .empty⟩) (fun w t => t.calm_replyNow _)
      s.regions[id].flushWaiters _)
  split
  · exact State.calm_trans h (State.calm_removeRegion id _)
  · exact h

theorem State.calm_endPass (id : RegionId) (s : State) : s.Calm (s.endPass id) := by
  have h1 := s.calm_modShip id fun q => { q with running := false, waiters := {} }
  have h2 := State.calm_trans h1 (State.calm_each
    (fun (c : ChanId) t => t.modChan c fun ch => { ch with awaitedRegions := setRemove id ch.awaitedRegions })
    (fun c t => t.calm_modChan c _ fun _ => rfl) s.regions[id].ship.waiters.chans _)
  have h3 := State.calm_trans h2 (State.calm_ite (p := s.regions[id].ship.waiters.relay = true)
    (State.calm_relayPassEnded id _) (State.calm_refl _))
  exact State.calm_trans h3 (State.calm_ite (State.calm_mapPassEnded id _) (State.calm_refl _))

theorem State.calm_fillLine (s : State) (ids : List RegionId) : s.Calm { s with fillLine := ids } :=
  State.calm_of_eq rfl rfl ⟨[], by simp⟩ rfl rfl rfl

theorem State.calm_beginPass (id : RegionId) (s : State) : s.Calm (s.beginPass id) := by
  simp only [State.beginPass]
  refine State.calm_trans (s.calm_modShip id fun q => { q with running := true }) ?_
  split
  · exact State.calm_endPass id _
  · exact State.calm_fillLine _ _

theorem State.calm_trigger (id : RegionId) (s : State) : s.Calm (s.trigger id) := by
  simp only [State.trigger]
  split
  · exact s.calm_beginPass id
  · exact s.calm_refl

theorem State.calm_demand (id : RegionId) (d : Demander) (s : State) : s.Calm (s.demand id d) := by
  simp only [State.demand]
  refine State.calm_trans (s.calm_modShip id fun q => { q with waiters := q.waiters.add d }) ?_
  split
  · exact State.calm_refl _
  · exact State.calm_beginPass id _

theorem State.calm_handByte (id : RegionId) (off : Nat) (s : State) : s.Calm (s.handByte id off) :=
  s.calm_modRegion id _ fun _ h => h

theorem State.calm_thresholdCheck (id : RegionId) (s : State) : s.Calm (s.thresholdCheck id) := by
  simp only [State.thresholdCheck]
  split
  · exact s.calm_trigger id
  · exact s.calm_refl

theorem State.calm_trickleRegion (id : RegionId) (s : State) : s.Calm (s.trickleRegion id) := by
  simp only [State.trickleRegion]
  refine State.calm_trans (s.calm_modShip id fun q => { q with trickling := s.isTrickling id }) ?_
  split
  · exact State.calm_trigger id _
  · exact State.calm_refl _

theorem State.calm_trickleUpdate (s : State) : s.Calm s.trickleUpdate :=
  State.calm_each _ State.calm_trickleRegion _ s

theorem State.calm_admitFill (id : RegionId) (s : State) : s.Calm (s.admitFill id) :=
  State.calm_trans (State.calm_trans (State.calm_trans (s.calm_fillLine s.fillLine.tail) (State.calm_modShip _ id _))
    (State.calm_notice _ _)) (State.calm_ite (State.calm_endPass id _) (State.calm_fillLine _ _))

theorem State.calm_admitFills (n : Nat) (s : State) : s.Calm (State.admitFills n s) := by
  induction n generalizing s with
  | zero => exact s.calm_refl
  | succ n ih =>
    simp only [State.admitFills]
    split
    · split
      · exact State.calm_trans (s.calm_admitFill _) (ih _)
      · exact s.calm_refl
    · exact s.calm_refl

/-! ### The relay's notice in hand -/

theorem State.calm_demandLinked (l : LineId) (s : State) : s.Calm (s.demandLinked l) := by
  simp only [State.demandLinked]
  split
  · exact s.calm_refl
  · split
    · exact s.calm_refl
    · exact State.calm_trans (s.calm_modRelay _) (State.calm_demand _ _ _)

theorem State.calm_formNotice (ls : List LineId) (o : Origin) (s : State) : s.Calm (s.formNotice ls o) := by
  simp only [State.formNotice]
  refine State.calm_trans (State.calm_each (fun (l : LineId) t => t.modLine l fun r => { r with chosen := true })
    (fun l t => t.calm_modLine l _) ls s) ?_
  refine State.calm_trans (State.calm_modRelay _ fun r => { r with origin := o }) ?_
  exact State.calm_trans (State.calm_each _ State.calm_demandLinked ls _) (State.calm_modRelay _ _)

theorem State.calm_expireHoldoff (s : State) : s.Calm s.expireHoldoff := by
  simp only [State.expireHoldoff]
  split
  · exact s.calm_modRelay _
  · exact State.calm_trans (s.calm_modRelay _) (State.calm_formNotice _ _ _)

theorem State.calm_relayCheck (s : State) : s.Calm s.relayCheck := by
  simp only [State.relayCheck]
  split
  · exact s.calm_refl
  · split
    · exact s.calm_refl
    · exact s.calm_formNotice _ _
    · split
      · exact State.calm_trans (s.calm_modRelay _) (State.calm_expireHoldoff _)
      · exact s.calm_modRelay _

theorem State.calm_withdraw (l : LineId) (s : State) : s.Calm (s.withdraw l) := by
  simp only [State.withdraw]
  split
  · exact State.calm_trans (s.calm_modLine l _) (State.calm_modRelay _ _)
  · exact s.calm_modLine l _

theorem State.calm_syncLines (s : State) : s.Calm s.syncLines := by
  simp only [State.syncLines]
  exact State.calm_trans (State.calm_each State.syncLine (fun l t => t.calm_modLine l _) (List.finRange 11) s)
    (State.calm_trans (State.calm_trickleUpdate _) (State.calm_relayCheck _))

/-! ### Causes, masks and grants -/

theorem Chan.program_addCause (ch : Chan) (now : Time) (k : Cause) : (ch.addCause now k).program = ch.program := by
  cases k <;> rfl

theorem State.calm_addCause (c : ChanId) (k : Cause) (s : State) : s.Calm (s.addCause c k) := by
  have h1 := s.calm_modChan c (·.addCause s.now k) fun ch => ch.program_addCause s.now k
  unfold State.addCause
  generalize hu : (s.modChan c fun x => x.addCause s.now k) = u at h1 ⊢
  dsimp only
  cases u.mirrorAt u.chans[c].lastSystemAddress with
  | none => exact h1
  | some id => exact State.calm_trans h1 (State.calm_trans 
    (u.calm_modChan c (fun ch => { ch with awaitedRegions := setInsert id ch.awaitedRegions }) fun _ => rfl)
    (State.calm_demand id _ _))

theorem State.calm_answerMasks (c : ChanId) (s : State) : s.Calm (s.answerMasks c) := by
  simp only [State.answerMasks]
  exact State.calm_trans (s.calm_modChan c (fun ch => { ch with maskWaiters := [] }) fun _ => rfl)
    (State.calm_each (fun (tag : Nat) t => t.reply kChanMask tag .ok .empty) (fun w t => t.calm_reply _ _ _ _)
      s.chans[c].maskWaiters _)

theorem State.calm_maskChan (c : ChanId) (r : MaskReason) (s : State) : s.Calm (s.maskChan c r) :=
  State.calm_trans (s.calm_modChan c (fun ch => { ch with state := .masked, maskReason := some r, maskPending := none })
    fun _ => rfl) (State.calm_answerMasks c _)

theorem State.calm_startTransfer (c : ChanId) (s : State) : s.Calm (s.startTransfer c).1 := by
  simp only [State.startTransfer]
  split
  · exact State.calm_of_eq rfl rfl ⟨[], by simp⟩ rfl rfl rfl
  · exact State.calm_trans (s.calm_addCause _ _) (State.calm_maskChan _ _ _)

theorem State.calm_beginTenure (c : ChanId) (s : State) : s.Calm (s.beginTenure c) :=
  State.calm_trans (s.calm_modArb fun a => { a with owner := .dma c false, burstCount := 0, burstCap := s.bus.burst })
    (State.calm_modChan _ c (fun ch => { ch with blockOpen := if ch.service = .block then true else ch.blockOpen })
      fun _ => rfl)

theorem State.calm_own (o : Owner) (f : InFlight) (s : State) : s.Calm (s.own o f) :=
  State.calm_of_eq rfl rfl ⟨[], by simp [State.own, State.modArb]⟩ rfl rfl rfl

theorem State.calm_grantLink (s : State) : s.Calm s.grantLink := by
  simp only [State.grantLink]
  split
  · split
    · exact State.calm_of_eq rfl rfl ⟨[], by simp [State.own, State.modArb]⟩ rfl rfl rfl
    · exact s.calm_refl
  · exact s.calm_refl

theorem State.calm_grantTimed (i : TimerId) (s : State) : s.Calm (s.grantTimed i) := by
  simp only [State.grantTimed]
  split
  · split
    · exact State.calm_of_eq rfl rfl ⟨[], by simp [State.own, State.modArb]⟩ rfl rfl rfl
    · exact s.calm_refl
  · exact s.calm_refl

theorem State.calm_grant (n : Nat) (s : State) : s.Calm (s.grant n) := by
  induction n generalizing s with
  | zero => exact s.calm_modArb _
  | succ n ih =>
    simp only [State.grant]
    refine State.calm_trans (s.calm_modArb fun a => { a with owner := .none, yield := s.pick.2 }) ?_
    split
    · exact State.calm_refl _
    · exact State.calm_own _ _ _
    · exact State.calm_grantTimed _ _
    · exact State.calm_grantLink _
    · exact State.calm_own _ _ _
    · split
      · exact State.calm_of_eq rfl rfl ⟨[], by simp [State.grantMaster, State.modArb]⟩ rfl rfl rfl
      · have hb (c : ChanId) (u : State) : u.Calm ((u.beginTenure c).startTransfer c).1 :=
          State.calm_trans (State.calm_beginTenure c u) (State.calm_startTransfer c _)
        split
        · exact hb _ _
        · exact State.calm_trans (hb _ _) (ih _)

theorem State.calm_grantPoint (s : State) : s.Calm s.grantPoint := s.calm_grant 8

theorem State.calm_arbitrate (s : State) : s.Calm s.arbitrate := by
  simp only [State.arbitrate]
  split
  · exact s.calm_grantPoint
  · exact s.calm_refl

theorem State.calm_endDmaTenure (c : ChanId) (s : State) : s.Calm (s.endDmaTenure c) :=
  State.calm_trans (s.calm_modArb _) (State.calm_grantPoint _)

theorem State.calm_handOn (s : State) : s.Calm s.handOn := by
  simp only [State.handOn]
  exact State.calm_trans
    (State.calm_of_eq (t := { s with written := [], free := s.free + 1 }) rfl rfl ⟨[], by simp⟩ rfl rfl rfl)
    (State.calm_each _ State.calm_trigger _ _)

theorem State.calm_masterRelease (c : ChanId) (s : State) : s.Calm (s.masterRelease c) := by
  simp only [State.masterRelease]
  refine State.calm_trans ?_ (State.calm_trans (State.calm_handOn _) (State.calm_grantPoint _))
  split
  · exact s.calm_modChan c _ fun _ => rfl
  · exact s.calm_modChan c _ fun _ => rfl

/-! ### The shared lines -/

theorem Chan.program_requestChange (ch : Chan) (b : Bool) : (ch.requestChange b).program = ch.program := by
  simp only [Chan.requestChange]
  split
  · rfl
  · split <;> rfl
  · split
    · rfl
    · split
      · rfl
      · rfl
      · split <;> rfl
      · split <;> rfl

theorem State.calm_syncRequest (c : ChanId) (s : State) : s.Calm (s.syncRequest c) := by
  simp only [State.syncRequest]
  split
  · exact s.calm_refl
  · split
    · exact s.calm_modChan c _ fun _ => rfl
    · exact s.calm_modChan c _ fun ch => ch.program_requestChange _

theorem State.calm_syncRequests (s : State) : s.Calm s.syncRequests := by
  simp only [State.syncRequests]
  refine State.calm_trans (State.calm_each _ State.calm_syncRequest (List.finRange 7) s) ?_
  refine State.calm_trans ?_ (State.calm_arbitrate _)
  split
  · split
    · exact State.calm_refl _
    · exact State.calm_masterRelease _ _
  · exact State.calm_refl _

/-- What the end of a cycle left by a DEVICE_RESET can do (R38): the settings and the port rules are at their power-on values, and
beside them nothing changes but what a grant of the bus brings. -/
theorem State.calm_orphanEnd (s : State) : State.Calm { s with bus := {}, rules := [] } s.orphanEnd := by
  let at150 := if s.bus.refresh then s.arb.refreshAt else some (refreshFrom s.now ({} : BusSettings).period)
  refine State.calm_trans (t := { s with bus := {}, rules := [], arb := { s.arb with refreshAt := at150 } }) ?_ (State.calm_grantPoint _)
  exact ⟨rfl, fun _ => rfl, ⟨[], by simp⟩, fun h => ⟨rfl, h⟩⟩

theorem State.calm_noteSwitches (s was : State) : s.Calm (s.noteSwitches was) := by
  rw [s.noteSwitches_eq was]
  exact ⟨rfl, fun _ => rfl, ⟨[], by simp⟩, fun h => ⟨rfl, h⟩⟩

theorem State.calm_syncShared (s was : State) : s.Calm (s.syncShared was) :=
  State.calm_trans (s.calm_noteSwitches was) (State.calm_trans (State.calm_syncLines _) (State.calm_syncRequests _))

theorem State.chans_runStoreWaits (s : State) : s.runStoreWaits.chans = s.chans :=
  State.chans_each State.applyStoreOp State.chans_applyStoreOp s.storeWaits _

/-- The store work that waited, on a settled state: none. -/
theorem State.calm_runStoreWaits (s : State) : s.Calm s.runStoreWaits := by
  refine ⟨State.kept_of_outer (by simp), fun c => by simp only [State.chans_runStoreWaits],
    Link.placed_reports s.placed_runStoreWaits, fun h => ?_⟩
  have hr : s.runStoreWaits = { s with storeWaits := [] } := by simp only [State.runStoreWaits, h.1]; rfl
  rw [hr]
  exact ⟨rfl, rfl, h.2⟩

end Sys2Proof.Machine
end

