-- ==== Sys2Proof/Laws/PerInstr.lean ====
section
/-! SUPPORT. Per command: a well-formed request passes the link unit's KIND and SIZE checks (R166), and only requests have a
kind. -/

namespace Sys2Proof.Laws.RecordLength

/-- The payload length of a request's record (11.8). -/
def payloadLength : Instr → Nat
  | .batch _ es => 12 * es.length
  | .mirrorPut _ _ bs => 4 + bs.length
  | .intDone _ ls => ls.length
  | .timerBatch _ _ es => 1 + 12 * es.length
  | .linkSet _ _ | .slotPowerOn _ _ _ | .slotPowerOff _ _ | .portRuleDrop _ _ | .intSet _ _ _ => 2
  | .slotSet _ _ _ _ _ _ | .censusStart _ _ _ => 8
  | .slotPulse _ _ | .slotQuery _ _ | .chanMask _ _ | .chanUnmask _ _ | .chanQuery _ _ | .regionDrop _ _
  | .regionFlush _ _ | .timerQuery _ _ => 1
  | .busSet _ _ | .portRuleSet _ _ _ _ _ _ _ => 10
  | .chanLoad _ _ _ => 14
  | .regionSet _ _ _ => 16
  | .mirrorGet _ _ _ | .timerLoad _ _ _ _ _ => 6
  | .lineSet _ _ _ _ => 3
  | .timerGate _ _ _ _ _ => 4
  | _ => 0

/-- The count field of a MIRROR_GET. -/
def getCount : Instr → Nat
  | .mirrorGet _ _ n => n
  | _ => 0

/-- A well-formed request passes R166; a command that is no request has no kind. -/
def Statement (i : Instr) : Prop :=
  i.wf = true →
    if i.header.isSome then Machine.recordCheck i.kindCode (payloadLength i) (getCount i) = .ok else i.kindCode = 0

theorem hello h : Statement (.hello h) := fun _ => rfl

theorem linkSet h units : Statement (.linkSet h units) := fun _ => rfl

theorem deviceReset h : Statement (.deviceReset h) := fun _ => rfl

theorem slotSet h slot limit5 limit12 hold settle : Statement (.slotSet h slot limit5 limit12 hold settle) := fun _ => rfl

theorem slotPowerOn h slot value : Statement (.slotPowerOn h slot value) := fun _ => rfl

theorem slotPowerOff h slot : Statement (.slotPowerOff h slot) := fun _ => rfl

theorem slotPulse h slot : Statement (.slotPulse h slot) := fun _ => rfl

theorem slotQuery h slot : Statement (.slotQuery h slot) := fun _ => rfl

theorem busSet h r : Statement (.busSet h r) := fun _ => rfl

theorem busQuery h : Statement (.busQuery h) := fun _ => rfl

theorem portRuleSet h first last width odd waitLimit post : Statement (.portRuleSet h first last width odd waitLimit post) := fun _ => rfl

theorem portRuleDrop h port : Statement (.portRuleDrop h port) := fun _ => rfl

theorem batch (h : Hdr) (es : List RawEntry) : Statement (.batch h es) := by
  intro hw
  simp only [Instr.wf, Instr.lengthsOk, Bool.and_eq_true, decide_eq_true_eq] at hw
  obtain ⟨⟨⟨-, hl⟩, -⟩, -⟩ := hw
  simp only [Instr.header, Instr.kindCode, payloadLength, getCount, Option.isSome_some, if_true]
  generalize es.length = k at *
  simp [Machine.recordCheck, Machine.allowedLength, Machine.kMirrorGet]
  omega

theorem censusStart h first past : Statement (.censusStart h first past) := fun _ => rfl

theorem censusStop h : Statement (.censusStop h) := fun _ => rfl

theorem chanLoad h ch p : Statement (.chanLoad h ch p) := fun _ => rfl

theorem chanMask h ch : Statement (.chanMask h ch) := fun _ => rfl

theorem chanUnmask h ch : Statement (.chanUnmask h ch) := fun _ => rfl

theorem chanQuery h ch : Statement (.chanQuery h ch) := fun _ => rfl

theorem regionSet h id r : Statement (.regionSet h id r) := fun _ => rfl

theorem regionDrop h id : Statement (.regionDrop h id) := fun _ => rfl

theorem regionFlush h id : Statement (.regionFlush h id) := fun _ => rfl

theorem mirrorPut (h : Hdr) (addr : Nat) (bs : List Byte) : Statement (.mirrorPut h addr bs) := by
  intro hw
  simp only [Instr.wf, Instr.lengthsOk, Bool.and_eq_true, decide_eq_true_eq] at hw
  obtain ⟨⟨⟨-, hl⟩, -⟩, -⟩ := hw
  simp only [Instr.header, Instr.kindCode, payloadLength, getCount, Option.isSome_some, if_true]
  generalize bs.length = k at *
  simp [Machine.recordCheck, Machine.allowedLength, Machine.kMirrorGet]
  omega

theorem mirrorGet (h : Hdr) (addr n : Nat) : Statement (.mirrorGet h addr n) := by
  intro hw
  simp only [Instr.wf, Instr.lengthsOk, Bool.and_eq_true, decide_eq_true_eq] at hw
  obtain ⟨⟨⟨-, hl⟩, -⟩, -⟩ := hw
  simp only [Instr.header, Instr.kindCode, payloadLength, getCount, Option.isSome_some, if_true]
  simp [Machine.recordCheck, Machine.allowedLength, Machine.kMirrorGet]
  omega

theorem intSet h mode holdoff : Statement (.intSet h mode holdoff) := fun _ => rfl

theorem lineSet h line masked linked : Statement (.lineSet h line masked linked) := fun _ => rfl

theorem intDone (h : Hdr) (ls : List Nat) : Statement (.intDone h ls) := by
  intro hw
  simp only [Instr.wf, Instr.lengthsOk, Bool.and_eq_true, decide_eq_true_eq] at hw
  obtain ⟨⟨⟨-, hl⟩, -⟩, -⟩ := hw
  simp only [Instr.header, Instr.kindCode, payloadLength, getCount, Option.isSome_some, if_true]
  generalize ls.length = k at *
  simp [Machine.recordCheck, Machine.allowedLength, Machine.kMirrorGet]
  omega

theorem intQuery h : Statement (.intQuery h) := fun _ => rfl

theorem timerLoad h timer count mode notify : Statement (.timerLoad h timer count mode notify) := fun _ => rfl

theorem timerGate h timer gate clearFired clearOverrun : Statement (.timerGate h timer gate clearFired clearOverrun) := fun _ => rfl

theorem timerBatch (h : Hdr) (t : Nat) (es : List RawEntry) : Statement (.timerBatch h t es) := by
  intro hw
  simp only [Instr.wf, Instr.lengthsOk, Bool.and_eq_true, decide_eq_true_eq] at hw
  obtain ⟨⟨⟨-, hl⟩, -⟩, -⟩ := hw
  simp only [Instr.header, Instr.kindCode, payloadLength, getCount, Option.isSome_some, if_true]
  generalize es.length = k at *
  simp [Machine.recordCheck, Machine.allowedLength, Machine.kMirrorGet]
  omega

theorem timerQuery h timer : Statement (.timerQuery h timer) := fun _ => rfl

theorem frameRefused f : Statement (.frameRefused f) := fun _ => rfl

theorem kindOrSizeRefused h kind length getCount : Statement (.kindOrSizeRefused h kind length getCount) := fun _ => rfl

theorem heldRequestRouted : Statement (.heldRequestRouted) := fun _ => rfl

theorem reportRecordSent : Statement (.reportRecordSent) := fun _ => rfl

theorem noticeAdmit : Statement (.noticeAdmit) := fun _ => rfl

theorem fillPassAdmit : Statement (.fillPassAdmit) := fun _ => rfl

theorem linkConfigured : Statement (.linkConfigured) := fun _ => rfl

theorem linkReset : Statement (.linkReset) := fun _ => rfl

theorem powerOn : Statement (.powerOn) := fun _ => rfl

theorem watchdogStage1 : Statement (.watchdogStage1) := fun _ => rfl

theorem watchdogStage2 : Statement (.watchdogStage2) := fun _ => rfl

theorem rampExpiry slot : Statement (.rampExpiry slot) := fun _ => rfl

theorem holdExpiry slot : Statement (.holdExpiry slot) := fun _ => rfl

theorem settleExpiry slot : Statement (.settleExpiry slot) := fun _ => rfl

theorem slotSample s0 s1 s2 s3 : Statement (.slotSample s0 s1 s2 s3) := fun _ => rfl

theorem requestLevelChange slot ch asserted : Statement (.requestLevelChange slot ch asserted) := fun _ => rfl

theorem interruptLevelChange slot line asserted : Statement (.interruptLevelChange slot line asserted) := fun _ => rfl

theorem holdoffExpiry : Statement (.holdoffExpiry) := fun _ => rfl

theorem transferEnd e : Statement (.transferEnd e) := fun _ => rfl

theorem shipAgeExpiry id : Statement (.shipAgeExpiry id) := fun _ => rfl

theorem masterCycle addr word write data : Statement (.masterCycle addr word write data) := fun _ => rfl

theorem waitLimitExpiry slot : Statement (.waitLimitExpiry slot) := fun _ => rfl

theorem accessFirstCycleEnd e : Statement (.accessFirstCycleEnd e) := fun _ => rfl

theorem batchEntryEnd e : Statement (.batchEntryEnd e) := fun _ => rfl

theorem pollReadEnd e : Statement (.pollReadEnd e) := fun _ => rfl

theorem pollIntervalExpiry : Statement (.pollIntervalExpiry) := fun _ => rfl

theorem delayExpiry : Statement (.delayExpiry) := fun _ => rfl

theorem censusReadEnd e : Statement (.censusReadEnd e) := fun _ => rfl

theorem refreshExpiry : Statement (.refreshExpiry) := fun _ => rfl

theorem refreshCycleEnd : Statement (.refreshCycleEnd) := fun _ => rfl

theorem timerExpiry timer : Statement (.timerExpiry timer) := fun _ => rfl

theorem timedEntryEnd e : Statement (.timedEntryEnd e) := fun _ => rfl

end Sys2Proof.Laws.RecordLength
end

