-- ==== Sys2Proof/Tests/Slice0.lean ====
section
/-! SUPPORT. The author's tests: ill-formed commands refused by `Instr.wf`, the manual's worked numbers, and for each statement
with hypotheses a state that meets them, clause by clause at boundary values. -/

open Sys2Proof Sys2Proof.Machine

namespace Sys2Proof.Tests

/-! ### Ill-formed commands -/

theorem test_wf_ok : Instr.wf (.hello { tag := 0xFFFF }) = true := by decide
theorem test_wf_tag_zero : Instr.wf (.hello { tag := 0 }) = false := by decide
theorem test_wf_tag_wide : Instr.wf (.busQuery { tag := 0x10000 }) = false := by decide
theorem test_wf_batch_empty : Instr.wf (.batch { tag := 1 } []) = false := by decide
theorem test_wf_batch_long : Instr.wf (.batch { tag := 1 } (.replicate 65 ⟨1, 0, 0, 0, 0, 0⟩)) = false := by decide
theorem test_wf_batch_full : Instr.wf (.batch { tag := 1 } (.replicate 64 ⟨1, 0, 0, 0, 0, 0⟩)) = true := by decide
theorem test_wf_put_empty : Instr.wf (.mirrorPut { tag := 1 } 0 []) = false := by decide
theorem test_wf_get_zero : Instr.wf (.mirrorGet { tag := 1 } 0 0) = false := by decide
theorem test_wf_get_long : Instr.wf (.mirrorGet { tag := 1 } 0 1017) = false := by decide
theorem test_wf_done_empty : Instr.wf (.intDone { tag := 1 } []) = false := by decide
theorem test_wf_done_long : Instr.wf (.intDone { tag := 1 } (.replicate 12 3)) = false := by decide
theorem test_wf_timed_long : Instr.wf (.timerBatch { tag := 1 } 0 (.replicate 17 ⟨1, 0, 0, 0, 0, 0⟩)) = false := by
  decide
theorem test_wf_slot_byte : Instr.wf (.slotQuery { tag := 1 } 256) = false := by decide
theorem test_wf_line_byte : Instr.wf (.intDone { tag := 1 } [3, 256]) = false := by decide
theorem test_wf_frame_kind : Instr.wf (.frameRefused (.tagZero 0x100 false)) = false := by decide
theorem test_wf_frame_tag : Instr.wf (.frameRefused (.overrun 4 1 0x10000)) = false := by decide
theorem test_wf_frame_long : Instr.wf (.frameRefused (.tooLong 0x100 1 true)) = false := by decide
theorem test_wf_refused_passes : Instr.wf (.kindOrSizeRefused { tag := 1 } 0x01 0 0) = false := by decide
theorem test_wf_refused_size : Instr.wf (.kindOrSizeRefused { tag := 1 } 0x01 1 0) = true := by decide
theorem test_wf_refused_length : Instr.wf (.kindOrSizeRefused { tag := 1 } 0x01 1025 0) = false := by decide
theorem test_wf_master_odd : Instr.wf (.masterCycle ⟨0, 0x050001⟩ true false 0) = false := by decide
theorem test_wf_samples_fall : Instr.wf (.transferEnd { held := [⟨[0], 1⟩, ⟨[0], 0⟩] }) = false := by decide
theorem test_wf_select_first : Instr.wf (.batchEntryEnd { held := [⟨[0], 0⟩], select := ⟨[0], 1⟩ }) = false := by decide
theorem test_wf_answers_twice : Instr.wf (.batchEntryEnd { answers := [⟨0, 1, 1⟩, ⟨0, 2, 2⟩] }) = false := by decide
theorem test_wf_samples_rise : Instr.wf (.batchEntryEnd { held := [⟨[0], 0⟩, ⟨[0], 1⟩] }) = true := by decide
theorem test_wf_power_zero : Instr.wf (.slotPowerOn { tag := 1 } 0 0) = false := by decide

/-! ### Small states -/

/-- The state of an outcome. -/
def after : Host.Outcome State Fault Refusal → State
  | .next s => s
  | _ => State.reset

/-- Configured, right after power-on. -/
def on : State := { State.reset with link := { configured := true } }

/-- A header with a tag. -/
def tag1 : Hdr := { tag := 1 }

/-- The bus held by the refresh timer, so that no grant follows. -/
def busy : State := { on with arb := { owner := .refresh } }

/-- Slot 0 ONLINE. -/
def online : State := on.modSlot 0 fun sl => { sl with state := .online, power := true, closed := true, reset := .released }

/-- A MIRROR region 2 of 256 bytes at 0x050000, which admits masters. -/
def mapped : State := online.modRegion 2 fun r =>
  { r with cond := .active, fields := { base := 0x050000, length := 0x100, access := [1], master := true } }

/-- The answer of the card in slot 0. -/
def card (v : Byte) : BusEnd := { answers := [⟨0, 0x00FF, v.zeroExtend 16⟩] }

/-- An 8-bit read that the part drives. -/
def read8 : Access := on.ioAccess false false 0x300 0

/-- Its owner and the access. -/
def reading (o : Owner) (s : State) : State := { s with arb := { s.arb with owner := o }, inFlight := .access read8 }

/-- A FILL by channel 1 of the byte at 0x050010, its last count. -/
def filling : State := { mapped.modChan 1 fun ch =>
    { ch with programmed := true, page := 5, currentAddress := 0x0010, state := .serving, maskReason := none } with
  arb := { owner := .dma 1 false, burstCount := 1 }
  inFlight := .transfer
    { ch := 1, kind := .fill, sysAddr := 0x050010, target := .mirror 2, waits := 4, limit := 16, clock := .mhz800
      terminal := true, data := none } }

/-- Channel 0 is a master. -/
def mastered : State := { mapped with arb := { owner := .dma 0 true } }

/-- An entry of a batch: an operation code, and the field and operands it needs. -/
def ent (op : Byte) (field : BitVec 32 := 0) (a : Half := 0) (b : Half := 0) (c : Half := 0) : RawEntry :=
  { op := op, field := field, a := a, b := b, c := c }

/-! ### Worked numbers of the manual -/

theorem test_core_is_step : Sys2Proof.core.reset = State.reset := rfl

theorem test_no_word_spells : decodeTableWord 16 0x0101 = none := by decide

theorem test_front_unchanged : State.reset.withFetchWord 16 0x0101 = State.reset := by decide

/-- The port rules of 2.4's first worked sequence. -/
def ruled : State := { on with rules :=
  [{ first := 0x0220, last := 0x022F, width := .force8, odd := .split, waitLimit := 0, post := .allow },
   { first := 0x0330, last := 0x0331, width := .auto, odd := .refuse, waitLimit := 0, post := .allow }] }

-- 2.4, "resolving six accesses": IN16 at 0x0300, 0x0301, OUT16 at 0x0224, IN16 at 0x0331.
theorem test_select_decides : (ruled.ioAccess false true 0x0300 0).plan = .bySelect := by decide
theorem test_odd_port_splits : (ruled.ioAccess false true 0x0301 0).plan = .two8 := by decide
theorem test_force8_splits : (ruled.ioAccess true true 0x0224 0).plan = .two8 := by decide
theorem test_odd_port_refused : (ruled.ioAccess false true 0x0331 0).plan = .refused := by decide
-- ... and its clocks: one 16-bit cycle 4, an 8-bit cycle 7; the note under R22: 130 at the default limit.
theorem test_clocks16 : cycleClocks false 1 16 .mhz800 0 = 4 := by decide
theorem test_clocks8 : cycleClocks false 4 16 .mhz800 0 = 7 := by decide
-- 2.4, "a split read that times out": 160 clocks into the command phase, value 0x3CFF, outcome TIMEOUT.
theorem test_limit_clocks : limitClocks .mhz800 20 = 160 := by decide
theorem test_split_timeout : (online.accessEnd { ruled.ioAccess false true 0x0301 0 with
    second := true, firstByte := 0xFF, firstTimedOut := true } (card 0x3C)).map AccessEnd.value = some 0x3CFF := by decide
-- R35's examples: 15.2 us becomes 15.0, 15.3 becomes 15.5, 9.8 becomes 10.0.
theorem test_periods : [152, 153, 98].map appliedPeriod = [150, 155, 100] := by decide
-- 6, "a byte channel wraps inside its block": t2 at 0x05FFFF, t3 at 0x050000.
theorem test_byte_block : systemAddress 1 0x05 0xFFFF = 0x05FFFF ∧ systemAddress 1 0x05 0x0000 = 0x050000 := by decide
-- ... t4: count was 0, so 0xFFFF, tc_flag, MASKED with TERMINAL; and the FILL writes its byte.
set_option maxRecDepth 4000 in
theorem test_terminal_count : (after (exec (.transferEnd (card 0x3C)) filling)).chans[(1 : ChanId)].currentCount = 0xFFFF := by
  decide
set_option maxRecDepth 4000 in
theorem test_fill_writes : Memory.read (after (exec (.transferEnd (card 0x3C)) filling)).store 0x050010 = 0x3C := by decide
-- 6, "a word channel": page 0x13, word address 0x8000 is 0x130000, 0xFFFF is 0x13FFFE (channel 6 has index 5).
theorem test_word_block : systemAddress 5 0x13 0x8000 = 0x130000 ∧ systemAddress 5 0x13 0xFFFF = 0x13FFFE := by decide
-- 8.1: granule 1023 with span 62 to 63 and granule 0 with span 0 to 1 pack into two pieces.
theorem test_two_pieces : (packEntries 2 none [] [⟨1023, 62, 63, 0⟩, ⟨0, 0, 1, 0⟩]).1.map Span.len = [2, 2] := by decide
-- 1.5: a fifth sample in a row above 0.5 A on +12 V trips the slot.
set_option maxRecDepth 4000 in
theorem test_fifth_sample_trips :
    (after (exec (.slotSample ⟨0, 69, 500⟩ ⟨0, 0, 0⟩ ⟨0, 0, 0⟩ ⟨0, 0, 0⟩)
      ({ online with now := 1000 }.modSlot 0 fun sl => { sl with limit12 := 5, over12 := 4 }))).slots[(0 : SlotId)].state = .fault := by
  decide
-- R92's pins: a channel's FILL acknowledges channel 1 with the terminal-count strobe.
theorem test_fill_pins : (filling.pins.map fun p => (p.addr, p.ioRead, p.memWrite, p.terminalCount)) =
    some (0x050010, true, true, true) := by decide
-- R94, R119: the even byte is the low half. 11.7: the header of HELLO with tag 0x1234 on the wire.
theorem test_header_bytes : Header.encode ⟨0x01, 0, 0x1234, 0⟩ = [0x01, 0x00, 0x34, 0x12, 0x00, 0x00] := by decide
theorem test_little_endian_word : Memory.readHalf [(0x10, 0x34), (0x11, 0x12)] 0x10 = 0x1234 := by decide
theorem test_idle_tick : (after (step on)).now = 1 := by decide

/-! ### States that meet the statements' hypotheses -/

theorem test_meets_front : { on with pending := [.powerOn, .busQuery tag1] }.pending = .powerOn :: [.busQuery tag1] := rfl

/-- Timer 1 counts from 1, timer 2 stands at 0, timers 0 and 3 are off. -/
def counting : State := (on.modTimer 1 fun t => { t with gate := true, counter := 1 }).modTimer 2 fun t => { t with gate := true }

theorem test_meets_idle : counting.pending = [] ∧ counting.waitingRecord = none ∧ counting.ownCommand = none ∧
    counting.timers[(0 : TimerId)].gate = false ∧ counting.timers[(1 : TimerId)].counter = 1 ∧
    counting.timers[(2 : TimerId)].counter = 0 := by decide

/-- Two records wait in the pipe. -/
def piped : State := { on with link := { on.link with pipe := [.busQuery tag1, .intQuery tag1] } }

theorem test_meets_idle_work : piped.waitingRecord = some (.busQuery tag1, [.intQuery tag1]) ∧ piped.link.canRead = true ∧
    ((exec (.busQuery tag1) { piped with link := { piped.link with pipe := [], behind := [.intQuery tag1] } }) matches .next _) =
      true ∧ piped.pending = [] := by decide

/-- Served: HELLO, LINK_SET, DEVICE_RESET, and every statement over a state right after configuration. -/
theorem test_meets_served : Served on tag1 ∧ Served on { tag := 0xFFFF, ordered := true, more := true } := by
  unfold Served Reads; decide

theorem test_meets_link_set : { on with link := { on.link with
    held := some (.linkSet tag1 1, .ordered), reservations := 1 } }.link.held = some (.linkSet tag1 1, .ordered) ∧
    on.queue = [] := by decide

theorem test_meets_device_reset : Served filling tag1 ∧ Served (reading .link on) tag1 ∧ read8.plan ≠ .refused ∧
    Served { on with inFlight := .refresh ⟨0, 4, .mhz800⟩, arb := { owner := .refresh } } tag1 ∧
    { read8 with plan := .refused }.plan = .refused := by
  unfold Served Reads; decide

/-- A cycle that a DEVICE_RESET has left, under settings and a rule of before it. -/
def orphaned (s : State) : State := { s with orphan := true, rules := ruled.rules, bus := { waitLimit := 20 } }

theorem test_meets_orphans : (orphaned filling).orphan = true ∧
    (orphaned { on with inFlight := .refresh ⟨0, 4, .mhz800⟩ }).inFlight = .refresh ⟨0, 4, .mhz800⟩ ∧
    ([Owner.link, .census, .timed 3].all fun o =>
      ((orphaned (reading o online)).accessEnd read8 (card 0x12)).isSome && (orphaned (reading o online)).arb.owner = o) = true := by
  decide

-- R38: the settings and the port rules after the cycle in flight.
set_option maxRecDepth 4000 in
theorem test_orphan_ends : (after (exec (.transferEnd (card 0x3C)) (orphaned filling))).rules = [] ∧
    (after (exec (.transferEnd (card 0x3C)) (orphaned filling))).bus.waitLimit = 16 := by decide
set_option maxRecDepth 4000 in
theorem test_orphan_keeps_rules : (after (exec (.deviceReset tag1) (reading .link ruled))).rules = ruled.rules := by decide

theorem test_meets_link_reset : filling.chans[(1 : ChanId)].state = .serving ∧ filling.arb.owner.isChan 1 = true ∧
    ¬ (filling.chans[(0 : ChanId)].state = .serving ∧ filling.arb.owner.isChan 0 = true) ∧ filling.storeWaits = [] ∧
    ¬ (filling.arb.owner = .census ∧ filling.orphan = false) := by decide

/-- A cycle queue of n one-byte reads. -/
def queued (n : Nat) : State := { busy with queue := .replicate n { tag := 9, entries := [ent 1 0x300], posted := false } }

theorem test_meets_routing : (Instr.busQuery tag1).header = some tag1 ∧ (Instr.busQuery tag1).wf = true ∧ Reads (queued 7) ∧
    (Instr.batch tag1 [ent 1 0x300]).wf = true ∧ (queued 7).queue.length < 8 := by unfold Reads; decide

/-- 31 records wait: one entry short of the room a further request needs. -/
def full : State := { on with link := { on.link with reports := .replicate 31 (.reply 0x81 1 .ok .empty) } }

theorem test_meets_waits : State.reset.link.configured = false ∧ full.link.configured = true ∧
    full.link.parser ≠ .discarding ∧ 32 - full.link.reports.length < full.link.reservations + 2 ∧
    piped.link.pipe ≠ [] ∧ { on with link := { on.link with awaitReset := true } }.link.awaitReset = true ∧
    Reads (queued 1) ∧ (queued 1).queue ≠ [] ∧ (Instr.busQuery { tag := 1, ordered := true }).wf = true ∧
    Reads (queued 8) ∧ 8 ≤ (queued 8).queue.length := by unfold Reads; decide

/-- A held request. -/
def holding (c : Instr) (k : HoldCause) (s : State) : State := { s with link := { s.link with held := some (c, k), reservations := 1 } }

theorem test_meets_holds : (holding (.busQuery tag1) .ordered on).queue = [] ∧
    (holding (.batch tag1 [ent 1 0x300]) .queueFull (queued 7)).queue.length = 7 ∧
    (holding (.batch tag1 [ent 1 0x300]) .queueFull (queued 7)).arb.owner ≠ .none ∧ batchFault [ent 1 0x300] = none ∧
    (holding (.busQuery tag1) .ordered (queued 1)).queue ≠ [] ∧
    8 ≤ (holding (.batch tag1 [ent 1 0x300]) .queueFull (queued 8)).queue.length := by decide

theorem test_meets_refusals : Reads on ∧ allowedLength 0x04 = none ∧ (allowedLength 0x01).map (· 1) = some false ∧
    (allowedLength 0x14).map (· 1024) = some false ∧ (1017 : Nat) > 1016 := by unfold Reads; decide

theorem test_meets_sent : full.link.configured = true ∧ full.link.reports ≠ [] ∧ full.link.reports.tail ≠ [] ∧
    (full.link.reports.drop 30).tail = [] ∧ on.link.reports = [] ∧ (4096 < 4091 + 6 ∧ ¬ 4096 < 4090 + 6) := by decide

/-! One held notice of each claimant, in the order of R167. -/

def quietHeld : State := { on with link := { on.link with heldQuiet := some ⟨1, 0, 0, 5, 0⟩ } }
def slotHeld : State := on.modSlot 3 fun sl => { sl with heldNotice := some ⟨.fault, none, none, 0, 0, 0, 0, false⟩ }
def relayClaims : State := (on.modRelay fun r => { r with hand := .claiming }).modLine 10 fun l =>
  { l with pending := true, chosen := true }
def chanHeld : State := on.modChan 6 fun ch => { ch with causes := { terminal := true } }
def fillHeld : State := { mapped.modShip 2 fun q => { q with entries := [⟨3, 63, 63, 0⟩], dirtyTotal := 1, running := true } with
  fillLine := [2] }
def overstayHeld : State := { on with arb := { heldOverstay := (Vector.replicate 7 none).set 6 (some ⟨0, 0, 0⟩) } }
def openHeld : State := { on with heldOpen := (Vector.replicate 7 none).set 6 (some ⟨0, 0, false, .denied, 0, 0⟩) }
def refreshHeld : State := { on with arb := { heldRefresh := some ⟨0, .none, 1, 1⟩ } }
def timerHeld : State := on.modTimer 3 fun t => { t with heldNotice := some ⟨0, false, 1, none, 0⟩ }
def findHeld : State := { on with census := { heldFind := some ⟨0, 0, 0, .valid⟩ } }
def censusEnds : State := { on with census := { state := .ending } }

theorem test_meets_claimants :
    [quietHeld, slotHeld, relayClaims, chanHeld, fillHeld, overstayHeld, openHeld, refreshHeld, timerHeld, findHeld,
      censusEnds].map State.firstClaimant =
    [some .quiet, some (.slot 3), some .interrupt, some (.channel 6), some (.fill 2), some (.overstay 6),
      some (.openAccess 6), some .refresh, some (.timer 3), some .censusFind, some .censusEnd] := by decide

theorem test_meets_admission : ([quietHeld, slotHeld, relayClaims, chanHeld, overstayHeld, openHeld, refreshHeld, timerHeld,
      findHeld, censusEnds].all fun s => s.link.canAdmit && s.waitingRecord.isNone && !s.heldReady) = true ∧
    { full with link := { full.link with reservations := 1 } }.link.reports.length + 1 ≥ 32 ∧ quietHeld.inFlight = .none ∧
    (censusEnds.ownCommand = some .noticeAdmit ∧ fillHeld.ownCommand = some .fillPassAdmit) ∧
    (holding (.busQuery tag1) .ordered on).heldReady = true ∧ on.firstClaimant = none ∧
    relayClaims.lines[(10 : LineId)].chosen = true := by decide

/-- The watchdog at 50 ms, its deadline just reached, in a stage. -/
def quiet (stage : Nat) (st : EntryStep := .delay) : State := { filling with
  now := 50000
  queue := [{ tag := 9, entries := [ent 1 0x300], posted := false, step := st }, { tag := 10, entries := [], posted := true }]
  link := { on.link with interval := 5, stage := stage, watchdogAt := some ⟨0, 50000⟩, reservations := 2 } }

theorem test_meets_watchdog : Deadline.reached ⟨0, 50000⟩ (quiet 0).now = true ∧ (quiet 0).link.stage = 0 ∧
    (quiet 1).link.stage = 1 ∧ (quiet 1).slots[(0 : SlotId)].state = .online ∧ (quiet 1).slots[(1 : SlotId)].state = .off ∧
    (∀ b ∈ (quiet 1).queue, b.discard = true → b.step = .cycle) ∧ (quiet 1).census.state = .idle ∧ on.queue = [] ∧
    ([EntryStep.claiming, .pollWait, .delay, .cycle].all fun st =>
      ((quiet 1 st).queue.head?.map Batch.step) = some st && ((quiet 1 st).queue.tail.map Batch.tag).length <
        (quiet 1 st).link.reservations) = true ∧ (quiet 1).cancelled = [] ∧
    { quiet 1 with census := { state := .paused } }.arb.owner ≠ .census ∧
    Deadline.reached ⟨0, 50000⟩ 49999 = false := by decide

theorem test_meets_slots : Served online tag1 ∧ online.slots[(0 : SlotId)].state = .online ∧
    online.slots[(1 : SlotId)].state = .off := by unfold Served Reads; decide

/-- Slot 2 in a state with a timer just reached. -/
def timed (st : SlotState) (settle v5 : Nat) : State := { on.modSlot 2 fun sl =>
  { sl with state := st, power := true, closed := closedIn st, reset := resetIn st, timer := some ⟨0, 50000⟩
            settleTime := settle, v5 := v5 } with now := 50000 }

theorem test_meets_bring_up : (timed .ramping 250 475).slots[(2 : SlotId)].timer = some ⟨0, 50000⟩ ∧
    Deadline.reached ⟨0, 50000⟩ (timed .ramping 250 475).now = true ∧ Deadline.reached ⟨0, 50000⟩ 49999 = false ∧
    (timed .ramping 250 474).slots[(2 : SlotId)].v5 = 474 ∧ (timed .held 0 500).slots[(2 : SlotId)].settleTime = 0 ∧
    (timed .held 1 500).slots[(2 : SlotId)].state = .held ∧ (timed .settling 1 500).slots[(2 : SlotId)].state = .settling := by
  decide

theorem test_meets_sample : on.sampleAt.reached 1000 = true ∧ on.sampleAt.reached 999 = false ∧
    online.slots[(0 : SlotId)].power = true ∧ online.slots[(1 : SlotId)].power = false := by decide

/-- 24 port rules of one port each. -/
def ruleTable : State := { on with rules := (List.range 24).map fun i =>
  { first := BitVec.ofNat 16 i, last := BitVec.ofNat 16 i, width := .auto, odd := .split, waitLimit := 0, post := .allow } }

theorem test_meets_rules : Served ruleTable tag1 ∧ (∃ q ∈ ruleTable.rules, q.first = 23) ∧
    (∀ q ∈ ruleTable.rules, q.first ≠ 24) := by unfold Served Reads; decide

theorem test_meets_cycles : (reading .link on).inFlight = .access read8 ∧ read8.plan ≠ .refused ∧
    ((on.ioAccess false true 0x301 0).plan = .two8 ∧ (on.ioAccess false true 0x301 0).second = false ∧
      (on.ioAccess false true 0x301 0).timedOut = false) ∧
    online.slots[(0 : SlotId)].closed = true ∧ online.slots[(1 : SlotId)].closed = false := by decide

/-- The card in slot 0 drives both halves; n samples find its ready held, and then one that of slot 1's isolated card. -/
def slow (n : Nat) : BusEnd :=
  { held := .replicate n ⟨[0], 0⟩ ++ [⟨[1], 0⟩, ⟨[0], 0⟩], answers := [⟨0, 0xFFFF, 0x1234⟩] }

theorem test_meets_holds_of_ready : online.readyHeld [] (slow 11) = 11 ∧ on.readyHeld [] (slow 11) = 0 ∧
    online.readyHeld [] { held := [⟨[1, 0], 0⟩, ⟨[0], 0⟩] } = 2 ∧
    limitClocks .mhz800 2 ≤ 4 + online.readyHeld [] (slow 12) ∧ ¬ limitClocks .mhz800 2 ≤ 4 + online.readyHeld [] (slow 11) ∧
    ([Plan.refused, .one8, .one16, .two8].map fun p =>
      (online.accessEnd { read8 with plan := p, second := true } (slow 0)).map AccessEnd.value) =
      [some 0, some 0x34, some 0x1234, some 0x3400] := by decide

/-- S0 drives the low eight lines, S1 the high eight; and slots that drive one line to different levels. -/
def halves : BusEnd := { answers := [⟨0, 0x00FF, 0x0034⟩, ⟨1, 0xFF00, 0x1200⟩] }
def differing (level : Half) : BusEnd := { answers := [⟨0, 0x000F, 0x0003⟩, ⟨1, 0x0005, 0x0001⟩], contested := level }

/-- S0 and S1 connected. -/
def twoCards : State := online.modSlot 1 fun sl => { sl with state := .online, power := true, closed := true, reset := .released }

-- R12, R23: each line is the combination of what the connected slots drive; an isolated slot's half reads all ones.
theorem test_two_cards_combine : twoCards.dataLines halves = 0x1234 ∧ online.dataLines halves = 0xFF34 ∧
    on.dataLines halves = 0xFFFF := by decide

-- Two cards agree on lines 0 and 2 (0 high, 2 low), S0 alone drives 1 and 3; where they differ on line 1 the level is open.
theorem test_meets_lines : twoCards.dataLines (differing 0) = 0xFFF3 ∧ online.dataLines (differing 0) = 0xFFF3 ∧
    twoCards.dataLines { answers := [⟨0, 2, 2⟩, ⟨1, 2, 0⟩], contested := 0 } = 0xFFFD ∧
    twoCards.dataLines { answers := [⟨0, 2, 2⟩, ⟨1, 2, 0⟩], contested := 2 } = 0xFFFF ∧
    twoCards.slots[(1 : SlotId)].closed = true ∧ (card 0x12).answers = [⟨0, 0x00FF, 0x12⟩] := by decide

/-- The same, the select asserted by the cards of some slots after a number of changes of the switches. -/
def selecting (slots : List SlotId) (changes : Nat) : BusEnd := { slow 0 with select := ⟨slots, changes⟩ }

-- R12, R27: the select of a connected slot makes one 16-bit cycle; of an isolated one, or of none, the first of two 8-bit cycles.
theorem test_select_of_connected_slots :
    [selecting [0] 0, selecting [1] 0, selecting [] 0].map (fun e =>
      ((online.accessEnd { read8 with plan := .bySelect } e).map AccessEnd.value,
        (online.firstCycleEnd { read8 with plan := .bySelect } e).isSome)) =
      [(some 0x1234, false), (none, true), (none, true)] ∧
    -- the slot stood connected when the select was sampled, and was opened after it
    (on.accessEnd { read8 with plan := .bySelect, switched := [[0]] } (selecting [0] 0)).isSome = true := by decide

-- R12: the isolated slot 1 sees neither the refresh cycle, nor the transfer's acknowledge, that the connected slot 0 sees.
theorem test_isolated_slot_sees_nothing :
    ((online.grantRefresh.seenBy 0).1.map Pins.refresh = some true ∧ online.grantRefresh.seenBy 1 = (none, none)) ∧
    ((filling.seenBy 0).2 = some 1 ∧ filling.seenBy 1 = (none, none)) ∧ (mastered.seenBy 0).2 = some 0 := by decide

-- R21: a slot opened during its hold holds before the opening and not after it; another slot's hold goes on.
theorem test_opened_slot_releases : on.readyHeld [[0]] { held := [⟨[0], 0⟩, ⟨[0], 0⟩, ⟨[0], 1⟩] } = 2 ∧
    online.readyHeld [[0, 1]] { held := [⟨[1], 0⟩, ⟨[1, 0], 1⟩, ⟨[1], 1⟩] } = 2 := by decide
set_option maxRecDepth 4000 in
theorem test_opening_is_kept : (after (exec (.slotPowerOff tag1 0) (reading .link online))).inFlight =
    .access { read8 with switched := [[0]] } := by decide

/-- The card in slot 0 asserts line 7 (index 10) and channel 7's request (index 6), as recorded; channel 6 is under CASCADE. -/
def driven (o : Owner) : State := { ((online.modDrive 0 fun _ => { requests := [6], lines := [10] }).modLine 10 fun l =>
    { l with level := true }).modChan 6 fun ch =>
      { ch with service := .cascade, state := .serving, maskReason := none, request := true } with arb := { owner := o } }

theorem test_meets_switches : Served (driven (.dma 6 true)) tag1 ∧ (driven (.dma 6 true)).slots[(0 : SlotId)].state ≠ .off ∧
    (driven (.dma 6 true)).chans[(6 : ChanId)].state = .serving ∧ (driven (.dma 6 true)).chans[(6 : ChanId)].maskPending = none ∧
    ((driven (.dma 6 true)).modChan 6 fun ch => { ch with maskPending := some .host }).chans[(6 : ChanId)].maskPending =
      some .host ∧ (filling.arb.owner ≠ .none ∧ filling.arb.owner.isMaster = false ∧ filling.slots[(0 : SlotId)].closed = true) ∧
    (driven .link).arb.owner ≠ .none ∧ (driven .link).arb.owner.isMaster = false ∧ PassesOk (driven .link) := by
  refine ⟨by unfold Served Reads; decide, by decide, by decide, by decide, by decide, by decide, by decide, by decide, ?_⟩
  exact ⟨by decide, by decide, by decide, by decide, by decide, by decide⟩

-- R13: the line that slot 0 alone asserted falls with no edge, and the CASCADE owner's fall is its release.
set_option maxRecDepth 8000 in
theorem test_opened_lines_fall :
    (after (exec (.slotPowerOff tag1 0) (driven (.dma 6 true)))).lines[(10 : LineId)] = on.lines[(10 : LineId)] ∧
    (after (exec (.slotPowerOff tag1 0) (driven (.dma 6 true)))).chans[(6 : ChanId)].state = .ready ∧
    (after (exec (.slotPowerOff tag1 0) (driven (.dma 6 true)))).arb.owner = .none := by decide

-- R14: the card connected on entry to HELD raises the line as an edge, and its request is seen.
set_option maxRecDepth 8000 in
theorem test_closed_lines_rise :
    (after (exec (.rampExpiry 2) ((timed .ramping 250 475).modDrive 2 fun _ =>
      { requests := [6], lines := [10] }))).lines[(10 : LineId)].pending = true ∧
    (after (exec (.rampExpiry 2) ((timed .ramping 250 475).modDrive 2 fun _ =>
      { requests := [6], lines := [10] }))).chans[(6 : ChanId)].request = true := by decide

theorem test_meets_captures : RulesOk ruled ∧ (ruled.ruleFor 0x0331).map PortRule.first = some 0x0330 ∧
    ruled.ruleFor 0x0332 = none ∧ (ruled.ruleFor 0x0220).map PortRule.waitLimit = some 0 := by unfold RulesOk; decide

/-- The refresh deadline, 15 us after power-on, just reached. -/
def owing (owed : Nat) (o : Owner) : State := { on with now := 15, arb := { owner := o, owed := owed } }

/-- Channels 3 and 6 serve, and the timed lane claims. -/
def claiming (owed : Nat) (yield : Bool) : State :=
  { (on.modChan 3 fun ch => { ch with state := .serving }).modChan 6 fun ch => { ch with state := .serving } with
    lane := [{ timer := 3, expiry := 0 }], arb := { owed := owed, yield := yield } }

theorem test_meets_grants : (claiming 4 false).arb.owed = 4 ∧ (claiming 3 false).chans[(3 : ChanId)].state = .serving ∧
    (∀ d : ChanId, d < 3 → (claiming 3 false).chans[d].state ≠ .serving) ∧
    (∀ d : ChanId, on.chans[d].state ≠ .serving) ∧ (claiming 3 true).lowerClaim = true ∧
    (claiming 0 true).lowerClaim = true ∧ on.lowerClaim = false ∧
    { claiming 0 true with lane := [] }.lowerClaim = false := by decide

/-- One claim on an idle bus: of the timed lane, the link lane, the census, a channel. -/
def timedClaim : State := { on.modTimer 3 fun t => { t with batch := some [ent 1 0x300] } with lane := [{ timer := 3, expiry := 0 }] }
def linkClaim : State := { on with queue := [{ tag := 9, entries := [ent 1 0x300], posted := false }] }
def censusClaim : State := { on with census := { state := .scanning } }
def chanClaim (v : Service) (page : Byte) : State := mapped.modChan 1 fun ch =>
  { ch with service := v, page := page, state := .serving, maskReason := none }

theorem test_meets_grant_points :
    [on, owing 4 .none, timedClaim, linkClaim, censusClaim, chanClaim .cascade 5, chanClaim .single 5].map (·.pick.1) =
      [none, some .refresh, some (.timed 3), some .link, some .census, some (.dma 1), some (.dma 1)] ∧
    timedClaim.runEntry { timer := 3, expiry := 0 } = some (ent 1 0x300, .in8) ∧
    Batch.entry { tag := 9, entries := [ent 1 0x300], posted := false } = some (ent 1 0x300, .in8) ∧
    (chanClaim .single 5).lookup 1 .fill 0x050000 = .target (.mirror 2) ∧
    (chanClaim .single 6).lookup 1 .fill 0x060000 = .fault .openAddress ∧
    ((owing 3 .none).arb.owner = .none ∧ (owing 3 .none).arb.owed < 4) := by decide

theorem test_meets_refresh : (owing 3 .link).arb.refreshAt = some ⟨0, 30⟩ ∧ RefreshDeadline.reached ⟨0, 30⟩ 15 = true ∧
    RefreshDeadline.reached ⟨0, 30⟩ 14 = false ∧ (owing 3 .link).arb.owner.isMaster = false ∧
    (owing 3 (.dma 6 true)).arb.heldOverstay[(6 : ChanId)] = none ∧
    overstayHeld.arb.heldOverstay[(6 : ChanId)] = some ⟨0, 0, 0⟩ ∧ (owing 4 .link).arb.owed = 4 ∧
    { owing 4 .refresh with inFlight := .refresh ⟨0, 4, .mhz800⟩ }.orphan = false := by decide

theorem test_meets_batches : Reads on ∧ batchFault [ent 1 0x300, ent 0x0B] = some 1 ∧ Reads (queued 7) ∧
    (queued 7).arb.owner ≠ .none ∧ batchFault [ent 1 0x300] = none ∧ on.anyClaim = false ∧ on.arb.owner = .none ∧
    on.arb.yield = false ∧ opOf 1 = some .in8 ∧ opOf 3 = some .out8 ∧ batchFault [ent 3 0x300] = none ∧
    Reads busy ∧ busy.queue = [] ∧ busy.arb.owner ≠ .none ∧ on.queue = [] := by
  unfold Reads; decide

/-- A delay of 5 us. -/
def delay5 : RawEntry := ent 0x0B 0 5

/-- The head batch is in its delay, and the bus is idle. -/
def delaying : State := { on with queue := [{ tag := 9, entries := [delay5], posted := false, step := .delay, waitEnd := some ⟨0, 5⟩ }] }

theorem test_meets_batches_delayed : opOf delay5.op = some .delay ∧ batchFault [delay5] = none ∧ on.queue = [] ∧
    Reads delaying ∧ delaying.queue ≠ [] ∧ delaying.arb.owner = .none ∧ delaying.anyClaim = false ∧
    opOf 9 = some .poll8 ∧ batchFault [ent 9 0x300 0xFF 1 3] = none ∧ opOf 8 = some .mwr16 ∧ batchFault [ent 8 0xFFFFFF] = none := by
  unfold Reads; decide

-- R61: a batch that joins an empty queue while the bus is owned claims it and does not yet have it.
theorem test_batch_claims_behind_an_owner : (after (exec (.batch tag1 [ent 7 0xD0000]) busy)).linkClaims = true ∧
    (after (exec (.batch tag1 [ent 7 0xD0000]) busy)).inFlight = busy.inFlight := by decide

/-- A running batch whose 8-bit read is in flight. -/
def running (es : List RawEntry) (next : Nat) : State := { reading .link online with
  queue := [{ tag := 9, entries := es, posted := false, next := next, step := .cycle }]
  link := { on.link with reservations := 1 } }

/-- What the accesses of the first clause hand back: OK, TIMEOUT, ALIGN. -/
def ends (a : Access) : Option Status := (online.accessEnd a (card 0x12)).map AccessEnd.status

theorem test_meets_entry_ends : (running [ent 1 0x300, ent 1 0x300] 0).inFlight = .access read8 ∧
    [ends read8, ends { read8 with timedOut := true }, ends { read8 with plan := .refused }] =
      [some .ok, some .timeout, some .align] ∧
    [1, 2, 3, 4, 5, 6, 7, 8].map opOf =
      [some .in8, some .in16, some .out8, some .out16, some .mrd8, some .mrd16, some .mwr8, some .mwr16] ∧
    (running [ent 4 0x300] 0).cancelled.length < (running [ent 4 0x300] 0).link.reservations ∧
    (running [ent 1 0x300] 0).queue = [{ tag := 9, entries := [ent 1 0x300], posted := false, step := .cycle }] ∧
    ((running [ent 3 0x300] 0).modBatch fun b => { b with posted := true }).queue.map Batch.posted = [true] ∧
    ((running [ent 3 0x300] 0).modBatch fun b => { b with cancel := true }).queue.map Batch.cancel = [true] := by decide

theorem test_meets_polls : (running [ent 9 0x01000300 0x80 0x80 2, ent 1 0x300] 0).arb.owner = .link ∧
    opOf 9 = some .poll8 ∧ opOf 10 = some .poll16 ∧ entryStrict (ent 10 0x300 0x80 0x80 1) = false ∧
    entryStrict { ent 10 0x300 0x80 0x80 1 with flags := 1 } = true ∧ entryInterval (ent 9 0x01000300 0x80 0x80 2) = 1 ∧ entryInterval (ent 9 0x300 0x80 0x80 2) = 0 ∧
    (0x12 : Byte) &&& lowByte 0x80 ≠ lowByte 0x80 ∧ (0x80 : Byte) &&& lowByte 0x80 = lowByte 0x80 ∧
    ((running [ent 9 0x300 0x80 0x80 2] 0).modBatch fun b => { b with cancel := true }).cancelled.length <
      (running [ent 9 0x300 0x80 0x80 2] 0).link.reservations ∧
    0 + 1 < (2 : Half).toNat := by decide

/-- The head batch waits until 10 us. -/
def waiting (st : EntryStep) : State := { busy with
  now := 10
  queue := [{ tag := 9, entries := [ent 0x0B 0 10, ent 1 0x300], posted := false, step := st, waitEnd := some ⟨0, 10⟩ }] }

theorem test_meets_waits_end : (waiting .pollWait).arb.owner ≠ .none ∧ Deadline.reached ⟨0, 10⟩ (waiting .delay).now = true ∧
    Deadline.reached ⟨0, 10⟩ 9 = false ∧
    (∀ en, [ent 0x0B 0 10, ent 1 0x300][0 + 1]? = some en → opOf en.op ≠ some .delay) := by
  refine ⟨by decide, by decide, by decide, ?_⟩
  rintro en ⟨⟩; decide

theorem test_meets_delays : [ent 0x0B 0 10, ent 0x0B 0 5][0 + 1]? = some (ent 0x0B 0 5) ∧ opOf 0x0B = some .delay ∧
    ((waiting .delay).modBatch fun b => { b with entries := [ent 0x0B 0 10] }).queue.map (fun b => b.entries.length) = [0 + 1] ∧
    { waiting .delay with link := { on.link with reservations := 1 } }.cancelled.length < 1 := by decide

/-- A census that a stop finds in a state, another stop waiting. -/
def stopping (st : CensusState) (f : Option Finding) : State := { on with
  census := { state := st, heldFind := f, stopWaiters := [7], reason := if st = .ending then some .done else none }
  link := { on.link with reservations := 1 } }

theorem test_meets_stops : Served (stopping .paused (some ⟨0, 0, 0, .valid⟩)) tag1 ∧
    (stopping .paused (some ⟨0, 0, 0, .valid⟩)).census.heldFind ≠ none ∧
    (stopping .ending none).census.reason = some .done ∧ (stopping .scanning none).arb.owner ≠ .census ∧
    (stopping .ending none).firstClaimant = some .censusEnd ∧
    ({ stopping .ending none with link := (stopping .ending none).link.taken 0 false }.link.canAdmit = true ∧
      (stopping .ending none).census.stopWaiters.length ≤ (stopping .ending none).link.reservations) ∧
    { stopping .ending none with link := { quietHeld.link with reservations := 1 } }.firstClaimant = some .quiet := by
  unfold Served Reads; decide

-- R75: a stop of a scan with no read in flight is answered with the CENSUS_END notice, behind the one that waited.
set_option maxRecDepth 4000 in
theorem test_stop_is_answered : (after (exec (.censusStop tag1) (stopping .scanning none))).link.reports =
    [.notice (.censusEnd 0 0 0 (some .stopped)), .reply 0x96 7 .ok .empty, .reply 0x96 1 .ok .empty] := by decide

/-- A census whose read is in flight. -/
def scanning (p : CensusPhase) (pos : Nat) : State := { reading .census online with
  census := { state := .scanning, first := 0xC0000, past := 0xE0000, probe := 0xC0000, phase := p, pos := pos, sig := 0x55, len := 1 } }

theorem test_meets_census : Served (scanning .body 0xC01FF) tag1 ∧ (scanning .body 0xC01FF).arb.owner = .census ∧
    Served busy tag1 ∧ busy.census.state = .idle ∧ busy.arb.owner ≠ .none ∧
    (0x100000 % 0x800 = 0 ∧ (0x0FF800 : Nat) < 0x100000) := by unfold Served Reads; decide

theorem test_meets_census_reads : (scanning .signature 0xC0000).inFlight = .access read8 ∧
    (scanning .signature 0xC0000).census.pos = 0xC0000 ∧ (scanning .signature 0xC0001).census.sig = 0x55 ∧
    (scanning .length 0xC0002).census.phase = .length ∧ (scanning .body 0xC0003).census.pos + 1 ≠ 0xC0000 + 1 * 512 ∧
    (scanning .body 0xC01FF).census.pos + 1 = 0xC0000 + 1 * 512 ∧ (scanning .body 0xC01FF).lowLines (card 0xAA) = 0xAA ∧
    (scanning .body 0xC01FF).census.heldFind = none ∧ (scanning .body 0xC01FF).census.abandon = false ∧
    ends { read8 with timedOut := true } = some .timeout ∧
    ((scanning .body 0xC01FF).link.canAdmit = true ∧ (scanning .body 0xC01FF).firstClaimant = none) ∧
    { scanning .body 0xC01FF with link := quietHeld.link }.firstClaimant = some .quiet := by decide

/-- The same after a CENSUS_STOP, whose tag waits. -/
def stopped (p : CensusPhase) (pos : Nat) : State := { scanning p pos with
  census := { (scanning p pos).census with reason := some .stopped, stopWaiters := [7] }, link := { on.link with reservations := 1 } }

theorem test_meets_stopped_reads : (stopped .body 0xC0003).census.reason = some .stopped ∧
    (stopped .body 0xC0003).census.pos + 1 ≠ 0xC0000 + 1 * 512 ∧ (stopped .body 0xC01FF).census.pos + 1 = 0xC0000 + 1 * 512 ∧
    ((stopped .body 0xC0003).link.canAdmit = true ∧ (stopped .body 0xC0003).firstClaimant = none ∧
      (stopped .body 0xC0003).census.stopWaiters.length ≤ (stopped .body 0xC0003).link.reservations) := by decide

-- R75: the read in flight at the stop is counted, the unfinished probe makes no finding, and the census ends STOPPED.
set_option maxRecDepth 4000 in
theorem test_stopped_read_ends : (after (exec (.censusReadEnd (card 0xAA)) (stopped .body 0xC0003))).link.reports =
    [.notice (.censusEnd 0 1 0 (some .stopped)), .reply 0x96 7 .ok .empty] := by decide

theorem test_meets_loads : Served filling tag1 ∧ filling.chans[(1 : ChanId)].state = .serving ∧
    filling.chans[(6 : ChanId)].state ≠ .serving ∧ filling.arb.owner = .dma 1 false ∧
    Served { filling with arb := { owner := .dma 1 true } } tag1 := by unfold Served Reads; decide

/-- Slot 0's card may request; channel 6 is READY, channel 5 SERVING on its request; the bus is the link lane's. -/
def requesting : State :=
  ({ (online.modChan 6 fun ch => { ch with state := .ready, maskReason := none }).modChan 5 fun ch =>
      { ch with state := .serving, maskReason := none, request := true } with arb := { owner := .link } }).modDrive 0 fun d =>
    { d with requests := [5] }

set_option maxRecDepth 4000 in
theorem test_meets_requests : (∀ d : ChanId, requesting.requestLevel d = requesting.chans[d].request) ∧
    requesting.arb.owner.isMaster = false ∧ requesting.chans[(6 : ChanId)].state = .ready ∧
    (requesting.chans[(5 : ChanId)].state = .serving ∧ requesting.chans[(5 : ChanId)].service = .single ∧
      ∀ j : SlotId, j ≠ 0 → requesting.slots[j].closed = true → (5 : ChanId) ∉ requesting.drives[j].requests) ∧
    requesting.slots[(3 : SlotId)].closed = false := by decide

theorem test_meets_transfers : filling.orphan = false ∧ filling.chans[(1 : ChanId)].currentCount = 0 ∧
    filling.chans[(1 : ChanId)].autoInit = false ∧ Memory.wf filling.store = true ∧ filling.storeWaits = [] ∧
    (∀ r : RegionId, filling.regions[r].successor = none) ∧ filling.chans[(1 : ChanId)].kind = .fill ∧
    filling.readyHeld [] (card 0x3C) = 0 ∧
    (filling.modChan 1 fun ch => { ch with currentCount := 1 }).chans[(1 : ChanId)].currentCount ≠ 0 ∧
    (filling.modChan 1 fun ch => { ch with matchByte := some 0x3C }).chans[(1 : ChanId)].matchByte =
      some (filling.lowLines (card 0x3C)) ∧
    (filling.modChan 1 fun ch => { ch with currentCount := 1, maskPending := some .host }).chans[(1 : ChanId)].maskPending =
      some .host := by decide

/-- The same with a CHAN_MASK that waits for the tenure's end, under auto_init, or with an open BLOCK run. -/
def fillingMasked : State := { filling.modChan 1 fun ch =>
  { ch with currentCount := 1, maskPending := some .host, maskWaiters := [7] } with link := { on.link with reservations := 1 } }
def reloading : State := filling.modChan 1 fun ch =>
  { ch with autoInit := true, notifyTerminal := true, service := .block, blockOpen := true, matchByte := none }

theorem test_meets_mask_replies : fillingMasked.orphan = false ∧ PassesOk fillingMasked ∧
    fillingMasked.chans[(1 : ChanId)].maskWaiters.length ≤ fillingMasked.link.reservations ∧
    (reloading.chans[(1 : ChanId)].currentCount = 0 ∧ reloading.chans[(1 : ChanId)].maskPending = none ∧
      reloading.chans[(1 : ChanId)].request = false ∧
      (reloading.modChan 1 fun ch => { ch with request := true }).chans[(1 : ChanId)].request = true) := by
  refine ⟨by decide, ⟨by decide, by decide, by decide, by decide, by decide, by decide⟩, by decide, by decide⟩

-- R83: the waiting CHAN_MASK is answered when the transfer in flight has ended.
set_option maxRecDepth 4000 in
theorem test_mask_is_answered : (after (exec (.transferEnd (card 0x3C)) fillingMasked)).link.reports = [.reply 0x99 7 .ok .empty] := by
  decide
-- R80, R87: the BLOCK run reloaded without a request closes, and TERMINAL joins the unreported notice.
set_option maxRecDepth 4000 in
theorem test_reload_closes_the_run : let ch := (after (exec (.transferEnd (card 0x3C)) reloading)).chans[(1 : ChanId)]
    (ch.state = .ready ∧ ch.blockOpen = false) ∧ ch.causes.terminal = true := by decide

/-- The same with no room for a report, and a threshold of one byte. -/
def fillingFull : State := { filling.modRegion 2 fun r => { r with fields := { r.fields with threshold := some 1 } } with
  link := { on.link with reservations := 32 } }

/-- A DRAIN of channel 1 with no byte queued in its region. -/
def draining : State := fillingFull.modChan 1 fun ch => { ch with kind := .drain, notifyTerminal := true }

theorem test_meets_marks : fillingFull.NoRoom ∧ fillingFull.mirrorAt 0x050010 = some 2 ∧
    draining.regions[(2 : RegionId)].ship.entries = [] ∧ draining.regions[(2 : RegionId)].ship.running = false ∧
    (draining.chans[(1 : ChanId)].kind ≠ .fill ∧ draining.chans[(1 : ChanId)].notifyTerminal = true) ∧
    ((∀ x ∈ ([⟨0, 63, 63, 0⟩] : List ShipEntry), x.granule ≠ 64 / 64) ∧ (⟨0, 63, 63, 0⟩ : ShipEntry).granule = 63 / 64) := by
  unfold State.NoRoom; decide

theorem test_meets_region_set : Served on tag1 ∧ on.regions[(15 : RegionId)].cond = .absent ∧
    accessSet [7, 0] = some [0, 6] ∧ 0xF00000 % 256 = 0 ∧ 1048576 % 256 = 0 ∧ 0xF00000 + 1048576 ≤ 16777216 ∧
    on.transferring = false ∧
    (∃ j : RegionId, j ≠ 15 ∧ ∃ g ∈ mapped.regions[j].held, 0x0500FF < g.base + g.length ∧ g.base < 0x0500FF + 256) := by
  unfold Served Reads; decide

/-- Region 2 has one queued span, its age deadline just reached. -/
def aged : State := { mapped.modShip 2 fun q => { q with entries := [⟨0, 0, 0, 0⟩], dirtyTotal := 1, ageDeadline := some ⟨0, 1000⟩ } with
  now := 1000 }

/-- The request that describes region 2 as it stands, with another base or kind. -/
def describe (base : Nat) (k : RegionKind) (threshold : Nat) : RegionRequest :=
  { base := base, length := 0x100, kind := some k, access := [1], master := 1, threshold := threshold, age := 1 }

/-- Region 2 DROPPING, its pass demanded by the memory map. -/
def dropping (succ : Option RegionFields) : State := { aged.modRegion 2 fun r =>
  { r with cond := .dropping, successor := succ, dropWaiters := [⟨7, succ.isSome⟩], flushWaiters := [8]
           ship := { r.ship with running := true, waiters := { map := true } } } with
  fillLine := [2], link := { on.link with reservations := 2 } }

theorem test_meets_redefinitions :
    (0x050001 % 256 ≠ 0 ∧ accessSet [4] = none) ∧ (dropping none).regions[(2 : RegionId)].cond = .dropping ∧
    Served (dropping none) tag1 ∧ aged.regions[(2 : RegionId)].fields.base = 0x050000 ∧
    aged.regions[(2 : RegionId)].fields.kind = .mirror ∧
    (1 * 1000 ≤ (aged.now - 0).toNat ∧ ¬ 1 * 1000 ≤ ((999 : Time) - 0).toNat) ∧
    ({ aged with arb := { owner := .dma 0 true } }.inUse 2 = true) ∧
    (mapped.regions[(2 : RegionId)].ship.entries = [] ∧ mapped.regions[(2 : RegionId)].ship.waiters = {} ∧
      mapped.regions[(2 : RegionId)].dropWaiters = [] ∧ mapped.regions[(2 : RegionId)].flushWaiters = []) ∧
    (appliedRegion (describe 0x050100 .mirror 64)).isSome = true ∧ (appliedRegion (describe 0x050000 .card 64)).isSome = true := by
  unfold Served Reads; decide

theorem test_meets_passes : Served aged tag1 ∧ aged.regions[(2 : RegionId)].cond = .active ∧
    aged.regions[(2 : RegionId)].ship.running = false ∧ aged.regions[(2 : RegionId)].ship.entries ≠ [] ∧
    aged.inUse 2 = false ∧ { aged with arb := { owner := .dma 0 true } }.inUse 2 = true ∧
    on.regions[(2 : RegionId)].cond = .absent ∧ Deadline.reached ⟨0, 1000⟩ aged.now = true ∧
    Deadline.reached ⟨0, 1000⟩ 999 = false ∧
    (aged.modRegion 2 fun r => { r with fields := { r.fields with kind := .card } }).inUse 2 = false ∧
    Served fillHeld tag1 ∧ fillHeld.regions[(2 : RegionId)].ship.running = true ∧ fillHeld.inUse 2 = false := by
  unfold Served Reads; decide

theorem test_meets_store : Served mapped tag1 ∧ StoreOk mapped ∧ mapped.regions[(2 : RegionId)].fields.kind = .mirror ∧
    0x0500FF + 1 ≤ mapped.regions[(2 : RegionId)].fields.base + mapped.regions[(2 : RegionId)].fields.length ∧
    mapped.transferring = false ∧ Served filling tag1 ∧ filling.transferring = true := by
  unfold Served Reads StoreOk; decide

/-- Region 3 after region 2, and no region elsewhere. -/
def twoRegions : State := mapped.modRegion 3 fun r =>
  { r with cond := .active, fields := { base := 0x050100, length := 0x100, access := [1] } }

-- R115: partly in no region, across two, past 0xFFFFFF; then a CARD extent, a DROPPING one, its successor's.
theorem test_meets_store_refusals :
    ([(mapped, 0x0500FF), (twoRegions, 0x0500FF), (mapped, 0xFFFFFF)].map fun (s, a) => s.storeCheck a 2) =
      [.range, .range, .range] ∧
    (mapped.modRegion 2 fun r => { r with fields := { r.fields with kind := .card } }).storeCheck 0x0500FE 2 = .state ∧
    (dropping none).storeCheck 0x050000 1 = .state ∧
    (dropping (some { base := 0x060000, length := 0x100 })).storeCheck 0x0600FE 2 = .state ∧ Served (dropping none) tag1 := by
  unfold Served Reads; decide

theorem test_meets_master : mastered.arb.owner = .dma 0 true ∧ StoreOk mastered ∧ mastered.regionAt 0x050000 = some 2 ∧
    mastered.regionAt 0x0500FF = some 2 ∧ mastered.regionAt 0x050100 = none ∧ mastered.openSent = false ∧
    mastered.heldOpen[(0 : ChanId)] = none ∧ openHeld.heldOpen[(6 : ChanId)] = some ⟨0, 0, false, .denied, 0, 0⟩ ∧
    (mastered.slots[(0 : SlotId)].closed = true ∧ mastered.slots[(1 : SlotId)].closed = false) ∧
    (fillingFull.regions[(2 : RegionId)].fields.threshold = some 1 ∧ mastered.regions[(2 : RegionId)].ship.running = false) ∧ on.arb.owner.isMaster = false ∧
    (∀ r : RegionId, mastered.regions[r].successor = none) ∧
    (mastered.modRegion 2 fun r => { r with fields := { r.fields with master := false } }).regionAt 0x050000 = some 2 ∧
    (mastered.modRegion 2 fun r => { r with fields := { r.fields with kind := .card } }).regionAt 0x050000 = some 2 := by
  unfold StoreOk; decide

/-- Fifteen whole granules apart: fourteen of them fill a notice. -/
def apart15 : List ShipEntry := (List.range 15).map fun i => ⟨2 * i, 0, 63, 0⟩

set_option maxRecDepth 4000 in
theorem test_meets_packing : (∀ e ∈ apart15, e.lo ≤ e.hi ∧ e.hi < 64) ∧ (packEntries 2 none [] apart15).2 = [⟨28, 0, 63, 0⟩] := by
  decide

theorem test_meets_admitted_pass : fillHeld.link.canAdmit = true ∧ fillHeld.firstClaimant = some (.fill 2) ∧
    fillHeld.fillLine = [2] ∧ fillHeld.transferring = false ∧ (packEntries 2 none [] [⟨3, 63, 63, 0⟩]).2 = [] ∧
    fillHeld.regions[(2 : RegionId)].ship.waiters = {} ∧
    { fillHeld with inFlight := filling.inFlight, arb := filling.arb }.firstClaimant = some (.fill 2) ∧
    ((dropping none).firstClaimant = some (.fill 2) ∧ (dropping none).regions[(2 : RegionId)].ship.waiters.map = true) ∧
    ((dropping (some {})).regions[(2 : RegionId)].successor = some {} ∧ 1 + 1 ≤ (dropping (some {})).link.reservations) := by decide

theorem test_meets_edges : (∀ m : LineId, online.lineLevel m = online.lines[m].level) ∧
    online.slots[(0 : SlotId)].closed = true ∧ online.lines[(10 : LineId)].level = false ∧
    (∀ m : LineId, (driven .link).lineLevel m = (driven .link).lines[m].level) ∧
    (driven .link).lines[(10 : LineId)].level = true ∧ (driven .link).slots[(1 : SlotId)].closed = false := by decide

-- R140: the line falls with its only card, or stays while another connected card asserts it.
set_option maxRecDepth 4000 in
theorem test_fall_follows_the_others :
    (after (exec (.interruptLevelChange 0 10 false) (driven .link))).lines[(10 : LineId)].level = false ∧
    (after (exec (.interruptLevelChange 1 10 false) (driven .link))).lines[(10 : LineId)].level = true := by decide

/-- A holdoff of 10 us just reached, line 15 eligible. -/
def heldOff : State := { (on.modLine 5 fun l => { l with pending := true, masked := false }).modRelay fun r =>
  { r with hand := .holdoff, holdoffAt := some ⟨0, 10⟩ } with now := 10 }

theorem test_meets_holdoff : heldOff.relay.holdoffAt = some ⟨0, 10⟩ ∧ heldOff.relay.hand = .holdoff ∧
    Deadline.reached ⟨0, 10⟩ heldOff.now = true ∧ heldOff.eligibleLines = [5] ∧ Deadline.reached ⟨0, 10⟩ 9 = false ∧
    (heldOff.modLine 5 fun l => { l with masked := true }).eligibleLines = [] := by decide

/-- The same, line 15 linked to channel 1, whose last transfer lay in region 2 with a byte queued there. -/
def linked : State := { (aged.modChan 1 fun ch => { ch with lastSystemAddress := 0x050010 }).modLine 5 fun l =>
    { l with pending := true, masked := false, linked := some 1 } with
  relay := { hand := .holdoff, holdoffAt := some ⟨0, 10⟩, mode := .grouped } }

theorem test_meets_linked : linked.relay.hand = .holdoff ∧ linked.eligibleLines = [5] ∧
    (∃ l ∈ linked.eligibleLines, linked.lines[l].linked = some 1) ∧
    linked.mirrorAt linked.chans[(1 : ChanId)].lastSystemAddress = some 2 ∧
    linked.regions[(2 : RegionId)].ship.entries ≠ [] ∧ PassesOk linked := by
  refine ⟨by decide, by decide, ⟨5, by decide, by decide⟩, by decide, by decide, ?_⟩
  exact ⟨by decide, by decide, by decide, by decide, by decide, by decide⟩

-- R143: the notice waits in FLUSHING for the linked region's pass, and, with no byte to ship there, claims at once.
set_option maxRecDepth 4000 in
theorem test_linked_data_goes_first :
    (after (exec .holdoffExpiry linked)).relay = { linked.relay with
      hand := .flushing, holdoffAt := none, origin := .holdoff, awaited := [2] } ∧
    (after (exec .holdoffExpiry linked)).fillLine = [2] ∧
    (after (exec .holdoffExpiry (linked.modShip 2 fun q => { q with entries := [] }))).relay.hand = .claiming := by decide

/-- A line is eligible and the hand EMPTY, in a mode with a holdoff. -/
def eligibleIn (m : RelayMode) (hold : Nat) : State := (on.modLine 5 fun l => { l with pending := true, masked := false }).modRelay
  fun r => { r with mode := m, holdoff := hold }

theorem test_meets_relay_checks : Served (eligibleIn .perLine 0) tag1 ∧
    ((eligibleIn .perLine 0).eligibleLines = [5] ∧ (eligibleIn .grouped 0).eligibleLines = [5] ∧
      (eligibleIn .grouped 200).relay.holdoff ≠ 0) ∧ on.eligibleLines = [] ∧ heldOff.relay.hand ≠ .empty ∧
    (relayClaims.lines[(10 : LineId)].chosen = true ∧ (∀ n : LineId, n ≠ 10 → relayClaims.lines[n].chosen = false) ∧
      relayClaims.relay.hand = .claiming) ∧ ([lineNumber 0, lineNumber 10] = [9, 7]) := by unfold Served Reads; decide

/-- Timer 3 stands at 0 and is due, with or without a batch, its run in the lane or not. -/
def due (b : Option (List RawEntry)) (notify : Bool) (lane : List Run) : State := { busy.modTimer 3 fun t =>
  { t with gate := true, due := true, batch := b, notify := notify } with lane := lane }

theorem test_meets_expiry : (due none false []).timers[(3 : TimerId)].due = true ∧
    (due none true []).timers[(3 : TimerId)].heldNotice = none ∧
    timerHeld.timers[(3 : TimerId)].heldNotice = some ⟨0, false, 1, none, 0⟩ ∧
    (due (some [ent 1 0x300]) false [{ timer := 3, expiry := 0 }]).runState 3 ≠ .absent ∧
    (due (some [ent 1 0x300]) false []).runState 3 = .absent ∧ (due (some [ent 1 0x300]) false []).arb.owner ≠ .none ∧
    on.timers[(3 : TimerId)].gate = false := by decide

/-- A run of timer 3 whose 8-bit read is in flight. -/
def inLane (es : List RawEntry) (next : Nat) : State := { reading (.timed 3) online with
  lane := [{ timer := 3, expiry := 0, next := next, step := .cycle }] }.modTimer 3 fun t =>
    { t with batch := some es, notify := true }

theorem test_meets_runs : (inLane [ent 1 0x300, ent 1 0x300] 0).arb.owner = .timed 3 ∧
    (inLane [ent 1 0x300, ent 1 0x300] 0).timers[(3 : TimerId)].batch = some [ent 1 0x300, ent 1 0x300] ∧
    (inLane [ent 1 0x300, ent 1 0x300] 1).timers[(3 : TimerId)].heldNotice = none ∧
    (inLane [ent 1 0x300, ent 1 0x300] 1).inFlight = .access read8 ∧
    (inLane [ent 1 0x300, ent 1 0x300] 1).orphan = false ∧ (ends read8 = some .ok ∧ ends { read8 with timedOut := true } = some .timeout) ∧
    (inLane [ent 8 0x300] 0).lane.map Run.status = [.ok] ∧
    ((inLane [ent 8 0x300] 0).modTimer 3 fun t => { t with notify := false }).timers[(3 : TimerId)].notify = false := by decide

/-- Channel 1 in a tenure of its own, its transfer in flight. -/
def tenure (v : Service) (request : Bool) (burst owed : Nat) (addr : Half) : State := { filling.modChan 1 fun ch =>
    { ch with currentCount := 1, service := v, request := request, currentAddress := addr } with
  arb := { owner := .dma 1 false, burstCount := burst, owed := owed } }

theorem test_meets_tenures : RegionsOk mapped ∧ mapped.regions[(2 : RegionId)].cond = .active ∧
    (∀ r : RegionId, on.regions[r].cond ≠ .active) ∧
    (tenure .demand true 14 3 0x10).orphan = false ∧ (tenure .demand true 14 3 0x10).arb.burstCap = 16 ∧
    (tenure .demand true 14 3 0x10).chans[(1 : ChanId)].matchByte = none ∧
    (∀ r : RegionId, (tenure .demand true 14 3 0x10).regions[r].cond ≠ .dropping) ∧
    (tenure .block false 14 3 0x10).lookup 1 .fill (systemAddress 1 5 0x11) = .target (.mirror 2) ∧
    (tenure .block false 14 3 0xFF).lookup 1 .fill (systemAddress 1 5 0x100) = .fault .openAddress ∧
    ((tenure .block true 15 4 0x10).arb.owed = 4 ∧ 16 ≤ 15 + 1) ∧
    ({ tenure .single true 0 0 0x10 with lane := timedClaim.lane, timers := timedClaim.timers }.timedClaims = some 3 ∧
      { tenure .single true 0 0 0x10 with queue := linkClaim.queue }.linkClaims = true ∧
      { tenure .single true 0 0 0x10 with census := censusClaim.census }.censusClaims = true ∧
      (tenure .single true 0 0 0x10).lowerClaim = false) := by
  refine ⟨by unfold RegionsOk; decide, by decide, by decide, by decide, by decide, by decide, by decide, by decide, by decide,
    by decide, by decide⟩

/-- The master's card in slot 0 is about to let its request go. -/
def releasing : State := { aged.modChan 0 fun ch =>
    { ch with service := .cascade, state := .serving, maskReason := none, request := true } with
  arb := { owner := .dma 0 true }, written := [2]
  drives := (Vector.replicate 4 {}).set 0 { requests := [0] } }

set_option maxRecDepth 4000 in
theorem test_meets_release : releasing.chans[(0 : ChanId)].state = .serving ∧
    (∀ d : ChanId, releasing.requestLevel d = releasing.chans[d].request) ∧ releasing.chans[(0 : ChanId)].maskPending = none ∧
    (∀ j : SlotId, j ≠ 0 → releasing.slots[j].closed = true → (0 : ChanId) ∉ releasing.drives[j].requests) ∧
    (releasing.regions[(2 : RegionId)].isMirror = true ∧ releasing.regions[(2 : RegionId)].ship.entries ≠ []) := by decide

/-- The laws hold of states from which a step goes on. -/
theorem test_meets_laws : StoreOk filling ∧ RoomOk full ∧ SlotsOk online ∧ RefreshOk (owing 4 .link) ∧ RulesOk ruleTable ∧
    QueueOk (queued 8) ∧ BusOk on ∧ RegionsOk mapped ∧ ShipOk aged ∧ PassesOk (dropping none) := by
  refine ⟨by unfold StoreOk; decide, by unfold RoomOk; decide, ?_, by unfold RefreshOk; decide, by unfold RulesOk; decide,
    by unfold QueueOk; decide, by unfold BusOk BusSettings.InRange; decide, ?_, ?_, ?_⟩
  · unfold SlotsOk Slot.TableOk; decide
  · unfold RegionsOk; decide
  · unfold ShipOk ShipQueue.Ok; decide
  · exact ⟨by decide, by decide, by decide, by decide, by decide, by decide⟩

theorem test_laws_step_on : (step aged matches .next _) = true ∧ (step (queued 8) matches .next _) = true := by decide

end Sys2Proof.Tests
end

section
/-! PROOFS. BUS_SET (R34 to R36, R53): the checks, the settings brought within their ranges, and the refresh timer. -/

open Sys2Proof Sys2Proof.Machine

namespace Sys2Proof.Proofs.BusSet

theorem exec_busSet (h : Hdr) (r : BusRequest) (s : State) : exec (.busSet h r) s = execBusSet h r s := rfl

/-! ### The settings within their ranges (R35) -/

theorem clamp_eq_min (lo hi n : Nat) : clamp lo hi n = if n < lo then lo else min n hi := by
  unfold clamp
  split
  · rfl
  · split <;> omega

theorem clamp_zero_eq_min (hi n : Nat) : clamp 0 hi n = min n hi := by
  rw [clamp_eq_min, if_neg (Nat.not_lt_zero n)]

theorem clamp_one_eq_min (hi n : Nat) : clamp 1 hi n = if n = 0 then 1 else min n hi := by
  simp only [clamp_eq_min, Nat.lt_one_iff]

theorem appliedBus_eq (clock : BusClock) (r : BusRequest) :
    appliedBus clock r =
      { clock := clock
        wait8io := min r.wait8io 7, wait16io := min r.wait16io 7
        wait8mem := min r.wait8mem 7, wait16mem := min r.wait16mem 7
        waitLimit := if r.waitLimit < 2 then 2 else min r.waitLimit 1000
        refresh := r.refresh ≠ 0
        period := if (r.period + 2) / 5 * 5 < 100 then 100 else min ((r.period + 2) / 5 * 5) 200
        burst := if r.burst = 0 then 1 else min r.burst 255 } := by
  simp only [appliedBus, appliedPeriod, clamp_zero_eq_min, clamp_one_eq_min, clamp_eq_min 2, clamp_eq_min 100]

/-! ### The refresh timer (R36, R53) -/

theorem setRefresh_eq (a : Arbiter) (now : Time) (was : Bool) (b : BusSettings) :
    a.setRefresh now was b =
      if b.refresh = true then { a with refreshAt := some ⟨halfMicros now, b.period / 5⟩ }
      else if was = true then { a with refreshAt := none, owed := 0, shortfall := false }
      else a := by
  unfold Arbiter.setRefresh
  cases hb : b.refresh with
  | true => rfl
  | false => cases was <;> rfl

theorem appliedBus_refresh (clock : BusClock) (r : BusRequest) :
    (appliedBus clock r).refresh = true ↔ r.refresh ≠ 0 := decide_eq_true_iff

theorem appliedBus_period (clock : BusClock) (r : BusRequest) :
    (appliedBus clock r).period =
      if (r.period + 2) / 5 * 5 < 100 then 100 else min ((r.period + 2) / 5 * 5) 200 := by
  rw [appliedBus_eq]

/-! ### The checks (R34) and what follows each -/

theorem anyPowered_iff (s : State) :
    s.anyPowered = true ↔ ∃ i : SlotId, s.slots[i].state ≠ .off ∧ s.slots[i].state ≠ .fault := by
  simp [State.anyPowered]

/-- The slots, and so the check of them, are as before the reading of the record. -/
theorem anyPowered_link (s : State) (l : Link) : State.anyPowered { s with link := l } = s.anyPowered := rfl

/-- A BUS_SET that is read and routed at once reaches the cycle engine. -/
theorem exec_busSet_served (s : State) (h : Hdr) (r : BusRequest) (hs : Served s h) :
    exec (.busSet h r) s = .next (serveBusSet h r { s with link := s.link.taken s.now h.more }) := by
  rw [exec_busSet, execBusSet]
  exact takeRequest_served _ h kBusSet 10 0 _ s hs (by decide) (by decide) (by decide)

theorem serveBusSet_range (s : State) (h : Hdr) (r : BusRequest) (hc : r.clock = none) :
    serveBusSet h r { s with link := s.link.taken s.now h.more } = s.answered h 0x10 .range .empty := by
  simp only [serveBusSet, hc, State.refuse_taken]

theorem serveBusSet_state (s : State) (h : Hdr) (r : BusRequest) {clock : BusClock} (hc : r.clock = some clock)
    (hp : s.anyPowered = true) :
    serveBusSet h r { s with link := s.link.taken s.now h.more } = s.answered h 0x10 .state .empty := by
  simp only [serveBusSet, hc, anyPowered_link, hp, if_true, State.refuse_taken]

theorem serveBusSet_ok (s : State) (h : Hdr) (r : BusRequest) {clock : BusClock} (hc : r.clock = some clock)
    (hp : s.anyPowered = false) :
    serveBusSet h r { s with link := s.link.taken s.now h.more } =
      { s.answered h 0x10 .ok (.busSettings (appliedBus clock r)) with
        bus := appliedBus clock r
        arb := s.arb.setRefresh s.now s.bus.refresh (appliedBus clock r) } := by
  simp only [serveBusSet, hc, anyPowered_link, hp, Bool.false_eq_true, if_false]
  exact State.reply_taken
    { s with bus := appliedBus clock r, arb := s.arb.setRefresh s.now s.bus.refresh (appliedBus clock r) } h
    kBusSet .ok (.busSettings (appliedBus clock r))

/-- Settles O22: the clock decides RANGE, then the slots STATE, and otherwise the applied settings are those of R35 and the
refresh timer follows them. -/
theorem busSetAppliesTheSettings : Obligations.BusSetAppliesTheSettings := by
  intro s h r hs
  rw [exec_busSet_served s h r hs]
  cases hc : r.clock with
  | none => exact congrArg _ (serveBusSet_range s h r hc)
  | some clock =>
    simp only [← anyPowered_iff, ← appliedBus_eq]
    cases hp : s.anyPowered with
    | true => rw [if_pos rfl, serveBusSet_state s h r hc hp]
    | false =>
      rw [if_neg Bool.false_ne_true, serveBusSet_ok s h r hc hp, setRefresh_eq]
      simp only [appliedBus_refresh, appliedBus_period]

end Sys2Proof.Proofs.BusSet
end

section
/-! PROOFS. The command link (chapter 11): HELLO (R170), LINK_SET served at once or routed from a hold (R171), and the records that
are refused FRAME, KIND or SIZE (R165, R166). -/

open Sys2Proof Sys2Proof.Machine

namespace Sys2Proof.Proofs.CommandLink

/-! ### HELLO (R170) -/

theorem exec_hello (h : Hdr) (s : State) : exec (.hello h) s = execHello h s := rfl

/-- A HELLO that is read and routed at once reaches the link unit. -/
theorem exec_hello_served (s : State) (h : Hdr) (hs : Served s h) :
    exec (.hello h) s = .next (serveHello h { s with link := s.link.taken s.now h.more }) := by
  rw [exec_hello, execHello]
  exact takeRequest_served _ h kHello 0 0 _ s hs (by decide) (by decide) (by decide)

theorem serveHello_taken (s : State) (h : Hdr) :
    serveHello h { s with link := s.link.taken s.now h.more } = s.answered h kHello .ok (helloBody s.now) :=
  State.reply_taken s h kHello .ok (helloBody s.now)

/-- The channels' numbers on the bus: 0 to 3 and 5 to 7. -/
theorem chanNumbers_eq : (List.finRange 7).map chanNumber = [0, 1, 2, 3, 5, 6, 7] := by decide

theorem helloBody_eq (now : Time) :
    helloBody now = .hello 0x2E61 0x0216 1 4 [0, 1, 2, 3, 5, 6, 7] [9, 10, 11, 12, 14, 15, 3, 4, 5, 6, 7] 16 16777216 24 8 64
      4 16 32 1024 now := by
  rw [helloBody, chanNumbers_eq, lineNumbers]

/-- Settles O7: the reply takes the reservation of the HELLO just read, and its content is the part's constants and the time. -/
theorem helloReportsTheCapacities : Obligations.HelloReportsTheCapacities := by
  intro s h hs
  rw [exec_hello_served s h hs, serveHello_taken, helloBody_eq]

/-! ### LINK_SET (R171) -/

theorem exec_linkSet (h : Hdr) (units : Nat) (s : State) : exec (.linkSet h units) s = execLinkSet h units s := rfl

theorem exec_heldRequestRouted (s : State) : exec .heldRequestRouted s = execHeldRequestRouted s := rfl

theorem appliedInterval_eq (units : Nat) :
    appliedInterval units = if units = 0 then 0 else if units < 5 then 5 else if 500 < units then 500 else units := rfl

/-- What LINK_SET does to the link unit: the deadline counts from the last record read. -/
theorem setInterval_eq (l : Link) (units : Nat) :
    l.setInterval units = { l with
      interval := appliedInterval units
      stage := if appliedInterval units = 0 then 0 else l.stage
      watchdogAt := if appliedInterval units = 0 then none else some ⟨l.lastRecord, appliedInterval units * 10000⟩ } := by
  unfold Link.setInterval
  by_cases hv : appliedInterval units = 0
  · simp only [hv, if_true]
  · simp only [hv, if_false, watchdogFrom]

/-- A reply that has its reservation is placed. -/
theorem place_reserved (l : Link) (r : Report) (hr : 1 ≤ l.reservations) :
    l.place r = { l with reports := l.reports ++ [r], reservations := l.reservations - 1 } := by
  rw [Link.place, if_neg (Nat.one_le_iff_ne_zero.mp hr)]

theorem reply_reserved (s : State) (kind tag : Nat) (st : Status) (b : Body) (hr : 1 ≤ s.link.reservations) :
    s.reply kind tag st b = { s with link := { s.link with
      reports := s.link.reports ++ [.reply (kind + 0x80) tag st b], reservations := s.link.reservations - 1 } } := by
  rw [State.reply, State.modLink, place_reserved _ _ hr, replyKind]

/-- LINK_SET's service of a request that has its reservation. -/
theorem serveLinkSet_reserved (s : State) (h : Hdr) (units : Nat) (hr : 1 ≤ s.link.reservations) :
    serveLinkSet h units s =
      let v := appliedInterval units
      { s with link := { s.link with
        interval := v, stage := if v = 0 then 0 else s.link.stage
        watchdogAt := if v = 0 then none else some ⟨s.link.lastRecord, v * 10000⟩
        reports := s.link.reports ++ [.reply 0x82 h.tag .ok (.linkInterval v)]
        reservations := s.link.reservations - 1 } } := by
  rw [serveLinkSet, State.modLink, setInterval_eq]
  exact reply_reserved _ kLinkSet h.tag .ok _ hr

/-- The reading has just cleared the stage and set last_record_time (R172), so the deadline runs from now. -/
theorem serveLinkSet_taken (s : State) (h : Hdr) (units : Nat) :
    serveLinkSet h units { s with link := s.link.taken s.now h.more } =
      let v := appliedInterval units
      let a := s.answered h kLinkSet .ok (.linkInterval v)
      { a with link := { a.link with
        interval := v, stage := 0, watchdogAt := if v = 0 then none else some ⟨s.now, v * 10000⟩ } } := by
  have hr : 1 ≤ (s.link.taken s.now h.more).reservations := Nat.le_add_left 1 _
  refine (serveLinkSet_reserved { s with link := s.link.taken s.now h.more } h units hr).trans ?_
  simp only [State.answered, Link.answered, Link.taken, ite_self, Nat.add_sub_cancel]

/-- A LINK_SET that is read and routed at once reaches the link unit. -/
theorem exec_linkSet_served (s : State) (h : Hdr) (units : Nat) (hs : Served s h) :
    exec (.linkSet h units) s = .next (serveLinkSet h units { s with link := s.link.taken s.now h.more }) := by
  rw [exec_linkSet, execLinkSet]
  exact takeRequest_served _ h kLinkSet 2 0 _ s hs (by decide) (by decide) (by decide)

/-- A request held for the batches before it is routed once the cycle queue is empty. -/
theorem exec_heldRequestRouted_ordered (s : State) (c : Instr) (hh : s.link.held = some (c, .ordered))
    (hq : s.queue = []) :
    exec .heldRequestRouted s = .next (route c { s with link := { s.link with held := none } }) := by
  have hr : s.heldReady = true := by simp only [State.heldReady, hh, hq, List.isEmpty_nil]
  simp only [exec_heldRequestRouted, execHeldRequestRouted, hh, hr, if_true, State.modLink]

/-- Settles O8: one service of the interval, which counts from the last record read. That is the LINK_SET itself, also after a
hold, since nothing is read while a request is held (R169). -/
theorem linkSetSetsTheWatchdog : Obligations.LinkSetSetsTheWatchdog := by
  intro s h units
  simp only [← appliedInterval_eq]
  constructor
  · intro hs
    rw [exec_linkSet_served s h units hs]
    exact congrArg _ (serveLinkSet_taken s h units)
  · intro hh hq hr
    rw [exec_heldRequestRouted_ordered s _ hh hq]
    exact congrArg _ (serveLinkSet_reserved { s with link := { s.link with held := none } } h units hr)

/-! ### Refused records (R165, R166) -/

theorem exec_frameRefused (f : FrameFault) (s : State) : exec (.frameRefused f) s = execFrameRefused f s := rfl

theorem exec_kindOrSizeRefused (h : Hdr) (kind length getCount : Nat) (s : State) :
    exec (.kindOrSizeRefused h kind length getCount) s = execKindOrSizeRefused h kind length getCount s := rfl

/-- A refusal takes the reservation of the record just read. -/
theorem replyRefused_taken (s : State) (more : Bool) (tag : Nat) (st : Status) (kind : Nat) :
    State.replyRefused { s with link := s.link.taken s.now more } tag st kind =
      { s with link := s.link.answered s.now more (.reply 0x80 tag st (.kindCode kind)) } := by
  simp only [State.replyRefused, State.modLink, Link.place_taken]

/-- A record that is too long is refused like another, and the rest of its transfer is discarded. -/
theorem tooLong_taken (s : State) (more : Bool) (kind tag : Nat) :
    State.tooLong kind tag more { s with link := s.link.taken s.now more } =
      { s with link := { s.link.answered s.now more (.reply 0x80 tag .frame (.kindCode kind)) with
        parser := if more then .discarding else .idle } } := by
  rw [State.tooLong, State.replyRefused, State.modLink, State.modLink, place_reserved _ _ (Nat.le_add_left 1 _)]
  rfl

/-- A record with a frame fault that is read at once is answered. -/
theorem exec_frameRefused_reads (s : State) (f : FrameFault) (hs : Reads s) :
    exec (.frameRefused f) s = .next (refuseFrame f { s with link := s.link.taken s.now (frameMore f) }) := by
  rw [exec_frameRefused, execFrameRefused, offerRecord_reads _ _ _ s hs]

theorem recordCheck_unknown {kind : Nat} (length getCount : Nat) (hk : allowedLength kind = none) :
    recordCheck kind length getCount = .kind := by
  simp only [recordCheck, hk]

theorem recordCheck_wrongLength {kind length : Nat} (getCount : Nat) {ok : Nat → Bool}
    (hk : allowedLength kind = some ok) (hl : ok length = false) : recordCheck kind length getCount = .size := by
  simp only [recordCheck, hk, hl, Bool.not_false, if_true]

/-- A MIRROR_GET of the right length whose count is outside 1 to 1,016. -/
theorem recordCheck_getCount {getCount : Nat} (hc : getCount = 0 ∨ 1016 < getCount) :
    recordCheck kMirrorGet 6 getCount = .size := by
  have hb : (decide (getCount < 1) || decide (1016 < getCount)) = true := by
    simpa only [Bool.or_eq_true, decide_eq_true_iff, Nat.lt_one_iff] using hc
  simp only [recordCheck, allowedLength, hb, beq_self_eq_true, Bool.not_true, Bool.false_eq_true, Bool.true_and, if_false,
    if_true]

/-- A record with a tag and a length within the frame that fails R166's checks is refused with their status. -/
theorem checkRecord_refuses (c : Instr) (h : Hdr) (kind length getCount : Nat) (serve : State → State) (s : State)
    (hl : length ≤ Config.maxPayload) (ht : h.tag ≠ 0) {st : Status} (hk : recordCheck kind length getCount = st)
    (hst : st ≠ .ok) : checkRecord c h kind length getCount serve s = s.replyRefused h.tag st kind := by
  simp only [checkRecord, if_neg (Nat.not_lt.mpr hl), if_neg ht, hk]

/-- A record that is read at once and fails R166's checks is answered with their status. -/
theorem exec_kindOrSizeRefused_reads (s : State) (hs : Reads s) (h : Hdr) (kind length getCount : Nat) (ht : h.tag ≠ 0)
    (hl : length ≤ Config.maxPayload) {st : Status} (hk : recordCheck kind length getCount = st) (hst : st ≠ .ok) :
    exec (.kindOrSizeRefused h kind length getCount) s = .next (s.answered h 0 st (.kindCode kind)) := by
  have hbad : ¬ (decide (recordCheck kind length getCount = .ok) && decide (h.tag ≠ 0)) = true := by simp [hk, hst]
  rw [exec_kindOrSizeRefused, execKindOrSizeRefused, if_neg hbad, offerRecord_reads _ _ _ s hs,
    checkRecord_refuses _ h kind length getCount _ _ hl ht hk hst, replyRefused_taken]
  rfl

/-- Settles O11: each frame fault by its reply, then each way a record fails R166's checks by the status they give. -/
theorem refusedRecordsAreAnswered : Obligations.RefusedRecordsAreAnswered := by
  intro s hs
  refine ⟨fun bytes kind tag => ?overrun, fun kind tag more => ?tooLong, fun kind more => ?tagZero,
    fun h kind length count ht hl => ⟨fun hk => ?unknown, fun ok hk hbad => ?wrongLength, fun hk h6 hc => ?getCount⟩⟩
  case overrun =>
    rw [exec_frameRefused_reads s _ hs]
    exact congrArg _ (replyRefused_taken s false _ .frame _)
  case tooLong =>
    rw [exec_frameRefused_reads s _ hs]
    exact congrArg _ (tooLong_taken s more kind tag)
  case tagZero =>
    rw [exec_frameRefused_reads s _ hs]
    exact congrArg _ (replyRefused_taken s more 0 .frame kind)
  case unknown =>
    exact exec_kindOrSizeRefused_reads s hs h kind length count ht hl (recordCheck_unknown length count hk) (by decide)
  case wrongLength =>
    exact exec_kindOrSizeRefused_reads s hs h kind length count ht hl (recordCheck_wrongLength count hk hbad) (by decide)
  case getCount =>
    subst hk h6
    exact exec_kindOrSizeRefused_reads s hs h _ _ count ht hl (recordCheck_getCount hc) (by decide)

end Sys2Proof.Proofs.CommandLink
end

section
/-! PROOFS. The laws of the mirror store, the region table and the ship queues (R104, R105, R124): every operation of the memory map
and the fill shipper keeps them. -/

open Sys2Proof Sys2Proof.Machine

namespace Sys2Proof.Proofs.MapLaws

/-! ### Sets of ids -/

theorem mem_setInsert {n : Nat} (x y : Fin n) (xs : List (Fin n)) : y ∈ setInsert x xs ↔ y = x ∨ y ∈ xs := by
  induction xs with
  | nil => simp [setInsert]
  | cons z zs ih =>
    unfold setInsert
    split
    · simp
    · split
      · simp_all
      · simp only [List.mem_cons, ih]; tauto

theorem mem_setRemove {n : Nat} (x y : Fin n) (xs : List (Fin n)) : y ∈ setRemove x xs ↔ y ∈ xs ∧ y ≠ x := by
  simp [setRemove]

/-! ### What store work and placed replies leave alone -/

/-- Placed replies change the link unit alone. -/
theorem each_replyNow_eq {α : Type} (xs : List α) (r : α → PendingReply) (s : State) :
    (s.each xs fun x t => t.replyNow (r x)) = { s with link := (s.each xs fun x t => t.replyNow (r x)).link } := by
  induction xs generalizing s with
  | nil => rfl
  | cons x xs ih => rw [State.each_cons, ih]; rfl

theorem each_reply_eq {α : Type} (xs : List α) (kind : Nat) (tag : α → Nat) (st : Status) (b : α → Body) (s : State) :
    (s.each xs fun x t => t.reply kind (tag x) st (b x)) =
      { s with link := (s.each xs fun x t => t.reply kind (tag x) st (b x)).link } := by
  induction xs generalizing s with
  | nil => rfl
  | cons x xs ih => rw [State.each_cons, ih]; rfl

/-- Store work changes the store and the link unit alone. -/
theorem applyStoreOp_eq (op : StoreOp) (s : State) :
    s.applyStoreOp op = { s with store := (s.applyStoreOp op).store, link := (s.applyStoreOp op).link } := by
  cases op with
  | put a bs r => cases r <;> rfl
  | get a n r => cases r <;> rfl
  | zero b n rs =>
    simp only [State.applyStoreOp]
    rw [each_replyNow_eq]

theorem submitStoreOp_eq (op : StoreOp) (s : State) :
    s.submitStoreOp op = { s with
      store := (s.submitStoreOp op).store, storeWaits := (s.submitStoreOp op).storeWaits, link := (s.submitStoreOp op).link } := by
  unfold State.submitStoreOp
  split
  · rfl
  · rw [applyStoreOp_eq]

theorem each_applyStoreOp_eq (ops : List StoreOp) (s : State) :
    s.each ops State.applyStoreOp =
      { s with store := (s.each ops State.applyStoreOp).store, link := (s.each ops State.applyStoreOp).link } := by
  induction ops generalizing s with
  | nil => rfl
  | cons op ops ih =>
    rw [State.each_cons, ih (s.applyStoreOp op), applyStoreOp_eq op s]

theorem runStoreWaits_eq (s : State) :
    s.runStoreWaits = { s with store := s.runStoreWaits.store, storeWaits := [], link := s.runStoreWaits.link } :=
  each_applyStoreOp_eq s.storeWaits { s with storeWaits := [] }

/-! ### The laws of the memory map, kept together -/

/-- The laws of the store, the region table and the ship queues that `s` meets, `t` meets too. -/
structure MapKeeps (s t : State) : Prop where
  store : StoreOk s → StoreOk t
  regions : RegionsOk s → RegionsOk t
  ship : ShipOk s → ShipOk t

theorem MapKeeps.refl (s : State) : MapKeeps s s := ⟨id, id, id⟩

theorem MapKeeps.trans {s t u : State} (h : MapKeeps s t) (h' : MapKeeps t u) : MapKeeps s u :=
  ⟨h'.store ∘ h.store, h'.regions ∘ h.regions, h'.ship ∘ h.ship⟩

/-- The same with the later part first: the operation applied last is the one a goal shows. -/
theorem MapKeeps.after {s t u : State} (h' : MapKeeps t u) (h : MapKeeps s t) : MapKeeps s u := h.trans h'

theorem MapKeeps.of_eq {s t : State} (hs : t.store = s.store) (hr : t.regions = s.regions) : MapKeeps s t := by
  refine ⟨fun h => ?_, fun h => ?_, fun h => ?_⟩
  · rwa [StoreOk, hs]
  · rwa [RegionsOk, hr]
  · rwa [ShipOk, hr]

theorem MapKeeps.each {α : Type} (f : α → State → State) (hf : ∀ (x : α) (s : State), MapKeeps s (f x s)) (xs : List α)
    (s : State) : MapKeeps s (s.each xs f) := by
  induction xs generalizing s with
  | nil => exact .refl s
  | cons x xs ih => exact (hf x s).trans (ih (f x s))

theorem MapKeeps.ite {p : Prop} [Decidable p] {s t u : State} (h : p → MapKeeps s t) (h' : ¬p → MapKeeps s u) :
    MapKeeps s (if p then t else u) := by
  split
  · next hp => exact h hp
  · next hp => exact h' hp

/-- A change of the store alone that keeps the canonical form. -/
theorem MapKeeps.of_store {s t : State} (hs : StoreOk s → StoreOk t) (hr : t.regions = s.regions) : MapKeeps s t := by
  have h := MapKeeps.of_eq (s := s) (t := { t with store := s.store }) rfl hr
  exact ⟨hs, h.regions, h.ship⟩

/-! ### The region table -/

theorem meets_comm (f g : RegionFields) : f.meets g = g.meets f := by
  simp only [RegionFields.meets, Bool.and_comm]

/-- A change of one entry keeps the extents apart where what the entry then holds is apart from every other entry's. -/
theorem regionsOk_modRegion {s : State} {id : RegionId} {f : Region → Region} (h : RegionsOk s)
    (hf : ∀ x ∈ (f s.regions[id]).held, ∀ j : RegionId, j ≠ id → ∀ g ∈ s.regions[j].held, x.meets g = false) :
    RegionsOk (s.modRegion id f) := by
  intro i j hij x hx g hg
  rw [State.regions_modRegion] at hx hg
  by_cases hi : i = id
  · have hj : j ≠ id := fun hj => hij (hi.trans hj.symm)
    rw [if_pos hi] at hx
    rw [if_neg hj] at hg
    exact hf x hx j hj g hg
  · rw [if_neg hi] at hx
    by_cases hj : j = id
    · rw [if_pos hj] at hg
      rw [meets_comm]
      exact hf g hg i hi x hx
    · rw [if_neg hj] at hg
      exact h i j hij x hx g hg

/-- A change of one entry that adds nothing to what it holds. -/
theorem regionsOk_modRegion_of_subset {s : State} {id : RegionId} {f : Region → Region} (h : RegionsOk s)
    (hf : ∀ x ∈ (f s.regions[id]).held, x ∈ s.regions[id].held) : RegionsOk (s.modRegion id f) :=
  regionsOk_modRegion h fun x hx j hj g hg => h id j (Ne.symm hj) x (hf x hx) g hg

/-- A region asked for that overlaps none is apart from what every other entry holds (R104, R106). -/
theorem meets_of_not_overlaps {s : State} {id : RegionId} {f : RegionFields} (h : s.overlaps id f = false)
    (j : RegionId) (hj : j ≠ id) (g : RegionFields) (hg : g ∈ s.regions[j].held) : f.meets g = false := by
  simp only [State.overlaps, List.any_eq_false, Bool.and_eq_true, decide_eq_true_eq, not_and] at h
  have := h j (List.mem_finRange j) hj
  simpa using (List.any_eq_false.mp (by simpa using this)) g hg

theorem shipOk_modRegion {s : State} {id : RegionId} {f : Region → Region} (h : ShipOk s)
    (hf : s.regions[id].ship.Ok → (f s.regions[id]).ship.Ok) : ShipOk (s.modRegion id f) := by
  intro i
  rw [State.regions_modRegion]
  split
  · exact hf (h id)
  · exact h i

theorem MapKeeps.modRegion (s : State) (id : RegionId) (f : Region → Region)
    (hf : ∀ x ∈ (f s.regions[id]).held, x ∈ s.regions[id].held)
    (hs : s.regions[id].ship.Ok → (f s.regions[id]).ship.Ok) : MapKeeps s (s.modRegion id f) :=
  ⟨fun h => h, fun h => regionsOk_modRegion_of_subset h hf, fun h => shipOk_modRegion h hs⟩

theorem MapKeeps.modShip (s : State) (id : RegionId) (f : ShipQueue → ShipQueue)
    (hs : s.regions[id].ship.Ok → (f s.regions[id].ship).Ok) : MapKeeps s (s.modShip id f) :=
  MapKeeps.modRegion s id (fun g => { g with ship := f g.ship }) (fun _ hx => hx) hs

/-- A change of a queue that leaves its entries and their total. -/
theorem MapKeeps.modShip_of_eq (s : State) (id : RegionId) (f : ShipQueue → ShipQueue)
    (he : ∀ q, (f q).entries = q.entries) (hd : ∀ q, (f q).dirtyTotal = q.dirtyTotal) : MapKeeps s (s.modShip id f) :=
  MapKeeps.modShip s id f fun h => by rw [ShipQueue.Ok, he, hd]; exact h

/-! ### Ship queues (R124, R125) -/

theorem span_le_span_widen (e : ShipEntry) (p : Nat) : e.span ≤ (e.widen p).span := by
  simp only [ShipEntry.span, ShipEntry.widen]
  omega

theorem granules_markEntry (es : List ShipEntry) (g p : Nat) (now : Time) :
    (markEntry es g p now).map ShipEntry.granule =
      if es.any (·.granule == g) then es.map ShipEntry.granule else es.map ShipEntry.granule ++ [g] := by
  unfold markEntry
  split
  · rw [List.map_map]
    refine List.map_congr_left fun e _ => ?_
    simp only [Function.comp_apply]
    split <;> rfl
  · simp

/-- Widening the one entry of a granule adds to the sum of the spans what the entry gains. -/
theorem sum_span_widen (es : List ShipEntry) (g p : Nat) (hn : (es.map ShipEntry.granule).Nodup)
    (ha : es.any (·.granule == g) = true) :
    ((es.map fun e => if e.granule == g then e.widen p else e).map ShipEntry.span).sum =
      (es.map ShipEntry.span).sum + markGain es g p := by
  induction es with
  | nil => simp at ha
  | cons e es ih =>
    simp only [List.map_cons, List.nodup_cons] at hn
    obtain ⟨hne, hn⟩ := hn
    by_cases he : e.granule = g
    · have hrest : (es.map fun e => if e.granule == g then e.widen p else e) = es := by
        conv_rhs => rw [← List.map_id es]
        refine List.map_congr_left fun x hx => ?_
        have : x.granule ≠ g := fun h => hne (List.mem_map.mpr ⟨x, hx, h.trans he.symm⟩)
        simp [this]
      have hle := span_le_span_widen e p
      simp only [List.map_cons, hrest, List.sum_cons, markGain, List.find?_cons, he, beq_self_eq_true, if_true]
      omega
    · have hb : (e.granule == g) = false := by simpa using he
      have ha' : es.any (·.granule == g) = true := by simpa [he] using ha
      have hg : markGain (e :: es) g p = markGain es g p := by simp [markGain, hb]
      simp only [List.map_cons, List.sum_cons, hb, Bool.false_eq_true, if_false, ih hn ha', hg]
      omega

/-- A mark keeps the law of its queue (R124). -/
theorem shipQueue_ok_mark (q : ShipQueue) (age : Nat) (now : Time) (off : Nat) (h : q.Ok) : (q.mark age now off).Ok := by
  obtain ⟨hn, hd⟩ := h
  by_cases ha : q.entries.any (·.granule == off / 64) = true
  · refine ⟨?_, ?_⟩
    · simp only [ShipQueue.mark, granules_markEntry, ha, if_true]; exact hn
    · simp only [ShipQueue.mark, markEntry, ha, if_true, sum_span_widen _ _ _ hn ha, hd]
  · have hg : markGain q.entries (off / 64) (off % 64) = 1 := by
      have : q.entries.find? (·.granule == off / 64) = none := by
        simpa [List.find?_eq_none, List.any_eq_true] using ha
      simp only [markGain, this]
    refine ⟨?_, ?_⟩
    · simp only [ShipQueue.mark, granules_markEntry, ha, Bool.false_eq_true, if_false]
      refine List.nodup_append.mpr ⟨hn, List.nodup_singleton _, ?_⟩
      rintro x hx y hy rfl
      obtain ⟨e, he, rfl⟩ := List.mem_map.mp hx
      exact ha (List.any_eq_true.mpr ⟨e, he, by simpa using List.mem_singleton.mp hy⟩)
    · simp [ShipQueue.mark, markEntry, ha, hg, hd, ShipEntry.span]

/-- The entries that packing leaves are the tail of those given (R127). -/
theorem packEntries_suffix (used : Nat) (last : Option ShipEntry) (done : List Span) (es : List ShipEntry) :
    (packEntries used last done es).2 <:+ es := by
  induction es generalizing used last done with
  | nil => exact List.suffix_refl []
  | cons e es ih =>
    have hrest : ∀ u l d, (packEntries u l d es).2 <:+ e :: es := fun u l d => (ih u l d).trans (List.suffix_cons e es)
    unfold packEntries
    cases done with
    | nil =>
      simp only
      split
      · exact hrest _ _ _
      · exact List.suffix_refl _
    | cons d ds =>
      simp only
      split
      · split
        · exact hrest _ _ _
        · exact List.suffix_refl _
      · split
        · exact hrest _ _ _
        · exact List.suffix_refl _

/-- What a pass takes from the head and what it leaves make up the queue. -/
theorem take_append_of_suffix {α : Type} {rest xs : List α} (h : rest <:+ xs) :
    xs.take (xs.length - rest.length) ++ rest = xs := by
  obtain ⟨front, rfl⟩ := h
  simp

/-- Taking the head of a queue keeps its law (R125). -/
theorem shipQueue_ok_take (q : ShipQueue) (age : Nat) (taken rest : List ShipEntry) (hq : taken ++ rest = q.entries)
    (h : q.Ok) : (q.take age taken rest).Ok := by
  obtain ⟨hn, hd⟩ := h
  rw [← hq, List.map_append] at hn hd
  rw [List.sum_append] at hd
  exact ⟨(List.nodup_append.mp hn).2.1, by simp only [ShipQueue.take, hd]; omega⟩

/-! ### Store work -/

theorem regions_applyStoreOp (op : StoreOp) (s : State) : (s.applyStoreOp op).regions = s.regions :=
  (congrArg State.regions (applyStoreOp_eq op s) :)

theorem storeOk_applyStoreOp (op : StoreOp) (s : State) (h : StoreOk s) : StoreOk (s.applyStoreOp op) := by
  cases op with
  | put a bs r => cases r <;> exact Memory.writeAll_wf bs s.store a h
  | get a n r => cases r <;> exact h
  | zero b n rs =>
    have he := each_replyNow_eq rs (fun r => r) { s with store := Memory.zero s.store b n }
    have hs : (s.applyStoreOp (.zero b n rs)).store = Memory.zero s.store b n := (congrArg State.store he :)
    rw [StoreOk, hs]
    exact Memory.zero_wf s.store b n h

theorem mapKeeps_applyStoreOp (op : StoreOp) (s : State) : MapKeeps s (s.applyStoreOp op) :=
  .of_store (storeOk_applyStoreOp op s) (regions_applyStoreOp op s)

theorem mapKeeps_submitStoreOp (op : StoreOp) (s : State) : MapKeeps s (s.submitStoreOp op) :=
  .ite (fun _ => .of_eq rfl rfl) fun _ => mapKeeps_applyStoreOp op s

theorem mapKeeps_runStoreWaits (s : State) : MapKeeps s s.runStoreWaits :=
  .trans (t := { s with storeWaits := [] }) (.of_eq rfl rfl) (.each State.applyStoreOp mapKeeps_applyStoreOp s.storeWaits _)

theorem mapKeeps_modChan (c : ChanId) (f : Chan → Chan) (s : State) : MapKeeps s (s.modChan c f) := .of_eq rfl rfl
theorem mapKeeps_modRelay (f : Relay → Relay) (s : State) : MapKeeps s (s.modRelay f) := .of_eq rfl rfl
theorem mapKeeps_modLine (l : LineId) (f : Line → Line) (s : State) : MapKeeps s (s.modLine l f) := .of_eq rfl rfl
theorem mapKeeps_notice (n : Notice) (s : State) : MapKeeps s (s.notice n) := .of_eq rfl rfl

theorem mapKeeps_replyNow (r : PendingReply) (s : State) : MapKeeps s (s.replyNow r) := .of_eq rfl rfl

/-! ### Placement and removal of regions -/

/-- A region is placed where its extent is apart from every other entry's, or is one the entry held before. -/
theorem mapKeeps_placeRegion (id : RegionId) (f : RegionFields) (rs : List PendingReply) (s : State)
    (hf : RegionsOk s → ∀ j : RegionId, j ≠ id → ∀ g ∈ s.regions[j].held, f.meets g = false) :
    MapKeeps s (s.placeRegion id f rs) := by
  have hplaced : MapKeeps s (s.modRegion id fun _ => { cond := .active, fields := f }) := by
    refine ⟨fun h => h, fun h => regionsOk_modRegion h ?_, fun h => shipOk_modRegion h fun _ => ⟨List.nodup_nil, rfl⟩⟩
    intro x hx
    rw [List.mem_singleton.mp hx]
    exact hf h
  have htrickle (b : Bool) : MapKeeps s ((s.modRegion id fun _ => { cond := .active, fields := f }).modShip id
      fun q => { q with trickling := b }) := hplaced.trans (MapKeeps.modShip_of_eq _ id _ (fun _ => rfl) fun _ => rfl)
  unfold State.placeRegion
  dsimp only
  split
  · exact .after (mapKeeps_submitStoreOp _ _) (htrickle _)
  · exact .after (.each _ (fun r t => mapKeeps_replyNow r t) rs _) (htrickle _)

theorem mapKeeps_removeRegion (id : RegionId) (s : State) (hd : s.regions[id].cond = .dropping) :
    MapKeeps s (s.removeRegion id) := by
  have hw : MapKeeps s { s with written := setRemove id s.written } := .of_eq rfl rfl
  cases hsucc : s.regions[id].successor with
  | some f =>
    simp only [State.removeRegion, hsucc]
    refine hw.trans (mapKeeps_placeRegion id f _ _ fun h j hj g hg => h id j (Ne.symm hj) f ?_ g hg)
    have hheld : s.regions[id].held = s.regions[id].fields :: s.regions[id].successor.toList := by
      rw [Region.held, hd]
    show f ∈ s.regions[id].held
    rw [hheld, hsucc]
    exact List.mem_cons_of_mem _ (List.mem_singleton.mpr rfl)
  | none =>
    simp only [State.removeRegion, hsucc]
    have hgone : MapKeeps s (State.modRegion { s with written := setRemove id s.written } id fun _ => {}) :=
      hw.trans (.modRegion _ id (fun _ => {}) (by simp [Region.held]) fun _ => ⟨List.nodup_nil, rfl⟩)
    exact .after (.each _ (fun w t => mapKeeps_replyNow _ t) _ _) hgone

/-! ### Ship passes -/

theorem mapKeeps_mapPassEnded (id : RegionId) (s : State) : MapKeeps s (s.mapPassEnded id) := by
  have hflush := MapKeeps.modRegion s id (fun g => { g with flushWaiters := [] }) (fun _ hx => hx) fun h => h
  have hreply : MapKeeps s ((s.modRegion id fun g => { g with flushWaiters := [] }).each s.regions[id].flushWaiters
      fun tag t => t.replyNow ⟨kRegionFlush, tag, .empty⟩) := .after (.each _ (fun _ t => mapKeeps_replyNow _ t) _ _) hflush
  refine .ite (fun hd => hreply.trans (mapKeeps_removeRegion id _ ?_)) fun _ => hreply
  rw [each_replyNow_eq]
  dsimp only
  rw [State.regions_modRegion, if_pos rfl]
  exact hd

theorem mapKeeps_endPass (id : RegionId) (s : State) : MapKeeps s (s.endPass id) := by
  unfold State.endPass
  refine .after (.ite (fun _ => mapKeeps_mapPassEnded id _) fun _ => .refl _) ?_
  refine .after (.ite (fun _ => mapKeeps_modRelay _ _) fun _ => .refl _) ?_
  refine .after (.each _ (fun _ _ => mapKeeps_modChan _ _ _) _ _) ?_
  exact MapKeeps.modShip_of_eq s id _ (fun _ => rfl) fun _ => rfl

theorem mapKeeps_beginPass (id : RegionId) (s : State) : MapKeeps s (s.beginPass id) :=
  .trans (MapKeeps.modShip_of_eq s id (fun q => { q with running := true }) (fun _ => rfl) fun _ => rfl)
    (.ite (fun _ => mapKeeps_endPass id _) fun _ => .of_eq rfl rfl)

theorem mapKeeps_trigger (id : RegionId) (s : State) : MapKeeps s (s.trigger id) :=
  .ite (fun _ => mapKeeps_beginPass id s) fun _ => .refl s

theorem mapKeeps_demand (id : RegionId) (d : Demander) (s : State) : MapKeeps s (s.demand id d) :=
  .trans (MapKeeps.modShip_of_eq s id (fun q => { q with waiters := q.waiters.add d }) (fun _ => rfl) fun _ => rfl)
    (.ite (fun _ => .refl _) fun _ => mapKeeps_beginPass id _)

theorem mapKeeps_handByte (id : RegionId) (off : Nat) (s : State) : MapKeeps s (s.handByte id off) :=
  MapKeeps.modRegion s id _ (fun _ hx => hx) fun h => shipQueue_ok_mark _ _ _ _ h

theorem mapKeeps_admitFill (id : RegionId) (s : State) : MapKeeps s (s.admitFill id) := by
  unfold State.admitFill
  dsimp only
  refine .after (.ite (fun _ => mapKeeps_endPass id _) fun _ => .of_eq rfl rfl) ?_
  refine .after (mapKeeps_notice _ _) (.after (MapKeeps.modShip _ id _ fun h => ?_) ?_)
  · exact shipQueue_ok_take _ _ _ _ (take_append_of_suffix (packEntries_suffix 2 none [] _)) h
  · exact .of_eq rfl rfl

/-! ### The relay and the channels -/

theorem mapKeeps_demandLinked (l : LineId) (s : State) : MapKeeps s (s.demandLinked l) := by
  unfold State.demandLinked
  split
  · exact .refl s
  · split
    · exact .refl s
    · exact .after (mapKeeps_demand _ _ _) (mapKeeps_modRelay _ _)

theorem mapKeeps_formNotice (ls : List LineId) (o : Origin) (s : State) : MapKeeps s (s.formNotice ls o) := by
  unfold State.formNotice
  exact .after (mapKeeps_modRelay _ _) (.after (.each State.demandLinked mapKeeps_demandLinked ls _)
    (.after (mapKeeps_modRelay _ _) (.each _ (fun l t => mapKeeps_modLine l _ t) ls s)))

theorem mapKeeps_addCause (c : ChanId) (k : Cause) (s : State) : MapKeeps s (s.addCause c k) := by
  simp only [State.addCause]
  split
  · exact mapKeeps_modChan _ _ s
  · exact .after (mapKeeps_demand _ _ _) (.after (mapKeeps_modChan _ _ _) (mapKeeps_modChan _ _ s))

end Sys2Proof.Proofs.MapLaws
end

section
/-! PROOFS. Ship passes and those who wait for them (R126, R129, R130, R133, R143): what the end of a pass does to each block, and that
every operation of the shipper, the relay and the channels keeps the law of the passes. -/

open Sys2Proof Sys2Proof.Machine Sys2Proof.Proofs.MapLaws

namespace Sys2Proof.Proofs.PassLaws

/-! ### Removal of a region (R111, R113) -/

theorem regions_modShip (s : State) (c d : RegionId) (f : ShipQueue → ShipQueue) :
    (s.modShip c f).regions[d] = if d = c then { s.regions[c] with ship := f s.regions[c].ship } else s.regions[d] :=
  State.regions_modRegion s c d _

/-- A placed region is ACTIVE with the fields given, its queue empty; the other entries stay. -/
theorem placeRegion_eq (id : RegionId) (f : RegionFields) (rs : List PendingReply) (s : State) :
    s.placeRegion id f rs = { s with
      regions := s.regions.set id { cond := .active, fields := f, ship :=
        { trickling := (s.modRegion id fun _ => { cond := .active, fields := f }).isTrickling id } }
      store := (s.placeRegion id f rs).store, storeWaits := (s.placeRegion id f rs).storeWaits
      link := (s.placeRegion id f rs).link } := by
  simp only [State.placeRegion]
  split
  · rw [submitStoreOp_eq]
    simp [State.modShip, State.modRegion]
  · rw [each_replyNow_eq]
    simp [State.modShip, State.modRegion]

/-- A removal changes the region table, the written set, the store and the link unit alone. -/
theorem removeRegion_eq (id : RegionId) (s : State) :
    s.removeRegion id = { s with
      regions := (s.removeRegion id).regions, written := setRemove id s.written, store := (s.removeRegion id).store
      storeWaits := (s.removeRegion id).storeWaits, link := (s.removeRegion id).link } := by
  simp only [State.removeRegion]
  split
  · rw [placeRegion_eq]
  · rw [each_replyNow_eq]
    rfl

theorem regions_removeRegion (id : RegionId) (s : State) :
    ∃ g : Region, (s.removeRegion id).regions = s.regions.set id g ∧ g.cond ≠ .dropping ∧ g.flushWaiters = [] ∧
      g.ship.running = false := by
  simp only [State.removeRegion]
  split
  · rw [placeRegion_eq]
    exact ⟨_, rfl, by simp, rfl, rfl⟩
  · rw [each_replyNow_eq]
    exact ⟨{}, rfl, by decide, rfl, rfl⟩

/-! ### The end of a pass (R130) -/

/-- The memory map told of the end of a pass: nothing but the region's entry, the written set, the store and the link unit change. -/
theorem mapPassEnded_eq (id : RegionId) (s : State) :
    s.mapPassEnded id = { s with
      regions := (s.mapPassEnded id).regions, written := (s.mapPassEnded id).written, store := (s.mapPassEnded id).store
      storeWaits := (s.mapPassEnded id).storeWaits, link := (s.mapPassEnded id).link } := by
  simp only [State.mapPassEnded]
  split
  · rw [removeRegion_eq, each_replyNow_eq]
    rfl
  · rw [each_replyNow_eq]
    rfl

/-- After it nobody waits for the pass through the memory map, and the region's pass is as it was, or the region is gone. -/
theorem regions_mapPassEnded (id : RegionId) (s : State) :
    ∃ g : Region, (s.mapPassEnded id).regions = s.regions.set id g ∧ g.cond ≠ .dropping ∧ g.flushWaiters = [] ∧
      (g.ship.running = true → s.regions[id].ship.running = true) := by
  simp only [State.mapPassEnded]
  split
  · rw [each_replyNow_eq]
    obtain ⟨g, hg, hd, hf, hr⟩ := regions_removeRegion id
      { s.modRegion id fun g => { g with flushWaiters := [] } with
        link := ((s.modRegion id fun g => { g with flushWaiters := [] }).each s.regions[id].flushWaiters
          fun tag t => t.replyNow ⟨kRegionFlush, tag, .empty⟩).link }
    refine ⟨g, hg.trans ?_, hd, hf, fun h => absurd (hr.symm.trans h) Bool.false_ne_true⟩
    simp [State.modRegion]
  · next hd =>
    rw [each_replyNow_eq]
    exact ⟨_, rfl, hd, rfl, fun h => h⟩

/-- The channels told of the end of a pass await it no more. -/
theorem chans_each_setRemove (id : RegionId) (cs : List ChanId) (s : State) (c : ChanId) :
    ((s.each cs fun c t => t.modChan c fun ch => { ch with awaitedRegions := setRemove id ch.awaitedRegions }).chans[c]) =
      if c ∈ cs then { s.chans[c] with awaitedRegions := setRemove id s.chans[c].awaitedRegions } else s.chans[c] := by
  induction cs generalizing s with
  | nil => simp
  | cons d cs ih =>
    rw [State.each_cons, ih, State.chans_modChan]
    by_cases hd : c = d
    · subst hd
      by_cases hc : c ∈ cs <;> simp [hc, setRemove, List.filter_filter]
    · simp [hd]

theorem each_modChan_eq {α : Type} (xs : List α) (c : α → ChanId) (f : α → Chan → Chan) (s : State) :
    (s.each xs fun x t => t.modChan (c x) (f x)) =
      { s with chans := (s.each xs fun x t => t.modChan (c x) (f x)).chans } := by
  induction xs generalizing s with
  | nil => rfl
  | cons x xs ih => rw [State.each_cons, ih]; rfl

/-- The state of a pass's end before the memory map is told: IDLE, without waiters, the channels and the relay told. -/
def toldBlocks (id : RegionId) (s : State) : State :=
  let w := s.regions[id].ship.waiters
  let s := s.modShip id fun q => { q with running := false, waiters := {} }
  let s := s.each w.chans fun c t => t.modChan c fun ch => { ch with awaitedRegions := setRemove id ch.awaitedRegions }
  if w.relay then s.relayPassEnded id else s

theorem endPass_eq_told (id : RegionId) (s : State) :
    s.endPass id = if s.regions[id].ship.waiters.map then (toldBlocks id s).mapPassEnded id else toldBlocks id s := rfl

theorem toldBlocks_eq (id : RegionId) (s : State) :
    toldBlocks id s = { s with
      regions := s.regions.set id { s.regions[id] with ship := { s.regions[id].ship with running := false, waiters := {} } }
      chans := (toldBlocks id s).chans, relay := (toldBlocks id s).relay } := by
  have he := each_modChan_eq s.regions[id].ship.waiters.chans (fun c => c)
    (fun _ ch => { ch with awaitedRegions := setRemove id ch.awaitedRegions })
    (s.modShip id fun q => { q with running := false, waiters := {} })
  unfold toldBlocks
  dsimp only
  rw [he]
  split <;> rfl

theorem chans_toldBlocks (id : RegionId) (s : State) (c : ChanId) :
    (toldBlocks id s).chans[c] =
      if c ∈ s.regions[id].ship.waiters.chans then
        { s.chans[c] with awaitedRegions := setRemove id s.chans[c].awaitedRegions } else s.chans[c] := by
  have h := chans_each_setRemove id s.regions[id].ship.waiters.chans
    (s.modShip id fun q => { q with running := false, waiters := {} }) c
  unfold toldBlocks
  dsimp only
  split <;> exact h

theorem relay_toldBlocks (id : RegionId) (s : State) :
    (toldBlocks id s).relay =
      if s.regions[id].ship.waiters.relay then
        { s.relay with
          awaited := setRemove id s.relay.awaited
          hand := if s.relay.hand = .flushing && (setRemove id s.relay.awaited).isEmpty then .claiming else s.relay.hand }
      else s.relay := by
  have he := each_modChan_eq s.regions[id].ship.waiters.chans (fun c => c)
    (fun _ ch => { ch with awaitedRegions := setRemove id ch.awaitedRegions })
    (s.modShip id fun q => { q with running := false, waiters := {} })
  unfold toldBlocks
  dsimp only
  rw [he]
  split <;> rfl

theorem fillLine_endPass (id : RegionId) (s : State) : (s.endPass id).fillLine = s.fillLine := by
  rw [endPass_eq_told]
  split
  · rw [mapPassEnded_eq, toldBlocks_eq]
  · rw [toldBlocks_eq]

theorem lines_endPass (id : RegionId) (s : State) : (s.endPass id).lines = s.lines := by
  rw [endPass_eq_told]
  split
  · rw [mapPassEnded_eq, toldBlocks_eq]
  · rw [toldBlocks_eq]

theorem chans_endPass (id : RegionId) (s : State) (c : ChanId) :
    (s.endPass id).chans[c] =
      if c ∈ s.regions[id].ship.waiters.chans then
        { s.chans[c] with awaitedRegions := setRemove id s.chans[c].awaitedRegions } else s.chans[c] := by
  rw [endPass_eq_told]
  split
  · rw [mapPassEnded_eq]; exact chans_toldBlocks id s c
  · exact chans_toldBlocks id s c

theorem relay_endPass (id : RegionId) (s : State) :
    (s.endPass id).relay =
      if s.regions[id].ship.waiters.relay then
        { s.relay with
          awaited := setRemove id s.relay.awaited
          hand := if s.relay.hand = .flushing && (setRemove id s.relay.awaited).isEmpty then .claiming else s.relay.hand }
      else s.relay := by
  rw [endPass_eq_told]
  split
  · rw [mapPassEnded_eq]; exact relay_toldBlocks id s
  · exact relay_toldBlocks id s

/-- At its end the pass is IDLE, and where the memory map is told, nobody waits for it there. -/
theorem regions_endPass (id : RegionId) (s : State) :
    ∃ g : Region, (s.endPass id).regions = s.regions.set id g ∧ g.ship.running = false ∧
      (s.regions[id].ship.waiters.map = true → g.cond ≠ .dropping ∧ g.flushWaiters = []) ∧
      (s.regions[id].ship.waiters.map = false → g.cond = s.regions[id].cond ∧ g.flushWaiters = s.regions[id].flushWaiters) := by
  have hr : (toldBlocks id s).regions = s.regions.set id
      { s.regions[id] with ship := { s.regions[id].ship with running := false, waiters := {} } } :=
    (congrArg State.regions (toldBlocks_eq id s) :)
  rw [endPass_eq_told]
  split
  · next hm =>
    obtain ⟨g, hg, hd, hf, hrun⟩ := regions_mapPassEnded id (toldBlocks id s)
    refine ⟨g, by rw [hg, hr]; simp, ?_, fun _ => ⟨hd, hf⟩, fun h => absurd (h.symm.trans hm) Bool.false_ne_true⟩
    by_contra h
    have := hrun (by simpa using h)
    simp [hr] at this
  · next hm =>
    exact ⟨_, hr, rfl, fun h => absurd h hm, fun _ => ⟨rfl, rfl⟩⟩

/-! ### The law of the passes -/

/-- A demander awaits a region's pass. -/
def Awaits (s : State) : Demander → RegionId → Prop
  | .chan c, r => r ∈ s.chans[c].awaitedRegions
  | .relay, r => r ∈ s.relay.awaited
  | .map, r => s.regions[r].cond = .dropping ∨ s.regions[r].flushWaiters ≠ []

/-- A demander is among those a pass tells. -/
def Told (w : PassWaiters) : Demander → Prop
  | .chan c => c ∈ w.chans
  | .relay => w.relay = true
  | .map => w.map = true

theorem told_add (w : PassWaiters) (d d' : Demander) : Told (w.add d) d' ↔ d' = d ∨ Told w d' := by
  cases d <;> cases d' <;> simp [Told, PassWaiters.add, mem_setInsert]

/-- `PassesOk` but for the relay's hand. -/
structure Running (s : State) : Prop where
  nodup : s.fillLine.Nodup
  line : ∀ r : RegionId, r ∈ s.fillLine ↔ s.regions[r].ship.running = true
  mirror : ∀ r : RegionId, s.regions[r].ship.running = true → s.regions[r].isMirror = true
  waits : ∀ (d : Demander) (r : RegionId), Awaits s d r →
    s.regions[r].ship.running = true ∧ Told s.regions[r].ship.waiters d

/-- The hand is FLUSHING exactly while it awaits a pass. -/
def HandOk (s : State) : Prop := s.relay.hand = .flushing ↔ s.relay.awaited ≠ []

theorem passesOk_iff (s : State) : PassesOk s ↔ Running s ∧ HandOk s := by
  constructor
  · rintro ⟨⟨hn, hl⟩, hm, hc, hr, hh, hw⟩
    refine ⟨⟨hn, hl, hm, fun d r h => ?_⟩, hh⟩
    cases d with
    | chan c => exact hc c r h
    | relay => exact hr r h
    | map => exact hw r h
  · rintro ⟨⟨hn, hl, hm, hw⟩, hh⟩
    exact ⟨⟨hn, hl⟩, hm, fun c r h => hw (.chan c) r h, fun r h => hw .relay r h, hh, fun r h => hw .map r h⟩

/-- The pass of one region is being begun or ended: it stands outside the fill line, and whoever awaits it is among its waiters. -/
structure RunningBut (id : RegionId) (s : State) : Prop where
  nodup : s.fillLine.Nodup
  outside : id ∉ s.fillLine
  line : ∀ r : RegionId, r ≠ id → (r ∈ s.fillLine ↔ s.regions[r].ship.running = true)
  mirror : ∀ r : RegionId, r ≠ id → s.regions[r].ship.running = true → s.regions[r].isMirror = true
  waits : ∀ (d : Demander) (r : RegionId), Awaits s d r →
    (r ≠ id → s.regions[r].ship.running = true) ∧ Told s.regions[r].ship.waiters d

/-- An IDLE pass stands outside the fill line, and nobody awaits it. -/
theorem Running.but {id : RegionId} {s : State} (h : Running s) (hr : s.regions[id].ship.running = false) :
    RunningBut id s where
  nodup := h.nodup
  outside hm := absurd (hr.symm.trans ((h.line id).mp hm)) Bool.false_ne_true
  line r _ := h.line r
  mirror r _ := h.mirror r
  waits d r ha := ⟨fun _ => (h.waits d r ha).1, (h.waits d r ha).2⟩

theorem Running.not_awaits {id : RegionId} {s : State} (h : Running s) (hr : s.regions[id].ship.running = false)
    (d : Demander) : ¬ Awaits s d id := fun ha =>
  absurd (hr.symm.trans (h.waits d id ha).1) Bool.false_ne_true

/-- A pass that ends leaves the law of the passes: every demander has been told (R130). -/
theorem running_endPass {id : RegionId} {s : State} (h : RunningBut id s) : Running (s.endPass id) := by
  obtain ⟨g, hg, hidle, hmap, hkeep⟩ := regions_endPass id s
  have hreg (r : RegionId) : (s.endPass id).regions[r] = if r = id then g else s.regions[r] := by
    rw [hg]
    simp only [Fin.getElem_fin, Vector.getElem_set, Fin.ext_iff, eq_comm]
  have hline := fillLine_endPass id s
  refine ⟨by rw [hline]; exact h.nodup, fun r => ?line, fun r hr => ?mirror, fun d r ha => ?waits⟩
  case line =>
    rw [hline, hreg]
    split
    · next hr => subst hr; simpa [hidle] using h.outside
    · next hr => exact h.line r hr
  case mirror =>
    rw [hreg] at hr ⊢
    split at hr
    · simp [hidle] at hr
    · next hne => rw [if_neg hne]; exact h.mirror r hne hr
  case waits =>
    have hstill : r ≠ id ∧ Awaits s d r := by
      cases d with
      | chan c =>
        simp only [Awaits, chans_endPass] at ha
        split at ha
        · exact ((mem_setRemove _ _ _).mp ha).symm
        · next hc =>
          refine ⟨fun hr => hc ?_, ha⟩
          subst hr
          exact (h.waits (.chan c) r ha).2
      | relay =>
        simp only [Awaits, relay_endPass] at ha
        split at ha
        · exact ((mem_setRemove _ _ _).mp ha).symm
        · next hc =>
          refine ⟨fun hr => hc ?_, ha⟩
          subst hr
          exact (h.waits .relay r ha).2
      | map =>
        simp only [Awaits, hreg] at ha
        by_cases hr : r = id
        · subst hr
          simp only [if_true] at ha
          cases hm : s.regions[r].ship.waiters.map with
          | true =>
            obtain ⟨hd, hf⟩ := hmap hm
            exact absurd ha (by simp [hd, hf])
          | false =>
            obtain ⟨hd, hf⟩ := hkeep hm
            rw [hd, hf] at ha
            exact absurd (hm.symm.trans (h.waits .map r ha).2) Bool.false_ne_true
        · simp only [if_neg hr] at ha
          exact ⟨hr, ha⟩
    obtain ⟨hne, ha'⟩ := hstill
    obtain ⟨hrun, htold⟩ := h.waits d r ha'
    rw [hreg, if_neg hne]
    exact ⟨hrun hne, htold⟩

/-- A change of a queue that leaves its waiters leaves who awaits what. -/
theorem awaits_modShip (s : State) (id : RegionId) (f : ShipQueue → ShipQueue) (d : Demander) (r : RegionId) :
    Awaits (s.modShip id f) d r ↔ Awaits s d r := by
  cases d with
  | chan c => exact Iff.rfl
  | relay => exact Iff.rfl
  | map =>
    simp only [Awaits, regions_modShip]
    by_cases hr : r = id <;> simp [hr]

theorem isMirror_modShip (s : State) (id : RegionId) (f : ShipQueue → ShipQueue) (r : RegionId) :
    (s.modShip id f).regions[r].isMirror = s.regions[r].isMirror := by
  rw [regions_modShip]
  by_cases hr : r = id <;> simp [hr, Region.isMirror]

/-- A change of the queue of the region whose pass begins or ends. -/
theorem RunningBut.modShip {id : RegionId} {s : State} (h : RunningBut id s) (f : ShipQueue → ShipQueue)
    (hf : ∀ d, Told s.regions[id].ship.waiters d → Told (f s.regions[id].ship).waiters d) :
    RunningBut id (s.modShip id f) where
  nodup := h.nodup
  outside := h.outside
  line r hr := by rw [regions_modShip, if_neg hr]; exact h.line r hr
  mirror r hr := by rw [isMirror_modShip, regions_modShip, if_neg hr]; exact h.mirror r hr
  waits d r ha := by
    obtain ⟨hrun, htold⟩ := h.waits d r ((awaits_modShip s id f d r).mp ha)
    rw [regions_modShip]
    by_cases hr : r = id
    · subst hr
      simp only [if_true]
      exact ⟨fun h => absurd rfl h, hf d htold⟩
    · simp only [if_neg hr]
      exact ⟨hrun, htold⟩

/-- A pass that begins: it ends at once with nothing queued, and otherwise joins the fill line (R126). -/
theorem running_beginPass {id : RegionId} {s : State} (h : RunningBut id s) (hm : s.regions[id].isMirror = true) :
    Running (s.beginPass id) := by
  have hb := h.modShip (fun q => { q with running := true }) fun _ ht => ht
  unfold State.beginPass
  dsimp only
  split
  · exact running_endPass hb
  · have hreg (r : RegionId) := regions_modShip s id r fun q => { q with running := true }
    refine ⟨?_, fun r => ?_, fun r hr => ?_, fun d r ha => ?_⟩
    · exact List.nodup_append.mpr ⟨h.nodup, List.nodup_singleton _, by
        rintro x hx y hy rfl
        exact h.outside (List.mem_singleton.mp hy ▸ hx)⟩
    · by_cases hr : r = id
      · subst hr; simp
      · have := h.line r hr
        simp only [List.mem_append, List.mem_singleton, hr, or_false, hreg, if_false]
        exact this
    · rw [isMirror_modShip]
      by_cases hr' : r = id
      · rwa [hr']
      · rw [hreg, if_neg hr'] at hr; exact h.mirror r hr' hr
    · obtain ⟨hrun, htold⟩ := hb.waits d r ha
      refine ⟨?_, htold⟩
      by_cases hr' : r = id
      · subst hr'; rw [hreg, if_pos rfl]
      · exact hrun hr'

theorem running_trigger {id : RegionId} {s : State} (h : Running s) : Running (s.trigger id) := by
  unfold State.trigger
  split
  · next hc =>
    simp only [Bool.and_eq_true, Bool.not_eq_true'] at hc
    exact running_beginPass (h.but hc.2) hc.1
  · exact h

/-- A change of a queue that leaves its pass as it is. -/
theorem Running.modShip {id : RegionId} {s : State} (h : Running s) (f : ShipQueue → ShipQueue)
    (hr : (f s.regions[id].ship).running = s.regions[id].ship.running)
    (hw : ∀ d, Told s.regions[id].ship.waiters d → Told (f s.regions[id].ship).waiters d) : Running (s.modShip id f) := by
  have hrun (r : RegionId) : (s.modShip id f).regions[r].ship.running = s.regions[r].ship.running := by
    rw [regions_modShip]
    by_cases h : r = id
    · subst h; rw [if_pos rfl, hr]
    · rw [if_neg h]
  refine ⟨h.nodup, fun r => by rw [hrun]; exact h.line r, fun r => by rw [hrun, isMirror_modShip]; exact h.mirror r, ?_⟩
  intro d r ha
  obtain ⟨h1, h2⟩ := h.waits d r ((awaits_modShip s id f d r).mp ha)
  rw [hrun, regions_modShip]
  refine ⟨h1, ?_⟩
  by_cases hr' : r = id
  · subst hr'; rw [if_pos rfl]; exact hw d h2
  · rw [if_neg hr']; exact h2

/-- The demander `d` now awaits the pass of `id`, which it is about to demand: it alone may not be among the waiters yet. -/
structure Demanding (id : RegionId) (d : Demander) (s : State) : Prop where
  nodup : s.fillLine.Nodup
  line : ∀ r : RegionId, r ∈ s.fillLine ↔ s.regions[r].ship.running = true
  mirror : ∀ r : RegionId, s.regions[r].ship.running = true → s.regions[r].isMirror = true
  waits : ∀ (d' : Demander) (r : RegionId), Awaits s d' r → d' = d ∧ r = id ∨
    s.regions[r].ship.running = true ∧ Told s.regions[r].ship.waiters d'

/-- The demand records the demander, and begins the pass or joins it (R126, R133). -/
theorem running_demand {id : RegionId} {d : Demander} {s : State} (h : Demanding id d s)
    (hm : s.regions[id].isMirror = true) : Running (s.demand id d) := by
  have hreg (r : RegionId) := regions_modShip s id r fun q => { q with waiters := q.waiters.add d }
  have hrun (r : RegionId) : (s.modShip id fun q => { q with waiters := q.waiters.add d }).regions[r].ship.running =
      s.regions[r].ship.running := by
    rw [hreg]; by_cases h : r = id <;> simp [h]
  have hwaits (d' : Demander) (r : RegionId) (ha : Awaits (s.modShip id fun q => { q with waiters := q.waiters.add d }) d' r) :
      (r ≠ id → s.regions[r].ship.running = true) ∧
      Told (s.modShip id fun q => { q with waiters := q.waiters.add d }).regions[r].ship.waiters d' := by
    rw [hreg]
    by_cases hr : r = id
    · subst hr
      simp only [if_true, told_add]
      rcases h.waits d' r ((awaits_modShip s _ _ d' r).mp ha) with ⟨h1, -⟩ | ⟨-, h2⟩
      · exact ⟨fun h => absurd rfl h, .inl h1⟩
      · exact ⟨fun h => absurd rfl h, .inr h2⟩
    · simp only [if_neg hr]
      rcases h.waits d' r ((awaits_modShip s _ _ d' r).mp ha) with ⟨-, h1⟩ | ⟨h1, h2⟩
      · exact absurd h1 hr
      · exact ⟨fun _ => h1, h2⟩
  unfold State.demand
  dsimp only
  split
  · next hid =>
    rw [hrun] at hid
    refine ⟨h.nodup, fun r => by rw [hrun]; exact h.line r, fun r => by rw [hrun, isMirror_modShip]; exact h.mirror r, ?_⟩
    intro d' r ha
    obtain ⟨h1, h2⟩ := hwaits d' r ha
    rw [hrun]
    refine ⟨?_, h2⟩
    by_cases hr : r = id
    · rwa [hr]
    · exact h1 hr
  · next hid =>
    rw [hrun] at hid
    refine running_beginPass ⟨h.nodup, fun hin => hid ((h.line id).mp hin), fun r _ => by rw [hrun]; exact h.line r,
      fun r _ => by rw [hrun, isMirror_modShip]; exact h.mirror r, fun d' r ha => ?_⟩ (by rwa [isMirror_modShip])
    rw [hrun]
    exact hwaits d' r ha

/-- What leaves the region table, the fill line and who awaits what alone. -/
theorem Running.of_eq {s t : State} (h : Running s) (hl : t.fillLine = s.fillLine) (hr : t.regions = s.regions)
    (hc : ∀ (c : ChanId) (r : RegionId), r ∈ t.chans[c].awaitedRegions → r ∈ s.chans[c].awaitedRegions)
    (hw : ∀ r : RegionId, r ∈ t.relay.awaited → r ∈ s.relay.awaited) : Running t := by
  refine ⟨by rw [hl]; exact h.nodup, by rw [hl, hr]; exact h.line, by rw [hr]; exact h.mirror, fun d r ha => ?_⟩
  rw [hr]
  refine h.waits d r ?_
  cases d with
  | chan c => exact hc c r ha
  | relay => exact hw r ha
  | map => rwa [Awaits, hr] at ha

/-- A change of an entry that leaves its shape, its pass and who awaits it, or awaits less. -/
theorem Running.modRegion {id : RegionId} {s : State} (h : Running s) (f : Region → Region)
    (hr : (f s.regions[id]).ship.running = s.regions[id].ship.running)
    (hm : s.regions[id].ship.running = true → (f s.regions[id]).isMirror = s.regions[id].isMirror)
    (hw : (f s.regions[id]).ship.waiters = s.regions[id].ship.waiters)
    (ha : (f s.regions[id]).cond = .dropping ∨ (f s.regions[id]).flushWaiters ≠ [] →
      s.regions[id].cond = .dropping ∨ s.regions[id].flushWaiters ≠ []) : Running (s.modRegion id f) := by
  have hreg (r : RegionId) := State.regions_modRegion s id r f
  have hrun (r : RegionId) : (s.modRegion id f).regions[r].ship.running = s.regions[r].ship.running := by
    rw [hreg]; by_cases h : r = id
    · subst h; rw [if_pos rfl, hr]
    · rw [if_neg h]
  refine ⟨h.nodup, fun r => by rw [hrun]; exact h.line r, fun r hr' => ?_, fun d r hd => ?_⟩
  · rw [hrun] at hr'
    rw [hreg]
    by_cases h' : r = id
    · subst h'; rw [if_pos rfl, hm hr']; exact h.mirror r hr'
    · rw [if_neg h']; exact h.mirror r hr'
  · have hd' : Awaits s d r := by
      cases d with
      | chan c => exact hd
      | relay => exact hd
      | map =>
        simp only [Awaits, hreg] at hd
        by_cases h' : r = id
        · subst h'; simp only [if_true] at hd; exact ha hd
        · rw [if_neg h'] at hd; exact hd
    obtain ⟨h1, h2⟩ := h.waits d r hd'
    rw [hrun, hreg]
    refine ⟨h1, ?_⟩
    by_cases h' : r = id
    · subst h'; rw [if_pos rfl, hw]; exact h2
    · rw [if_neg h']; exact h2

/-- An entry whose pass is IDLE is replaced by one whose pass is IDLE, that nobody waits for. -/
theorem Running.replace {id : RegionId} {s t : State} {g : Region} (h : Running s) (hidle : s.regions[id].ship.running = false)
    (ht : t.regions = s.regions.set id g) (hl : t.fillLine = s.fillLine) (hc : t.chans = s.chans) (hrl : t.relay = s.relay)
    (hg : g.ship.running = false) (hd : g.cond ≠ .dropping) (hf : g.flushWaiters = []) : Running t := by
  have hreg (r : RegionId) : t.regions[r] = if r = id then g else s.regions[r] := by
    rw [ht]; simp only [Fin.getElem_fin, Vector.getElem_set, Fin.ext_iff, eq_comm]
  refine ⟨by rw [hl]; exact h.nodup, fun r => ?_, fun r hr => ?_, fun d r ha => ?_⟩
  · rw [hl, hreg]
    split
    · next hr => subst hr; rw [hg, h.line r, hidle]
    · exact h.line r
  · rw [hreg] at hr ⊢
    split at hr
    · simp [hg] at hr
    · next hne => rw [if_neg hne]; exact h.mirror r hr
  · have ha' : r ≠ id ∧ Awaits s d r := by
      cases d with
      | chan c =>
        rw [Awaits, hc] at ha
        exact ⟨fun hr => h.not_awaits hidle (.chan c) (hr ▸ ha), ha⟩
      | relay =>
        rw [Awaits, hrl] at ha
        exact ⟨fun hr => h.not_awaits hidle .relay (hr ▸ ha), ha⟩
      | map =>
        simp only [Awaits, hreg] at ha
        by_cases hr : r = id
        · simp [hr, hd, hf] at ha
        · rw [if_neg hr] at ha; exact ⟨hr, ha⟩
    rw [hreg, if_neg ha'.1]
    exact h.waits d r ha'.2

/-! ### The relay's hand -/

theorem handOk_endPass (id : RegionId) {s : State} (h : HandOk s) : HandOk (s.endPass id) := by
  unfold HandOk at h ⊢
  rw [relay_endPass]
  split
  · by_cases hf : s.relay.hand = .flushing
    · by_cases ha : setRemove id s.relay.awaited = [] <;> simp [hf, ha]
    · have hn : s.relay.awaited = [] := by simpa [hf] using h
      simp [hf, hn, setRemove]
  · exact h

theorem handOk_beginPass (id : RegionId) {s : State} (h : HandOk s) : HandOk (s.beginPass id) := by
  unfold State.beginPass
  dsimp only
  split
  · exact handOk_endPass id (s := s.modShip id _) h
  · exact h

theorem handOk_trigger (id : RegionId) {s : State} (h : HandOk s) : HandOk (s.trigger id) := by
  unfold State.trigger
  split
  · exact handOk_beginPass id h
  · exact h

theorem handOk_demand (id : RegionId) (d : Demander) {s : State} (h : HandOk s) : HandOk (s.demand id d) := by
  unfold State.demand
  dsimp only
  split
  · exact h
  · exact handOk_beginPass id (s := s.modShip id _) h

end Sys2Proof.Proofs.PassLaws
end

section
/-! PROOFS. Every operation that commands share keeps every law of the part: passes and triggers, the relay's notice in hand, causes
and masks, grants of the bus, the cycle queue, the timed lane and the census. -/

open Sys2Proof Sys2Proof.Machine Sys2Proof.Proofs.MapLaws Sys2Proof.Proofs.PassLaws

namespace Sys2Proof.Proofs.Laws

/-! ### The laws, kept together -/

/-- Each law of the part that `s` meets, `t` meets too. -/
structure Keeps (s t : State) : Prop where
  map : MapKeeps s t
  slots : SlotsOk s → SlotsOk t
  room : RoomOk s → RoomOk t
  refresh : RefreshOk s → RefreshOk t
  rules : RulesOk s → RulesOk t
  queue : QueueOk s → QueueOk t
  bus : BusOk s → BusOk t
  passes : PassesOk s → PassesOk t

theorem Keeps.refl (s : State) : Keeps s s := ⟨.refl s, id, id, id, id, id, id, id⟩

/-- The later part comes first: the operation applied last is the one a goal shows. -/
theorem Keeps.after {s t u : State} (h' : Keeps t u) (h : Keeps s t) : Keeps s u :=
  ⟨h'.map.after h.map, h'.slots ∘ h.slots, h'.room ∘ h.room, h'.refresh ∘ h.refresh, h'.rules ∘ h.rules, h'.queue ∘ h.queue,
    h'.bus ∘ h.bus, h'.passes ∘ h.passes⟩

theorem Keeps.each {α : Type} (f : α → State → State) (hf : ∀ (x : α) (s : State), Keeps s (f x s)) (xs : List α)
    (s : State) : Keeps s (s.each xs f) := by
  induction xs generalizing s with
  | nil => exact .refl s
  | cons x xs ih => exact (ih (f x s)).after (hf x s)

theorem Keeps.ite {p : Prop} [Decidable p] {s t u : State} (h : p → Keeps s t) (h' : ¬p → Keeps s u) :
    Keeps s (if p then t else u) := by
  split
  · next hp => exact h hp
  · next hp => exact h' hp

/-- Every field that a law reads, but for the channels. -/
def lawView (s : State) :=
  ((s.slots, s.link.reports, s.link.reservations, s.arb.owed, s.arb.row, s.rules, s.queue.length, s.bus),
    (s.store, s.regions, s.fillLine, s.relay.awaited, s.relay.hand))

/-- What changes no field that a law reads keeps the laws; a channel may await fewer passes. -/
theorem Keeps.of_view {s t : State} (h : lawView t = lawView s)
    (hc : ∀ (c : ChanId) (r : RegionId), r ∈ t.chans[c].awaitedRegions → r ∈ s.chans[c].awaitedRegions) : Keeps s t := by
  simp only [lawView, Prod.mk.injEq] at h
  obtain ⟨⟨hsl, hrep, hres, howed, hrow, hrules, hq, hb⟩, hst, hreg, hfl, haw, hhand⟩ := h
  refine ⟨.of_eq hst hreg, fun h => ?_, fun h => ?_, fun h => ?_, fun h => ?_, fun h => ?_, fun h => ?_, fun h => ?_⟩
  · rwa [SlotsOk, hsl]
  · rwa [RoomOk, hrep, hres]
  · rwa [RefreshOk, howed, hrow]
  · rwa [RulesOk, hrules]
  · rwa [QueueOk, hq]
  · rwa [BusOk, hb]
  · obtain ⟨hrun, hh⟩ := (passesOk_iff s).mp h
    refine (passesOk_iff t).mpr ⟨hrun.of_eq hfl hreg hc fun r hr => haw ▸ hr, ?_⟩
    rwa [HandOk, haw, hhand]

/-- What touches the memory map, the passes, the relay and the channels alone, and places replies. -/
theorem Keeps.of_outer {s t : State} (ho : t.outer = s.outer) (hl : s.link.Placed t.link) (hm : MapKeeps s t)
    (hp : PassesOk s → PassesOk t) : Keeps s t := by
  have harb := State.arb_of_outer ho
  refine ⟨hm, fun h => ?_, fun h => Link.placed_room hl _ h, fun h => ?_, fun h => ?_, fun h => ?_, fun h => ?_, hp⟩
  · rwa [SlotsOk, State.slots_of_outer ho]
  · rwa [RefreshOk, harb]
  · rwa [RulesOk, State.rules_of_outer ho]
  · rwa [QueueOk, State.queue_of_outer ho]
  · rwa [BusOk, State.bus_of_outer ho]

/-- The law of the passes goes by its two parts. -/
theorem passesOk_of {s t : State} (hr : Running s → Running t) (hh : HandOk s → HandOk t) (h : PassesOk s) : PassesOk t :=
  (passesOk_iff t).mpr (((passesOk_iff s).mp h).imp hr hh)

/-! ### Updates of one block -/

/-- A channel that awaits no pass more. -/
theorem keeps_modChan (c : ChanId) (f : Chan → Chan) (s : State)
    (hf : ∀ ch, (f ch).awaitedRegions = ch.awaitedRegions ∨ (f ch).awaitedRegions = []) : Keeps s (s.modChan c f) := by
  refine .of_view rfl fun d r hr => ?_
  rw [State.chans_modChan] at hr
  split at hr
  · next h =>
    subst h
    rcases hf s.chans[d] with h | h <;> rw [h] at hr
    · exact hr
    · cases hr
  · exact hr

theorem keeps_modChan_of_eq (c : ChanId) (f : Chan → Chan) (s : State)
    (hf : ∀ ch, (f ch).awaitedRegions = ch.awaitedRegions) : Keeps s (s.modChan c f) :=
  keeps_modChan c f s fun ch => .inl (hf ch)

theorem keeps_modDrive (i : SlotId) (f : Drive → Drive) (s : State) : Keeps s (s.modDrive i f) := .of_view rfl fun _ _ h => h
theorem keeps_modTimer (t : TimerId) (f : Timer → Timer) (s : State) : Keeps s (s.modTimer t f) := .of_view rfl fun _ _ h => h
theorem keeps_modCensus (f : Census → Census) (s : State) : Keeps s (s.modCensus f) := .of_view rfl fun _ _ h => h
theorem keeps_modLine (l : LineId) (f : Line → Line) (s : State) : Keeps s (s.modLine l f) := .of_view rfl fun _ _ h => h

theorem keeps_modArb (f : Arbiter → Arbiter) (s : State) (ho : (f s.arb).owed ≤ s.arb.owed) (hr : (f s.arb).row = s.arb.row) :
    Keeps s (s.modArb f) :=
  ⟨.of_eq rfl rfl, id, id, fun h => ⟨ho.trans h.1, by rw [State.modArb_arb, hr]; exact h.2⟩, id, id, id,
    passesOk_of (fun h => h.of_eq rfl rfl (fun _ _ h => h) fun _ h => h) id⟩

theorem keeps_modSlot (i : SlotId) (f : Slot → Slot) (s : State) (hf : s.slots[i].TableOk → (f s.slots[i]).TableOk) :
    Keeps s (s.modSlot i f) := by
  refine ⟨.of_eq rfl rfl, fun h j => ?_, id, id, id, id, id,
    passesOk_of (fun h => h.of_eq rfl rfl (fun _ _ h => h) fun _ h => h) id⟩
  rw [State.modSlot_slots]
  simp only [Fin.getElem_fin, Vector.getElem_set]
  split
  · exact hf (h i)
  · exact h j

/-- The link unit with as many records and reservations together, or fewer. -/
theorem keeps_modLink (f : Link → Link) (s : State) (hf : s.link.reports.length + s.link.reservations ≤ Config.reportCapacity →
    (f s.link).reports.length + (f s.link).reservations ≤ Config.reportCapacity) : Keeps s (s.modLink f) :=
  ⟨.of_eq rfl rfl, id, hf, id, id, id, id,
    passesOk_of (fun h => h.of_eq rfl rfl (fun _ _ h => h) fun _ h => h) id⟩

theorem keeps_reply (k tag : Nat) (st : Status) (b : Body) (s : State) : Keeps s (s.reply k tag st b) :=
  keeps_modLink _ s (Link.placed_room (s.link.placed_place _) _)

theorem keeps_refuse (k tag : Nat) (st : Status) (s : State) : Keeps s (s.refuse k tag st) := keeps_reply k tag st .empty s

theorem keeps_replyRefused (tag : Nat) (st : Status) (k : Nat) (s : State) : Keeps s (s.replyRefused tag st k) :=
  keeps_modLink _ s (Link.placed_room (s.link.placed_place _) _)

theorem keeps_release (s : State) : Keeps s s.release := keeps_modLink _ s fun h => by simp only; omega

/-- With room for a notice there is room beyond the reservations (R167). -/
theorem room_of_canAdmit {l : Link} (h : l.canAdmit = true) : l.reports.length + l.reservations < Config.reportCapacity := by
  simp only [Link.canAdmit, Bool.and_eq_true] at h
  obtain ⟨⟨-, hfree⟩, -⟩ := h
  have := of_decide_eq_true hfree
  simp only [Link.freeEntries] at this
  omega

/-- A notice is placed where there is room for it. -/
theorem keeps_notice (n : Notice) (s : State) (h : s.link.canAdmit = true) : Keeps s (s.notice n) :=
  keeps_modLink _ s fun _ => by
    have := room_of_canAdmit h
    simp only [List.length_append, List.length_singleton]
    omega

/-! ### Store work, passes, triggers -/

theorem keeps_submitStoreOp (op : StoreOp) (s : State) : Keeps s (s.submitStoreOp op) := by
  refine .of_outer (by simp) (State.placed_submitStoreOp op s) (mapKeeps_submitStoreOp op s) ?_
  rw [submitStoreOp_eq]
  exact passesOk_of (fun h => h.of_eq rfl rfl (fun _ _ h => h) fun _ h => h) id

theorem keeps_runStoreWaits (s : State) : Keeps s s.runStoreWaits := by
  refine .of_outer (by simp) s.placed_runStoreWaits (mapKeeps_runStoreWaits s) ?_
  rw [runStoreWaits_eq]
  exact passesOk_of (fun h => h.of_eq rfl rfl (fun _ _ h => h) fun _ h => h) id

theorem keeps_trigger (id : RegionId) (s : State) : Keeps s (s.trigger id) :=
  .of_outer (by simp) (s.placed_trigger id) (mapKeeps_trigger id s) (passesOk_of running_trigger (handOk_trigger id))

theorem keeps_thresholdCheck (id : RegionId) (s : State) : Keeps s (s.thresholdCheck id) :=
  .ite (fun _ => keeps_trigger id s) fun _ => .refl s

theorem keeps_ageCheck (id : RegionId) (s : State) : Keeps s (s.ageCheck id) :=
  .ite (fun _ => keeps_trigger id s) fun _ => .refl s

/-- A change of a queue that leaves its pass, who waits for it, its entries and their total. -/
theorem keeps_modShip (id : RegionId) (f : ShipQueue → ShipQueue) (s : State)
    (he : ∀ q, (f q).entries = q.entries) (hd : ∀ q, (f q).dirtyTotal = q.dirtyTotal)
    (hr : ∀ q, (f q).running = q.running) (hw : ∀ q, (f q).waiters = q.waiters) : Keeps s (s.modShip id f) :=
  .of_outer (by simp) s.link.placed_refl (.modShip_of_eq s id f he hd)
    (passesOk_of (fun h => h.modShip f (hr _) fun d ht => by rwa [hw]) fun h => h)

theorem keeps_trickleRegion (id : RegionId) (s : State) : Keeps s (s.trickleRegion id) :=
  .after (.ite (fun _ => keeps_trigger id _) fun _ => .refl _)
    (keeps_modShip id (fun q => { q with trickling := s.isTrickling id }) s (fun _ => rfl) (fun _ => rfl) (fun _ => rfl) fun _ => rfl)

theorem keeps_trickleUpdate (s : State) : Keeps s s.trickleUpdate := .each _ keeps_trickleRegion _ s

theorem keeps_handByte (id : RegionId) (off : Nat) (s : State) : Keeps s (s.handByte id off) :=
  .of_outer rfl s.link.placed_refl (mapKeeps_handByte id off s)
    (passesOk_of (fun h => h.modRegion _ rfl (fun _ => rfl) rfl fun h => h) fun h => h)

theorem keeps_storeCardBytes (id : RegionId) (addr : Nat) (bytes : List Byte) (s : State) :
    Keeps s (s.storeCardBytes id addr bytes) := by
  refine .after (.each _ (fun _ t => keeps_handByte id _ t) _ _)
    (t := { s with store := Memory.writeAll s.store addr bytes }) (.of_outer rfl s.link.placed_refl ?_ ?_)
  · exact .of_store (Memory.writeAll_wf bytes s.store addr) rfl
  · exact passesOk_of (fun h => h.of_eq rfl rfl (fun _ _ h => h) fun _ h => h) fun h => h

/-- The pass at the head of the fill line ships (R127). -/
theorem keeps_admitFill (id : RegionId) (rest : List RegionId) (s : State) (hl : s.fillLine = id :: rest)
    (hroom : s.link.canAdmit = true) : Keeps s (s.admitFill id) := by
  have hp : s.link.reports.length + s.link.reservations < Config.reportCapacity := room_of_canAdmit hroom
  refine ⟨mapKeeps_admitFill id s, ?_, fun _ => ?_, ?_, ?_, ?_, ?_, passesOk_of (fun h => ?_) fun h => ?_⟩
  · rw [SlotsOk, SlotsOk, State.slots_of_outer (State.outer_admitFill id s)]; exact fun h => h
  · unfold State.admitFill
    dsimp only
    split
    · refine Link.placed_room (State.placed_endPass id _) _ ?_
      simp only [State.notice_link, State.modShip_link, List.length_append, List.length_singleton]
      omega
    · simp only [RoomOk, State.notice_link, State.modShip_link, List.length_append, List.length_singleton]
      omega
  · rw [RefreshOk, RefreshOk, State.arb_of_outer (State.outer_admitFill id s)]; exact fun h => h
  · rw [RulesOk, RulesOk, State.rules_of_outer (State.outer_admitFill id s)]; exact fun h => h
  · rw [QueueOk, QueueOk, State.queue_of_outer (State.outer_admitFill id s)]; exact fun h => h
  · rw [BusOk, BusOk, State.bus_of_outer (State.outer_admitFill id s)]; exact fun h => h
  · have hn := h.nodup
    rw [hl, List.nodup_cons] at hn
    have hmem (r : RegionId) (hr : r ≠ id) : r ∈ rest ↔ s.regions[r].ship.running = true := by
      rw [← h.line r, hl]; simp [hr]
    have hrun : s.regions[id].ship.running = true := (h.line id).mp (by simp [hl])
    have hbut : RunningBut id { s with fillLine := s.fillLine.tail } := by
      refine ⟨?_, ?_, fun r hr => ?_, fun r _ => h.mirror r, fun d r ha => ⟨fun _ => (h.waits d r ha).1, (h.waits d r ha).2⟩⟩
      · rw [hl]; exact hn.2
      · rw [hl]; exact hn.1
      · rw [hl]; exact hmem r hr
    have hafter (f : ShipQueue → ShipQueue) (hw : ∀ q, (f q).waiters = q.waiters) (n : Notice) :
        RunningBut id ((State.modShip { s with fillLine := s.fillLine.tail } id f).notice n) := by
      have h1 := hbut.modShip f fun d ht => by rw [hw]; exact ht
      exact ⟨h1.nodup, h1.outside, h1.line, h1.mirror, h1.waits⟩
    unfold State.admitFill
    dsimp only
    split
    · exact running_endPass (hafter (fun q => q.take _ _ _) (fun _ => rfl) _)
    · have h1 := hafter (fun q => q.take (s.regions[id].fields.age.getD 0)
        (s.regions[id].ship.entries.take (s.regions[id].ship.entries.length -
          (packEntries 2 none [] s.regions[id].ship.entries).2.length)) (packEntries 2 none [] s.regions[id].ship.entries).2)
        (fun _ => rfl) (.fill id [])
      refine ⟨List.nodup_append.mpr ⟨h1.nodup, List.nodup_singleton _, ?_⟩, fun r => ?_, fun r hr => ?_, fun d r ha => ?_⟩
      · rintro x hx y hy rfl
        exact h1.outside (List.mem_singleton.mp hy ▸ hx)
      · by_cases hr : r = id
        · subst hr
          simp only [List.mem_append, List.mem_singleton, or_true, true_iff, State.notice_regions, regions_modShip, if_true]
          exact hrun
        · have := h1.line r hr
          simp only [List.mem_append, List.mem_singleton, hr, or_false]
          exact this
      · by_cases hr' : r = id
        · subst hr'
          rw [State.notice_regions, isMirror_modShip]
          exact h.mirror r hrun
        · exact h1.mirror r hr' hr
      · obtain ⟨h2, h3⟩ := h1.waits d r ha
        refine ⟨?_, h3⟩
        by_cases hr' : r = id
        · subst hr'
          simp only [State.notice_regions, regions_modShip, if_true]
          exact hrun
        · exact h2 hr'
  · unfold State.admitFill
    dsimp only
    split
    · exact handOk_endPass id (s := (State.modShip { s with fillLine := s.fillLine.tail } id _).notice _) h
    · exact h

/-- A pass is the first claimant only at the head of the fill line (R129, R167). -/
theorem fillLine_of_firstClaimant {s : State} {id : RegionId} (h : s.firstClaimant = some (.fill id)) :
    ∃ rest, s.fillLine = id :: rest := by
  unfold State.firstClaimant at h
  split at h
  · cases h
  · split at h
    · cases h
    · split at h
      · cases h
      · split at h
        · cases h
        · split at h
          · next hl => cases h; exact ⟨_, hl⟩
          · split at h
            · split at h <;> cases h
            · split at h
              · cases h
              · split at h
                · cases h
                · split at h
                  · cases h
                  · split at h <;> cases h

theorem keeps_admitFills (n : Nat) (s : State) : Keeps s (State.admitFills n s) := by
  induction n generalizing s with
  | zero => exact .refl s
  | succ n ih =>
    unfold State.admitFills
    refine .ite (fun hc => ?_) fun _ => .refl s
    simp only [Bool.and_eq_true] at hc
    split
    · next hk =>
      obtain ⟨rest, hl⟩ := fillLine_of_firstClaimant hk
      exact (ih _).after (keeps_admitFill _ rest s hl hc.1)
    · exact .refl s

/-! ### The relay's notice in hand -/

/-- The region whose pass a demand asks for is a MIRROR region. -/
theorem isMirror_of_mirrorAt {s : State} {a : Nat} {id : RegionId} (h : s.mirrorAt a = some id) :
    s.regions[id].isMirror = true := by
  have := List.find?_some h
  simp only [Bool.and_eq_true] at this
  exact this.1

/-- The relay awaits the pass and demands it (R143). -/
theorem running_demandLinked (l : LineId) {s : State} (h : Running s) : Running (s.demandLinked l) := by
  unfold State.demandLinked
  split
  · exact h
  · split
    · exact h
    · next hm =>
      refine running_demand (s := s.modRelay _) ⟨h.nodup, h.line, h.mirror, fun d r ha => ?_⟩ (isMirror_of_mirrorAt hm)
      cases d with
      | relay =>
        rcases (mem_setInsert _ _ _).mp ha with hr | hr
        · exact .inl ⟨rfl, hr⟩
        · exact .inr (h.waits .relay r hr)
      | chan c => exact .inr (h.waits (.chan c) r ha)
      | map => exact .inr (h.waits .map r ha)

/-- A hand that is not FLUSHING forms its notice: it is FLUSHING then exactly where a pass is awaited. -/
theorem passesOk_formNotice (ls : List LineId) (o : Origin) {s : State} (h : Running s) :
    PassesOk (s.formNotice ls o) := by
  have hstart : Running ((s.each ls fun l t => t.modLine l fun r => { r with chosen := true }).modRelay
      fun r => { r with origin := o }) := by
    have he : (s.each ls fun l t => t.modLine l fun r => { r with chosen := true }) =
        { s with lines := (s.each ls fun l t => t.modLine l fun r => { r with chosen := true }).lines } := by
      clear h
      induction ls generalizing s with
      | nil => rfl
      | cons l ls ih => rw [State.each_cons, ih]; rfl
    rw [he]
    exact h.of_eq rfl rfl (fun _ _ h => h) fun _ h => h
  have hdem := State.each_invariant Running State.demandLinked ls (fun l _ _ h => running_demandLinked l h) _ hstart
  unfold State.formNotice
  dsimp only
  refine (passesOk_iff _).mpr ⟨hdem.of_eq rfl rfl (fun _ _ h => h) fun _ h => h, ?_⟩
  unfold HandOk
  simp only [State.modRelay_relay]
  split
  · next he => simpa using he
  · next he => simpa using he

theorem keeps_formNotice (ls : List LineId) (o : Origin) (s : State) : Keeps s (s.formNotice ls o) :=
  .of_outer (by simp) (s.placed_formNotice ls o) (mapKeeps_formNotice ls o s) fun h =>
    passesOk_formNotice ls o ((passesOk_iff s).mp h).1

/-- A hand that is neither FLUSHING nor awaiting stays so under a change of its other fields. -/
theorem keeps_modRelay (f : Relay → Relay) (s : State)
    (haw : (f s.relay).awaited = s.relay.awaited)
    (hh : s.relay.hand = .flushing ↔ (f s.relay).hand = .flushing) : Keeps s (s.modRelay f) :=
  .of_outer rfl s.link.placed_refl (mapKeeps_modRelay f s) (passesOk_of
    (fun h => h.of_eq rfl rfl (fun _ _ h => h) fun r hr => haw ▸ hr) fun h => by
      unfold HandOk at h ⊢
      rw [State.modRelay_relay, haw, ← hh]; exact h)

/-- The hand empties, awaiting nothing. -/
theorem keeps_emptyHand (s : State) : Keeps s (s.modRelay fun r => { r with hand := .empty, awaited := [] }) :=
  .of_outer rfl s.link.placed_refl (mapKeeps_modRelay _ s) (passesOk_of
    (fun h => h.of_eq rfl rfl (fun _ _ h => h) fun r hr => by cases hr) fun _ => by simp [HandOk])

/-- A holdoff is no pass: at its end the hand, if it awaited none, awaits none. -/
theorem keeps_expireHoldoff (s : State) (hh : s.relay.hand ≠ .flushing) : Keeps s s.expireHoldoff := by
  have h0 : Keeps s (s.modRelay fun r => { r with hand := .empty, holdoffAt := none }) :=
    keeps_modRelay _ s rfl ⟨fun h => absurd h hh, fun h => by cases h⟩
  simp only [State.expireHoldoff]
  split
  · exact h0
  · exact .after (keeps_formNotice _ _ _) h0

theorem keeps_relayCheck (s : State) : Keeps s s.relayCheck := by
  unfold State.relayCheck
  refine .ite (fun _ => .refl s) fun hhand => ?_
  have hh : s.relay.hand = .empty := by simpa using hhand
  split
  · exact .refl s
  · exact keeps_formNotice _ _ s
  · have h0 : Keeps s (s.modRelay fun r => { r with hand := .holdoff, holdoffAt := some ⟨s.now, r.holdoff * 10⟩ }) :=
      keeps_modRelay _ s rfl ⟨fun h => (by rw [hh] at h; cases h), fun h => by cases h⟩
    exact .after (.ite (fun _ => keeps_expireHoldoff _ (by simp)) fun _ => .refl _) h0

theorem keeps_withdraw (l : LineId) (s : State) : Keeps s (s.withdraw l) := by
  simp only [State.withdraw]
  exact .after (.ite (fun _ => keeps_emptyHand _) fun _ => .refl _) (keeps_modLine l _ s)

theorem keeps_syncLine (l : LineId) (s : State) : Keeps s (s.syncLine l) := keeps_modLine l (·.setLevel s.now (s.lineLevel l)) s

theorem keeps_syncLines (s : State) : Keeps s s.syncLines := by
  unfold State.syncLines
  exact .after (keeps_relayCheck _) (.after (keeps_trickleUpdate _) (.each _ keeps_syncLine _ s))

/-! ### Causes and masks -/

theorem awaitedRegions_addCause (ch : Chan) (now : Time) (k : Cause) :
    (ch.addCause now k).awaitedRegions = ch.awaitedRegions := by cases k <;> rfl

/-- The channel awaits the pass and demands it (R87). -/
theorem running_demandFor (c : ChanId) (id : RegionId) {s : State} (h : Running s) (hm : s.regions[id].isMirror = true) :
    Running ((s.modChan c fun ch => { ch with awaitedRegions := setInsert id ch.awaitedRegions }).demand id (.chan c)) := by
  refine running_demand ⟨h.nodup, h.line, h.mirror, fun d r ha => ?_⟩ hm
  cases d with
  | chan e =>
    simp only [Awaits, State.chans_modChan] at ha
    by_cases he : e = c
    · subst he
      simp only [if_true] at ha
      rcases (mem_setInsert _ _ _).mp ha with hr | hr
      · exact .inl ⟨rfl, hr⟩
      · exact .inr (h.waits (.chan e) r hr)
    · rw [if_neg he] at ha
      exact .inr (h.waits (.chan e) r ha)
  | relay => exact .inr (h.waits .relay r ha)
  | map => exact .inr (h.waits .map r ha)

theorem keeps_addCause (c : ChanId) (k : Cause) (s : State) : Keeps s (s.addCause c k) := by
  have h0 := keeps_modChan_of_eq c (·.addCause s.now k) s fun ch => awaitedRegions_addCause ch s.now k
  refine .of_outer (by simp) (s.placed_addCause c k) (mapKeeps_addCause c k s) fun h => ?_
  have h1 := h0.passes h
  simp only [State.addCause]
  split
  · exact h1
  · next hm =>
    obtain ⟨hr, hh⟩ := (passesOk_iff _).mp h1
    exact (passesOk_iff _).mpr ⟨running_demandFor c _ hr (isMirror_of_mirrorAt hm),
      handOk_demand _ _ (s := (s.modChan c _).modChan c _) hh⟩

theorem keeps_answerMasks (c : ChanId) (s : State) : Keeps s (s.answerMasks c) := by
  unfold State.answerMasks
  exact .after (.each _ (fun _ t => keeps_reply _ _ _ _ t) _ _) (keeps_modChan_of_eq c _ s fun _ => rfl)

theorem keeps_maskChan (c : ChanId) (r : MaskReason) (s : State) : Keeps s (s.maskChan c r) :=
  .after (keeps_answerMasks c _) (keeps_modChan_of_eq c _ s fun _ => rfl)

theorem keeps_startTransfer (c : ChanId) (s : State) : Keeps s (s.startTransfer c).1 := by
  simp only [State.startTransfer]
  split
  · exact .of_view rfl fun _ _ h => h
  · exact .after (keeps_maskChan _ _ _) (keeps_addCause _ _ s)

/-! ### Grants of the bus -/

theorem keeps_own (o : Owner) (f : InFlight) (s : State) : Keeps s (s.own o f) := .of_view rfl fun _ _ h => h

theorem length_modHead {α : Type} (f : α → α) (xs : List α) : (modHead f xs).length = xs.length := by
  cases xs <;> rfl

theorem keeps_modBatch (f : Batch → Batch) (s : State) : Keeps s (s.modBatch f) :=
  .of_view (by simp only [lawView, State.modBatch, length_modHead]) fun _ _ h => h

theorem keeps_grantTimed (t : TimerId) (s : State) : Keeps s (s.grantTimed t) := by
  unfold State.grantTimed
  split
  · split
    · exact .of_view rfl fun _ _ h => h
    · exact .refl s
  · exact .refl s

theorem keeps_grantLink (s : State) : Keeps s s.grantLink := by
  unfold State.grantLink
  split
  · split
    · exact .after (keeps_own _ _ _) (keeps_modBatch _ s)
    · exact .refl s
  · exact .refl s

theorem keeps_grantMaster (c : ChanId) (s : State) : Keeps s (s.grantMaster c) := .of_view rfl fun _ _ h => h

theorem keeps_beginTenure (c : ChanId) (s : State) : Keeps s (s.beginTenure c) := by
  unfold State.beginTenure
  exact .after (keeps_modChan_of_eq c _ _ fun _ => rfl)
    (keeps_modArb (fun a => { a with owner := .dma c false, burstCount := 0, burstCap := s.bus.burst }) s le_rfl rfl)

theorem keeps_grant (n : Nat) (s : State) : Keeps s (s.grant n) := by
  induction n generalizing s with
  | zero => exact keeps_modArb _ s le_rfl rfl
  | succ n ih =>
    simp only [State.grant]
    refine .after ?_ (keeps_modArb (fun a => { a with owner := .none, yield := s.pick.2 }) s le_rfl rfl)
    split
    · exact .refl _
    · exact keeps_own _ _ _
    · exact keeps_grantTimed _ _
    · exact keeps_grantLink _
    · exact keeps_own _ _ _
    · next c _ =>
      refine .ite (fun _ => keeps_grantMaster _ _) fun _ => ?_
      have h := fun t : State => (keeps_startTransfer c (t.beginTenure c)).after (keeps_beginTenure c t)
      exact .ite (fun _ => h _) fun _ => (ih _).after (h _)

theorem keeps_grantPoint (s : State) : Keeps s s.grantPoint := keeps_grant 8 s

theorem keeps_arbitrate (s : State) : Keeps s s.arbitrate := .ite (fun _ => keeps_grantPoint s) fun _ => .refl s

/-- At the end of an orphaned cycle the settings and the rules are those of power-on (R38). -/
theorem keeps_orphanEnd (s : State) : Keeps s s.orphanEnd := by
  unfold State.orphanEnd
  refine .after (keeps_grantPoint _) ⟨.of_eq rfl rfl, id, id, id, fun _ => ⟨Nat.zero_le _, List.Pairwise.nil⟩, id, fun _ => ?_,
    passesOk_of (fun h => h.of_eq rfl rfl (fun _ _ h => h) fun _ h => h) id⟩
  show ({} : BusSettings).InRange
  unfold BusSettings.InRange
  decide

theorem keeps_endDmaTenure (c : ChanId) (s : State) : Keeps s (s.endDmaTenure c) :=
  .after (keeps_grantPoint _) (keeps_modArb _ s le_rfl rfl)

theorem keeps_handOn (s : State) : Keeps s s.handOn :=
  .after (.each _ keeps_trigger _ _) (t := { s with written := [], free := s.free + 1 }) (.of_view rfl fun _ _ h => h)

theorem keeps_masterRelease (c : ChanId) (s : State) : Keeps s (s.masterRelease c) := by
  unfold State.masterRelease
  refine .after (keeps_grantPoint _) (.after (keeps_handOn _) ?_)
  split
  · exact keeps_modChan_of_eq c _ s fun _ => rfl
  · exact keeps_modChan_of_eq c _ s fun _ => rfl

/-! ### The shared lines -/

theorem awaitedRegions_requestChange (ch : Chan) (b : Bool) : (ch.requestChange b).awaitedRegions = ch.awaitedRegions := by
  unfold Chan.requestChange
  dsimp only
  split
  · rfl
  · split <;> rfl
  · split
    · rfl
    · split
      · rfl
      · rfl
      · split <;> rfl
      · split <;> rfl

theorem keeps_syncRequest (c : ChanId) (s : State) : Keeps s (s.syncRequest c) := by
  unfold State.syncRequest
  dsimp only
  refine .ite (fun _ => .refl s) fun _ => .ite (fun _ => ?_) fun _ => ?_
  · exact keeps_modChan_of_eq c _ s fun _ => rfl
  · exact keeps_modChan_of_eq c _ s fun ch => awaitedRegions_requestChange ch _

theorem keeps_syncRequests (s : State) : Keeps s s.syncRequests := by
  simp only [State.syncRequests]
  refine .after (keeps_arbitrate _) (.after (t := s.each (List.finRange 7) State.syncRequest) ?_ (.each _ keeps_syncRequest _ s))
  split
  · exact .ite (fun _ => .refl _) fun _ => keeps_masterRelease _ _
  · exact .refl _

theorem keeps_noteSwitches (s was : State) : Keeps s (s.noteSwitches was) := by
  rw [State.noteSwitches_eq]
  exact .of_view rfl fun _ _ h => h

theorem keeps_syncShared (s was : State) : Keeps s (s.syncShared was) :=
  .after (keeps_syncRequests _) (.after (keeps_syncLines _) (keeps_noteSwitches s was))

/-! ### Transfers -/

theorem keeps_cycleDone (clocks : Option Nat) (s : State) : Keeps s (s.cycleDone clocks) := .of_view rfl fun _ _ h => h

theorem awaitedRegions_advance (ch : Chan) (addr : Nat) : (ch.advance addr).awaitedRegions = ch.awaitedRegions := by
  unfold Chan.advance
  dsimp only
  split <;> rfl

theorem awaitedRegions_afterTransfer (ch : Chan) (b : Bool) : (ch.afterTransfer b).awaitedRegions = ch.awaitedRegions := by
  unfold Chan.afterTransfer
  split
  · split <;> rfl
  · split <;> rfl
  · split <;> rfl
  · rfl

theorem keeps_settleTransfer (t : Transfer) (out : Bool) (e : BusEnd) (s : State) : Keeps s (s.settleTransfer t out e) := by
  unfold State.settleTransfer
  dsimp only
  have hcause (p : Prop) [Decidable p] (c : ChanId) (k : Cause) (u : State) : Keeps u (if p then u.addCause c k else u) :=
    .ite (fun _ => keeps_addCause c k u) fun _ => .refl u
  have hend (u : State) (o o' : Option MaskReason) (b : Bool) : Keeps u (match o, o' with
      | some r, _ => u.maskChan t.ch r
      | none, some r => u.maskChan t.ch r
      | none, none => u.modChan t.ch (·.afterTransfer b)) := by
    split
    · exact keeps_maskChan _ _ u
    · exact keeps_maskChan _ _ u
    · exact keeps_modChan_of_eq _ _ u fun ch => awaitedRegions_afterTransfer ch b
  refine .after (hend _ _ _ _) (.after (hcause _ _ _ _) (.after (hcause _ _ _ _) (.after (hcause _ _ _ _) ?_)))
  have hstore : Keeps s (match s.chans[t.ch].kind, t.target with
      | .fill, .mirror id => s.storeCardBytes id t.sysAddr (bytesOf (isWord t.ch) (s.fillData t.ch out e))
      | _, _ => s) := by
    split
    · exact keeps_storeCardBytes _ _ _ s
    · exact .refl s
  have hpos := fun u : State => (keeps_modArb (fun a => { a with burstCount := a.burstCount + 1 }) _ le_rfl rfl).after
    (keeps_modChan_of_eq t.ch (·.advance t.sysAddr) u fun ch => awaitedRegions_advance ch _)
  have hthr (u : State) : Keeps u (match s.chans[t.ch].kind, t.target with
      | .fill, .mirror id => u.thresholdCheck id
      | _, _ => u) := by
    split
    · exact keeps_thresholdCheck _ u
    · exact .refl u
  exact .after (hthr _) (.after (keeps_trickleUpdate _) (.after (hpos _) hstore))

theorem keeps_endTransfer (t : Transfer) (out : Bool) (e : BusEnd) (s : State) : Keeps s (s.endTransfer t out e) := by
  unfold State.endTransfer
  dsimp only
  have h0 : Keeps s (State.admitFills 33 (s.settleTransfer t out e).runStoreWaits) :=
    .after (keeps_admitFills 33 _) (.after (keeps_runStoreWaits _) (keeps_settleTransfer t out e s))
  refine .after (.ite (fun _ => ?_) fun _ => keeps_endDmaTenure _ _) h0
  exact .ite (fun _ => keeps_startTransfer _ _) fun _ => .after (keeps_endDmaTenure _ _) (keeps_startTransfer _ _)

/-! ### The cycle queue -/

theorem keeps_startHead (s : State) : Keeps s s.startHead :=
  .of_view (by simp only [lawView, State.startHead, length_modHead]) fun _ _ h => h

theorem keeps_answerCancelled (s : State) : Keeps s s.answerCancelled :=
  .after (.each _ (fun _ t => keeps_reply _ _ _ _ t) _ _) (t := { s with cancelled := [] }) (.of_view rfl fun _ _ h => h)

/-- The queue becomes one that is no longer. -/
theorem keeps_queue (q : List Batch) (s : State) (hq : QueueOk s → q.length ≤ Config.queueCapacity) :
    Keeps s { s with queue := q } :=
  ⟨.of_eq rfl rfl, id, id, id, id, hq, id, passesOk_of (fun h => h.of_eq rfl rfl (fun _ _ h => h) fun _ h => h) id⟩

theorem queue_answerCancelled (s : State) : s.answerCancelled.queue = s.queue := by
  unfold State.answerCancelled
  rw [each_reply_eq _ kBatch (fun tag => tag) .cancelled fun _ => .batch 0 255 []]

theorem keeps_endBatch (stop : Nat) (s : State) : Keeps s (s.endBatch stop) := by
  unfold State.endBatch
  split
  · exact .refl s
  · next b rest hq =>
    dsimp only
    have hu : ∀ u : State, u.queue = s.queue → Keeps s u → Keeps s ({ u.answerCancelled with queue := rest }.startHead) := by
      intro u hqu hk
      refine .after (keeps_startHead _) (.after (keeps_queue rest _ fun h => ?_) (.after (keeps_answerCancelled u) hk))
      rw [QueueOk, queue_answerCancelled, hqu, hq, List.length_cons] at h
      omega
    refine hu _ ?_ ?_
    · split
      · rfl
      · split <;> rfl
    · exact .ite (fun _ => .refl s) fun _ => .ite (fun _ => keeps_release s) fun _ => keeps_reply _ _ _ _ s

theorem keeps_entryDone (s : State) : Keeps s s.entryDone := by
  unfold State.entryDone
  dsimp only
  refine .after ?_ (keeps_modBatch (fun b => { b with next := b.next + 1 }) s)
  split
  · exact .refl _
  · refine .ite (fun _ => keeps_endBatch _ _) fun _ => .ite (fun _ => ?_) fun _ =>
      .ite (fun _ => keeps_startHead _) fun _ => keeps_endBatch _ _
    exact .after (keeps_endBatch _ _) (keeps_modBatch _ _)

theorem keeps_entryFault (st : Status) (s : State) : Keeps s (s.entryFault st) := by
  unfold State.entryFault
  split
  · exact .refl s
  · exact .after (keeps_endBatch _ _) (keeps_modBatch _ s)

theorem keeps_abandonEntry (stop : Nat) (s : State) : Keeps s (s.abandonEntry stop) :=
  .after (keeps_endBatch _ _) (keeps_modBatch _ s)

theorem keeps_addResult (r : EntryResult) (s : State) : Keeps s (s.addResult r) := keeps_modBatch _ s

theorem keeps_finishEntry (op : Op) (r : AccessEnd) (s : State) : Keeps s (s.finishEntry op r) := by
  unfold State.finishEntry
  dsimp only
  refine .after (.ite (fun _ => keeps_entryDone _) fun _ => keeps_entryFault _ _) ?_
  exact .ite (fun _ => .refl s) fun _ => keeps_addResult _ s

theorem keeps_finishPoll (e : RawEntry) (op : Op) (r : AccessEnd) (s : State) : Keeps s (s.finishPoll e op r) := by
  have h0 : Keeps s (if r.status = .align then s
      else s.modBatch fun b => { b with pollTries := b.pollTries + 1, pollLast := r.value }) :=
    .ite (fun _ => .refl s) fun _ => keeps_modBatch _ s
  unfold State.finishPoll
  dsimp only
  generalize (if r.status = .align then s
    else s.modBatch fun b => { b with pollTries := b.pollTries + 1, pollLast := r.value }) = u at h0 ⊢
  refine .after ?_ h0
  split
  · exact .refl _
  · refine .ite (fun _ => .after (keeps_entryFault _ _) (keeps_addResult _ _)) fun _ =>
      .ite (fun _ => .after (keeps_entryDone _) (keeps_addResult _ _)) fun _ => .ite (fun _ => ?_) fun _ =>
      .ite (fun _ => keeps_endBatch _ _) fun _ => .ite (fun _ => .after (keeps_abandonEntry _ _) (keeps_addResult _ _)) fun _ =>
      .ite (fun _ => keeps_modBatch _ _) fun _ => keeps_modBatch _ _
    exact .ite (fun _ => .after (keeps_entryFault _ _) (keeps_addResult _ _)) fun _ =>
      .after (keeps_entryDone _) (keeps_addResult _ _)

theorem keeps_cancelBatches (s : State) : Keeps s s.cancelBatches := by
  unfold State.cancelBatches
  split
  · exact .refl s
  · next b rest hq =>
    dsimp only
    have h0 : Keeps s { s with cancelled := s.cancelled ++ rest.map Batch.tag, queue := [{ b with cancel := true }] } :=
      .after (keeps_queue [{ b with cancel := true }] { s with cancelled := s.cancelled ++ rest.map Batch.tag }
        fun _ => by simp [Config.queueCapacity]) (.of_view rfl fun _ _ h => h)
    refine .after ?_ h0
    refine .ite (fun _ => .refl _) fun _ => ?_
    split
    · exact keeps_abandonEntry _ _
    · exact .after (keeps_abandonEntry _ _) (keeps_addResult _ _)
    · exact keeps_abandonEntry _ _
    · exact .refl _

theorem keeps_discardBatches (s : State) : Keeps s s.discardBatches := by
  refine .after (keeps_queue _ { s with cancelled := [] } fun _ => ?_) (.of_view rfl fun _ _ h => h)
  split
  · split <;> simp [Config.queueCapacity]
  · simp [Config.queueCapacity]

/-! ### The timed lane -/

/-- The timed lane and the timers are read by no law. -/
theorem keeps_endRun (stop : Nat) (s : State) : Keeps s (s.endRun stop) := by
  unfold State.endRun
  split
  · exact .refl s
  · next r rest _ =>
    refine .after (t := { s with lane := rest }) (.ite (fun _ => keeps_modTimer _ _ _) fun _ => .refl _) ?_
    exact .of_view rfl fun _ _ h => h

theorem keeps_modRun (f : Run → Run) (s : State) : Keeps s (s.modRun f) := .of_view rfl fun _ _ h => h

theorem keeps_finishRunEntry (op : Op) (a : AccessEnd) (s : State) : Keeps s (s.finishRunEntry op a) := by
  have h0 : Keeps s (if op.isWrite then s else s.modRun fun r => { r with results := r.results ++ [.word a.value] }) :=
    .ite (fun _ => .refl s) fun _ => keeps_modRun _ s
  unfold State.finishRunEntry
  dsimp only
  generalize (if op.isWrite then s else s.modRun fun r => { r with results := r.results ++ [.word a.value] }) = u at h0 ⊢
  refine .after ?_ h0
  split
  · exact .refl _
  · refine .ite (fun _ => keeps_endRun _ _) fun _ => .ite (fun _ => ?_) fun _ => .after (keeps_endRun _ _) (keeps_modRun _ _)
    exact .after (.ite (fun _ => .refl _) fun _ => keeps_endRun _ _) (keeps_modRun _ _)

/-! ### The census -/

theorem keeps_admitCensusEnd (s : State) (h : s.link.canAdmit = true) : Keeps s s.admitCensusEnd := by
  unfold State.admitCensusEnd
  exact .after (.each _ (fun _ t => keeps_reply _ _ _ _ t) _ _) (.after (keeps_modCensus _ _) (keeps_notice _ s h))

theorem keeps_admitCensusFind (s : State) (h : s.link.canAdmit = true) : Keeps s s.admitCensusFind := by
  unfold State.admitCensusFind
  split
  · exact .refl s
  · exact .after (keeps_arbitrate _) (.after (keeps_modCensus _ _) (keeps_notice _ s h))

theorem keeps_offerCensus (s : State) : Keeps s s.offerCensus := by
  unfold State.offerCensus
  refine .ite (fun h => ?_) fun _ => .refl s
  split
  · exact keeps_admitCensusEnd s h
  · exact .refl s

theorem keeps_offerFinding (s : State) : Keeps s s.offerFinding := by
  unfold State.offerFinding
  dsimp only
  refine .ite (fun h => ?_) fun _ => .refl s
  simp only [Bool.and_eq_true] at h
  split
  · exact .after (keeps_modCensus _ _) (keeps_notice _ s h.1)
  · exact .refl s

theorem keeps_abandonCensus (s : State) : Keeps s s.abandonCensus :=
  .after (.each _ (fun _ t => keeps_reply _ _ _ _ t) _ _) (keeps_modCensus _ s)

theorem keeps_stopCensus (s : State) : Keeps s s.stopCensus := by
  unfold State.stopCensus
  split
  · exact .refl s
  · exact .refl s
  · exact .ite (fun _ => keeps_modCensus _ s) fun _ => keeps_modCensus _ s
  · exact keeps_modCensus _ s

theorem keeps_linkResetCensus (s : State) : Keeps s s.linkResetCensus :=
  .ite (fun _ => keeps_modCensus _ s) fun _ => .ite (fun _ => keeps_modCensus _ s) fun _ => keeps_modCensus _ s

end Sys2Proof.Proofs.Laws
end

section
/-! PROOFS. Every command and every step keeps every law of the part (R1, R31, R32, R35, R50, R51, R61, R104, R105, R124 to R130, R164). -/

open Sys2Proof Sys2Proof.Machine Sys2Proof.Proofs.MapLaws Sys2Proof.Proofs.PassLaws Sys2Proof.Proofs.Laws

namespace Sys2Proof.Proofs.StepLaws

/-! ### Requests of the link unit, the slots and the bus -/

/-- A number that names nothing is refused; the thing it names is served. -/
theorem keeps_withChan (kind : Nat) (h : Hdr) (n : Nat) (f : ChanId → State → State) (s : State)
    (hf : ∀ c, Keeps s (f c s)) : Keeps s (State.withChan kind h n f s) := by
  unfold State.withChan
  split
  · exact keeps_refuse _ _ _ s
  · exact hf _

theorem keeps_withSlot (kind : Nat) (h : Hdr) (n : Nat) (f : SlotId → State → State) (s : State)
    (hf : ∀ i, Keeps s (f i s)) : Keeps s (State.withSlot kind h n f s) := by
  unfold State.withSlot
  split
  · exact keeps_refuse _ _ _ s
  · exact hf _

theorem keeps_withRegion (kind : Nat) (h : Hdr) (n : Nat) (f : RegionId → State → State) (s : State)
    (hf : ∀ i, Keeps s (f i s)) : Keeps s (State.withRegion kind h n f s) := by
  unfold State.withRegion
  split
  · exact keeps_refuse _ _ _ s
  · exact hf _

theorem keeps_withTimer (kind : Nat) (h : Hdr) (n : Nat) (f : TimerId → State → State) (s : State)
    (hf : ∀ i, Keeps s (f i s)) : Keeps s (State.withTimer kind h n f s) := by
  unfold State.withTimer
  split
  · exact keeps_refuse _ _ _ s
  · exact hf _

theorem keeps_setInterval (units : Nat) (s : State) : Keeps s (s.modLink (·.setInterval units)) :=
  keeps_modLink _ s fun h => by
    have : (s.link.setInterval units).reports = s.link.reports ∧
        (s.link.setInterval units).reservations = s.link.reservations := by
      unfold Link.setInterval
      dsimp only
      split <;> exact ⟨rfl, rfl⟩
    rw [this.1, this.2]
    exact h

/-- Settles O53: each record of the power-on state is one written-out value, so each law is a fact about that value. -/
theorem resetKeepsTheLaws : Obligations.ResetKeepsTheLaws := by
  have hslots : SlotsOk State.reset := fun i => by simp [State.reset, Slot.TableOk, powerIn, closedIn, resetIn]
  have hbus : BusOk State.reset := by
    show ({} : BusSettings).InRange
    unfold BusSettings.InRange
    decide
  have hruns : Running State.reset := by
    refine ⟨List.nodup_nil, fun r => ?_, fun r hr => ?_, fun d r ha => ?_⟩
    · simp [State.reset]
    · simp [State.reset] at hr
    · cases d <;> simp [State.reset, Awaits] at ha
  refine ⟨⟨rfl, Nat.zero_le _, hslots, ⟨Nat.zero_le _, Nat.zero_lt_succ _⟩, ⟨Nat.zero_le _, List.Pairwise.nil⟩, Nat.zero_le _, hbus⟩,
    fun i => ?_, (passesOk_iff _).mpr ⟨hruns, by simp [HandOk, State.reset]⟩, fun i j _ f hf => ?_⟩
  · simp [State.reset, ShipQueue.Ok]
  · simp [State.reset, Region.held] at hf

/-- What a DEVICE_RESET leaves of the part meets every law; the rules, the settings and the records stay where a cycle is in flight. -/
theorem keeps_afterDeviceReset (s : State) : Keeps s (s.afterDeviceReset s.link.afterDeviceReset) := by
  obtain ⟨hinv, hshipR, hpassesR, hregsR⟩ := resetKeepsTheLaws
  have hroom : RoomOk s → RoomOk (s.afterDeviceReset s.link.afterDeviceReset) := fun h => by
    have hl : (s.afterDeviceReset s.link.afterDeviceReset).link = s.link.afterDeviceReset := by
      unfold State.afterDeviceReset
      split
      · rw [State.noteSwitches_eq]
      · rfl
    rw [RoomOk, hl]
    simp only [RoomOk] at h
    simp only [Link.afterDeviceReset]
    omega
  have hslots (t : State) (ht : t.slots = State.reset.slots) : SlotsOk t := by rw [SlotsOk, ht]; exact hinv.slots
  have hregs (t : State) (ht : t.regions = State.reset.regions) : RegionsOk t := by rw [RegionsOk, ht]; exact hregsR
  have hship (t : State) (ht : t.regions = State.reset.regions) : ShipOk t := by rw [ShipOk, ht]; exact hshipR
  have hpasses (t : State) (hl : t.fillLine = State.reset.fillLine) (hr : t.regions = State.reset.regions)
      (hc : t.chans = State.reset.chans) (hy : t.relay = State.reset.relay) : PassesOk t :=
    passesOk_of (fun h => h.of_eq hl hr (fun c r h => by rwa [hc] at h) fun r h => by rwa [hy] at h)
      (fun h => by rwa [HandOk, hy]) hpassesR
  refine ⟨?_, ?_, hroom, ?_, ?_, ?_, ?_, ?_⟩ <;> unfold State.afterDeviceReset <;> split
  case refine_1.isTrue => rw [State.noteSwitches_eq]; exact ⟨fun _ => rfl, fun _ => hregs _ rfl, fun _ => hship _ rfl⟩
  case refine_1.isFalse => exact ⟨fun _ => rfl, fun _ => hregs _ rfl, fun _ => hship _ rfl⟩
  case refine_2.isTrue => rw [State.noteSwitches_eq]; exact fun _ => hslots _ rfl
  case refine_2.isFalse => exact fun _ => hslots _ rfl
  case refine_3.isTrue => rw [State.noteSwitches_eq]; exact fun _ => ⟨Nat.zero_le _, Nat.zero_lt_succ _⟩
  case refine_3.isFalse => exact fun _ => ⟨Nat.zero_le _, Nat.zero_lt_succ _⟩
  case refine_4.isTrue => rw [State.noteSwitches_eq]; exact id
  case refine_4.isFalse => exact fun _ => ⟨Nat.zero_le _, List.Pairwise.nil⟩
  case refine_5.isTrue => rw [State.noteSwitches_eq]; exact fun _ => Nat.zero_le _
  case refine_5.isFalse => exact fun _ => Nat.zero_le _
  case refine_6.isTrue =>
    rw [State.noteSwitches_eq]
    rintro ⟨h1, h2, h3, h4, h5, -, h7⟩
    exact ⟨h1, h2, h3, h4, h5, ⟨by simp [State.reset], by simp [State.reset]⟩, h7⟩
  case refine_6.isFalse => exact fun _ => hinv.bus
  case refine_7.isTrue => rw [State.noteSwitches_eq]; exact fun _ => hpasses _ rfl rfl rfl rfl
  case refine_7.isFalse => exact fun _ => hpasses _ rfl rfl rfl rfl

/-! ### Slots (R1) -/

theorem tableOk_enter (sl : Slot) (st : SlotState) (timer : Option Deadline) : (sl.enter st timer).TableOk := ⟨rfl, rfl, rfl⟩

theorem tableOk_produce {sl : Slot} (now : Time) (ev : SlotEvent) (h : sl.TableOk) : (sl.produce now ev).TableOk := h

theorem tableOk_trip (sl : Slot) (now : Time) (r : FaultReason) (rail : Option FaultRail) : (sl.trip now r rail).TableOk :=
  tableOk_produce (sl := { sl.enter .fault none with
    over5 := 0, over12 := 0, low5 := 0, faultReason := some r, faultRail := rail }) now .fault ⟨rfl, rfl, rfl⟩

theorem tableOk_settle (sl : Slot) (now : Time) : (sl.settle now).TableOk := by
  unfold Slot.settle
  dsimp only
  split
  · exact ⟨rfl, rfl, rfl⟩
  · exact tableOk_enter _ _ _

theorem tableOk_park {sl : Slot} (now : Time) (h : sl.TableOk) : (sl.park now).TableOk := by
  unfold Slot.park
  split
  · exact ⟨rfl, rfl, rfl⟩
  · exact ⟨rfl, rfl, rfl⟩
  · exact ⟨rfl, rfl, rfl⟩
  · exact h

theorem tableOk_sample {sl : Slot} (m : Sample) (h : sl.TableOk) : (sl.sample m).TableOk := by
  unfold Slot.sample
  dsimp only
  split <;> exact h

theorem tableOk_tripAfter {sl : Slot} (now : Time) (h : sl.TableOk) : (sl.tripAfter now).TableOk := by
  unfold Slot.tripAfter
  split
  · exact h
  · split
    · exact tableOk_trip _ _ _ _
    · split
      · exact tableOk_trip _ _ _ _
      · exact h

theorem keeps_servePowerOff (h : Hdr) (n : Nat) (s : State) : Keeps s (servePowerOff h n s) := by
  refine keeps_withSlot _ _ _ _ s fun i => ?_
  split
  · exact keeps_reply _ _ _ _ s
  · exact .after (keeps_reply _ _ _ _ _) (.after (keeps_syncShared _ _) (keeps_modSlot i _ s fun _ => ⟨rfl, rfl, rfl⟩))

theorem keeps_servePowerOn (h : Hdr) (n : Nat) (s : State) : Keeps s (servePowerOn h n s) := by
  refine keeps_withSlot _ _ _ _ s fun i => ?_
  split
  · exact .after (keeps_reply _ _ _ _ _) (keeps_modSlot i _ s fun _ => ⟨rfl, rfl, rfl⟩)
  · exact keeps_refuse _ _ _ s
  · exact keeps_reply _ _ _ _ s

theorem keeps_serveSlotPower (h : Hdr) (n v : Nat) (s : State) : Keeps s (serveSlotPower h n v s) :=
  .ite (fun _ => keeps_servePowerOff h n s) fun _ => keeps_servePowerOn h n s

theorem keeps_serveSlotSet (h : Hdr) (n a b c d : Nat) (s : State) : Keeps s (serveSlotSet h n a b c d s) :=
  keeps_withSlot _ _ _ _ s fun i => .after (keeps_reply _ _ _ _ _) (keeps_modSlot i _ s fun h => h)

theorem keeps_serveSlotPulse (h : Hdr) (n : Nat) (s : State) : Keeps s (serveSlotPulse h n s) := by
  refine keeps_withSlot _ _ _ _ s fun i => ?_
  have hold : Keeps s ((s.modSlot i (·.hold s.now)).reply kSlotPulse h.tag .ok .empty) :=
    .after (keeps_reply _ _ _ _ _) (keeps_modSlot i _ s fun _ => tableOk_enter _ _ _)
  split
  · exact hold
  · exact hold
  · exact hold
  · exact hold
  · exact keeps_refuse _ _ _ s

/-! ### Bus settings and port rules (R32, R35) -/

theorem clamp_range (lo hi n : Nat) (h : lo ≤ hi) : lo ≤ clamp lo hi n ∧ clamp lo hi n ≤ hi := by
  unfold clamp
  split
  · omega
  · split <;> omega

theorem appliedBus_inRange (clock : BusClock) (r : BusRequest) : (appliedBus clock r).InRange := by
  refine ⟨(clamp_range 0 7 _ (by omega)).2, (clamp_range 0 7 _ (by omega)).2, (clamp_range 0 7 _ (by omega)).2,
    (clamp_range 0 7 _ (by omega)).2, clamp_range 2 1000 _ (by omega), clamp_range 100 200 _ (by omega),
    clamp_range 1 255 _ (by omega)⟩

theorem keeps_setRefresh (was : Bool) (b : BusSettings) (s : State) :
    Keeps s (s.modArb fun a => a.setRefresh s.now was b) := by
  refine keeps_modArb _ s ?_ ?_
  · unfold Arbiter.setRefresh
    split
    · exact le_rfl
    · exact Nat.zero_le _
    · exact le_rfl
  · unfold Arbiter.setRefresh
    split <;> rfl

theorem keeps_bus (b : BusSettings) (s : State) (hb : b.InRange) : Keeps s { s with bus := b } :=
  ⟨.of_eq rfl rfl, id, id, id, id, id, fun _ => hb, passesOk_of (fun h => h.of_eq rfl rfl (fun _ _ h => h) fun _ h => h) id⟩

theorem keeps_serveBusSet (h : Hdr) (r : BusRequest) (s : State) : Keeps s (serveBusSet h r s) := by
  unfold serveBusSet
  split
  · exact keeps_refuse _ _ _ s
  · exact .ite (fun _ => keeps_refuse _ _ _ s) fun _ => .after (keeps_reply _ _ _ _ _)
      (.after (keeps_bus _ _ (appliedBus_inRange _ r)) (keeps_setRefresh _ _ s))

theorem portRule_meets_comm (r q : PortRule) : r.meets q = q.meets r := by
  simp only [PortRule.meets, Bool.and_comm]

theorem keeps_rules (rs : List PortRule) (s : State) (hr : RulesOk s → RulesOk { s with rules := rs }) :
    Keeps s { s with rules := rs } :=
  ⟨.of_eq rfl rfl, id, id, id, hr, id, id, passesOk_of (fun h => h.of_eq rfl rfl (fun _ _ h => h) fun _ h => h) id⟩

theorem keeps_servePortRuleSet (h : Hdr) (first last : Half) (w : Option Width) (o : Option OddPort) (l : Nat) (p : Option Post)
    (s : State) : Keeps s (servePortRuleSet h first last w o l p s) := by
  unfold servePortRuleSet
  split
  · dsimp only
    refine .ite (fun _ => keeps_refuse _ _ _ s) fun _ => .ite (fun _ => keeps_refuse _ _ _ s) fun hmeets =>
      .ite (fun _ => keeps_refuse _ _ _ s) fun hfull => .after (keeps_reply _ _ _ _ _) (keeps_rules _ s fun hr => ?_)
    refine ⟨?_, List.pairwise_append.mpr ⟨hr.2, List.pairwise_singleton _ _, fun q hq r hr' => ?_⟩⟩
    · simp only [List.length_append, List.length_singleton]; omega
    · rw [List.mem_singleton.mp hr', portRule_meets_comm]
      simpa using List.any_eq_false.mp (by simpa using hmeets) q hq
  · exact keeps_refuse _ _ _ s

theorem keeps_servePortRuleDrop (h : Hdr) (port : Half) (s : State) : Keeps s (servePortRuleDrop h port s) :=
  .ite (fun _ => .after (keeps_reply _ _ _ _ _) (keeps_rules _ s fun hr =>
    ⟨(List.length_filter_le _ _).trans hr.1, hr.2.filter _⟩)) fun _ => keeps_refuse _ _ _ s

/-! ### Batches, the census and the channels -/

theorem keeps_serveBatch (h : Hdr) (es : List RawEntry) (s : State) (hq : s.queue.length < Config.queueCapacity) :
    Keeps s (serveBatch h es s) := by
  unfold serveBatch
  split
  · exact keeps_reply _ _ _ _ s
  · dsimp only
    have hjoin (b : Batch) : Keeps s { s with queue := s.queue ++ [b] } := keeps_queue _ s fun _ => by
      simp only [List.length_append, List.length_singleton]; omega
    exact .after (keeps_arbitrate _) (.ite (fun _ => .after (keeps_startHead _) (hjoin _)) fun _ => hjoin _)

theorem keeps_serveCensusStart (h : Hdr) (first past : Nat) (s : State) : Keeps s (serveCensusStart h first past s) :=
  .ite (fun _ => keeps_refuse _ _ _ s) fun _ => .ite (fun _ => keeps_refuse _ _ _ s) fun _ =>
    .after (keeps_arbitrate _) (.after (keeps_reply _ _ _ _ _) (keeps_modCensus _ s))

theorem keeps_serveCensusStop (h : Hdr) (s : State) : Keeps s (serveCensusStop h s) := by
  unfold serveCensusStop
  split
  · exact keeps_reply _ _ _ _ s
  · exact .after (keeps_offerCensus _) (.after (keeps_stopCensus _) (keeps_modCensus _ s))

theorem keeps_serveChanLoad (h : Hdr) (n : Nat) (p : ChanProgram) (s : State) : Keeps s (serveChanLoad h n p s) := by
  refine keeps_withChan _ _ _ _ s fun c => ?_
  split
  · exact .ite (fun _ => keeps_refuse _ _ _ s) fun _ => .ite (fun _ => keeps_refuse _ _ _ s) fun _ =>
      .after (keeps_trickleUpdate _) (.after (keeps_reply _ _ _ _ _) (keeps_modChan c _ s fun _ => .inr rfl))
  · exact keeps_refuse _ _ _ s

theorem keeps_serveChanMask (h : Hdr) (n : Nat) (s : State) : Keeps s (serveChanMask h n s) := by
  refine keeps_withChan _ _ _ _ s fun c => .ite (fun _ => ?_) fun _ => ?_
  · exact .after (.ite (fun _ => keeps_reply _ _ _ _ _) fun _ => keeps_modChan_of_eq c _ _ fun _ => rfl)
      (keeps_modChan_of_eq c _ s fun _ => rfl)
  · exact .after (keeps_reply _ _ _ _ _) (keeps_modChan_of_eq c _ s fun _ => rfl)

theorem keeps_serveChanUnmask (h : Hdr) (n : Nat) (s : State) : Keeps s (serveChanUnmask h n s) :=
  keeps_withChan _ _ _ _ s fun c => .ite (fun _ => keeps_refuse _ _ _ s) fun _ => .ite (fun _ => keeps_refuse _ _ _ s) fun _ =>
    .ite (fun _ => .after (keeps_arbitrate _) (.after (keeps_reply _ _ _ _ _) (keeps_modChan_of_eq c _ s fun _ => rfl))) fun _ =>
    keeps_reply _ _ _ _ s

theorem keeps_serveChanQuery (h : Hdr) (n : Nat) (s : State) : Keeps s (serveChanQuery h n s) :=
  keeps_withChan _ _ _ _ s fun c => .after (keeps_modChan_of_eq c _ _ fun _ => rfl) (keeps_reply _ _ _ _ s)

/-! ### Regions -/

theorem isMirror_iff {r : Region} : r.isMirror = true ↔ r.cond ≠ .absent ∧ r.fields.kind = .mirror := by
  simp [Region.isMirror]

theorem isMirror_of_card {r : Region} (h : r.fields.kind = .card) : r.isMirror = false := by
  simp [Region.isMirror, h]

theorem isMirror_of_absent {r : Region} (h : r.cond = .absent) : r.isMirror = false := by
  simp [Region.isMirror, h]

theorem mem_held_active {r : Region} (h : r.cond = .active) : r.fields ∈ r.held := by
  simp [Region.held, h]

/-- An entry that is ABSENT or of kind CARD has no pass. -/
theorem idle_of_not_mirror {s : State} {id : RegionId} (h : Running s) (hm : s.regions[id].isMirror = false) :
    s.regions[id].ship.running = false := by
  by_contra hr
  exact absurd (hm.symm.trans (h.mirror id (by simpa using hr))) Bool.false_ne_true

theorem keeps_placeRegion (id : RegionId) (f : RegionFields) (rs : List PendingReply) (s : State)
    (hm : s.regions[id].isMirror = false) (hf : s.overlaps id f = false) : Keeps s (s.placeRegion id f rs) := by
  refine .of_outer (by simp) (s.placed_placeRegion id f rs) (mapKeeps_placeRegion id f rs s fun _ => meets_of_not_overlaps hf) ?_
  have hp := placeRegion_eq id f rs s
  refine passesOk_of (fun h => h.replace (idle_of_not_mirror h hm) (congrArg State.regions hp :) (congrArg State.fillLine hp :)
    (congrArg State.chans hp :) (congrArg State.relay hp :) rfl (by simp) rfl) fun h => ?_
  rw [hp]; exact h

/-- An entry changes so that the memory map awaits its pass, and the pass is demanded (R111, R113, R114). -/
theorem keeps_modRegion_demand (id : RegionId) (f : Region → Region) (s : State) (hship : (f s.regions[id]).ship = s.regions[id].ship)
    (hm : (f s.regions[id]).isMirror = true)
    (hf : RegionsOk s → ∀ x ∈ (f s.regions[id]).held, ∀ j : RegionId, j ≠ id → ∀ g ∈ s.regions[j].held, x.meets g = false) :
    Keeps s ((s.modRegion id f).demand id .map) := by
  refine .of_outer (by simp) (State.placed_demand id .map (s.modRegion id f)) (.after (mapKeeps_demand id .map _) ?_) ?_
  · exact ⟨fun h => h, fun h => regionsOk_modRegion h (hf h), fun h => shipOk_modRegion h fun h => by rw [hship]; exact h⟩
  have hreg (r : RegionId) : (s.modRegion id f).regions[r].ship = s.regions[r].ship := by
    rw [State.regions_modRegion]
    split
    · next hr => rw [hship, hr]
    · rfl
  refine passesOk_of (fun h => running_demand ⟨h.nodup, fun r => by rw [hreg]; exact h.line r, fun r hr => ?_, fun d r ha => ?_⟩ ?_)
    fun h => handOk_demand id .map (s := s.modRegion id f) h
  · rw [hreg] at hr
    rw [State.regions_modRegion]
    split
    · exact hm
    · exact h.mirror r hr
  · rw [hreg]
    cases d with
    | chan c => exact .inr (h.waits (.chan c) r ha)
    | relay => exact .inr (h.waits .relay r ha)
    | map =>
      by_cases hr : r = id
      · exact .inl ⟨rfl, hr⟩
      · simp only [Awaits, State.regions_modRegion, if_neg hr] at ha
        exact .inr (h.waits .map r ha)
  · rw [State.regions_modRegion, if_pos rfl]; exact hm

theorem keeps_redefine (id : RegionId) (f : RegionFields) (tag : Nat) (s : State) (hc : s.regions[id].cond = .active)
    (hs : s.regions[id].fields.sameShape f = true) (hf : s.overlaps id f = false) : Keeps s (s.redefine id f tag) := by
  unfold State.redefine
  refine .after (keeps_ageCheck _ _) (.after (keeps_thresholdCheck _ _) (.after (keeps_reply _ _ _ _ _) ?_))
  simp only [RegionFields.sameShape, Bool.and_eq_true, decide_eq_true_eq] at hs
  refine .of_outer rfl s.link.placed_refl ⟨fun h => h, fun h => regionsOk_modRegion h ?_, fun h => shipOk_modRegion h fun h => h⟩ ?_
  · intro x hx
    simp only [Region.held, hc, List.mem_singleton] at hx
    rw [hx]
    exact meets_of_not_overlaps hf
  · exact passesOk_of (fun h => h.modRegion _ rfl (fun _ => by simp only [Region.isMirror, hs.2]) rfl fun h => h) fun h => h

theorem keeps_reshape (id : RegionId) (f : RegionFields) (tag : Nat) (s : State) (hc : s.regions[id].cond = .active)
    (hf : s.overlaps id f = false) : Keeps s (s.reshape id f tag) := by
  unfold State.reshape
  split
  · next hk =>
    exact .after (keeps_placeRegion id f _ { s with written := setRemove id s.written } (isMirror_of_card hk) hf)
      (.of_view rfl fun _ _ h => h)
  · next hk =>
    refine keeps_modRegion_demand id _ s rfl (isMirror_iff.mpr ⟨by simp, hk⟩) ?_
    intro h x hx j hj g hg
    have hx' : x = s.regions[id].fields ∨ x = f := by simpa [Region.held] using hx
    rcases hx' with rfl | rfl
    · exact h id j (Ne.symm hj) _ (mem_held_active hc) g hg
    · exact meets_of_not_overlaps hf j hj g hg

theorem keeps_serveRegionSet (h : Hdr) (n : Nat) (r : RegionRequest) (s : State) : Keeps s (serveRegionSet h n r s) := by
  unfold serveRegionSet
  split
  · split
    · exact keeps_refuse _ _ _ s
    · next hc =>
      refine .ite (fun _ => keeps_refuse _ _ _ s) fun hf => keeps_placeRegion _ _ _ s (isMirror_of_absent hc) (by simpa using hf)
    · next hc =>
      refine .ite (fun hs => .ite (fun _ => keeps_refuse _ _ _ s) fun hf => keeps_redefine _ _ _ s hc hs (by simpa using hf)) fun _ =>
        .ite (fun _ => keeps_refuse _ _ _ s) fun _ => .ite (fun _ => keeps_refuse _ _ _ s) fun hf =>
        keeps_reshape _ _ _ s hc (by simpa using hf)
  · exact keeps_refuse _ _ _ s

/-- An entry without a pass is cleared. -/
theorem keeps_clearRegion (id : RegionId) (s : State) (hm : s.regions[id].isMirror = false) :
    Keeps s (s.modRegion id fun _ => {}) :=
  .of_outer rfl s.link.placed_refl (.modRegion s id _ (by simp [Region.held]) fun _ => ⟨List.nodup_nil, rfl⟩)
    (passesOk_of (fun h => h.replace (g := {}) (idle_of_not_mirror h hm) rfl rfl rfl rfl rfl (by decide) rfl) fun h => h)

theorem keeps_serveRegionDrop (h : Hdr) (n : Nat) (s : State) : Keeps s (serveRegionDrop h n s) := by
  refine keeps_withRegion _ _ _ _ s fun id => ?_
  dsimp only
  split
  · exact keeps_refuse _ _ _ s
  · exact .of_outer rfl s.link.placed_refl (.modRegion s id _ (fun _ hx => hx) fun h => h)
      (passesOk_of (fun h => h.modRegion _ rfl (fun _ => rfl) rfl fun h => h) fun h => h)
  · next hc =>
    refine .ite (fun _ => keeps_refuse _ _ _ s) fun _ => ?_
    split
    · next hk =>
      exact .after (keeps_reply _ _ _ _ _) (.after (keeps_clearRegion id { s with written := setRemove id s.written }
        (isMirror_of_card hk)) (.of_view rfl fun _ _ h => h))
    · next hk =>
      refine keeps_modRegion_demand id _ s rfl (isMirror_iff.mpr ⟨by simp, hk⟩) ?_
      intro h x hx j hj g hg
      have hx' : x = s.regions[id].fields := by simpa [Region.held] using hx
      rw [hx'] 
      exact h id j (Ne.symm hj) _ (mem_held_active hc) g hg

theorem keeps_serveRegionFlush (h : Hdr) (n : Nat) (s : State) : Keeps s (serveRegionFlush h n s) := by
  refine keeps_withRegion _ _ _ _ s fun id => ?_
  dsimp only
  split
  · exact keeps_refuse _ _ _ s
  · exact keeps_reply _ _ _ _ s
  · next hk hc =>
    exact keeps_modRegion_demand id _ s rfl (isMirror_iff.mpr ⟨hc, hk⟩)
      fun h x hx j hj g hg => h id j (Ne.symm hj) x hx g hg

theorem keeps_serveMirrorPut (h : Hdr) (addr : Nat) (bs : List Byte) (s : State) : Keeps s (serveMirrorPut h addr bs s) := by
  unfold serveMirrorPut
  split
  · exact keeps_submitStoreOp _ s
  · exact keeps_refuse _ _ _ s

theorem keeps_serveMirrorGet (h : Hdr) (addr n : Nat) (s : State) : Keeps s (serveMirrorGet h addr n s) := by
  unfold serveMirrorGet
  split
  · exact keeps_submitStoreOp _ s
  · exact keeps_refuse _ _ _ s

/-! ### The relay and the timers -/

theorem keeps_serveIntSet (h : Hdr) (m : Option RelayMode) (v : Nat) (s : State) : Keeps s (serveIntSet h m v s) := by
  unfold serveIntSet
  split
  · exact keeps_refuse _ _ _ s
  · exact .after (keeps_relayCheck _) (.after (keeps_reply _ _ _ _ _) (keeps_modRelay _ s rfl Iff.rfl))

theorem keeps_serveLineSet (h : Hdr) (n m l : Nat) (s : State) : Keeps s (serveLineSet h n m l s) := by
  unfold serveLineSet
  split
  · dsimp only
    exact .after (keeps_relayCheck _) (.after (keeps_trickleUpdate _) (.after (keeps_reply _ _ _ _ _)
      (.after (.ite (fun _ => keeps_withdraw _ _) fun _ => .refl _) (keeps_modLine _ _ s))))
  · exact keeps_refuse _ _ _ s

theorem keeps_serveIntDone (h : Hdr) (ns : List Nat) (s : State) : Keeps s (serveIntDone h ns s) := by
  unfold serveIntDone
  split
  · exact keeps_refuse _ _ _ s
  · dsimp only
    exact .after (keeps_relayCheck _) (.after (keeps_reply _ _ _ _ _) (.each _ (fun l t => keeps_modLine l _ t) _ s))

theorem keeps_serveTimerLoad (h : Hdr) (n c : Nat) (m : Option TimerMode) (v : Nat) (s : State) :
    Keeps s (serveTimerLoad h n c m v s) := by
  refine keeps_withTimer _ _ _ _ s fun t => ?_
  split
  · exact keeps_refuse _ _ _ s
  · exact .ite (fun _ => keeps_refuse _ _ _ s) fun _ => .ite (fun _ => keeps_refuse _ _ _ s) fun _ =>
      .after (keeps_reply _ _ _ _ _) (keeps_modTimer t _ s)

theorem keeps_serveTimerGate (h : Hdr) (n a b c : Nat) (s : State) : Keeps s (serveTimerGate h n a b c s) :=
  keeps_withTimer _ _ _ _ s fun t => .after (keeps_reply _ _ _ _ _) (keeps_modTimer t _ s)

theorem keeps_serveTimerBatch (h : Hdr) (n : Nat) (es : List RawEntry) (s : State) : Keeps s (serveTimerBatch h n es s) :=
  keeps_withTimer _ _ _ _ s fun t => .ite (fun _ => keeps_refuse _ _ _ s) fun _ => .ite (fun _ => keeps_refuse _ _ _ s) fun _ =>
    .ite (fun _ => keeps_refuse _ _ _ s) fun _ => .after (keeps_reply _ _ _ _ _) (keeps_modTimer t _ s)

theorem keeps_serveTimerQuery (h : Hdr) (n : Nat) (s : State) : Keeps s (serveTimerQuery h n s) :=
  keeps_withTimer _ _ _ _ s fun t => .after (keeps_modTimer t _ _) (keeps_reply _ _ _ _ s)

/-! ### Reading and routing a request -/

/-- A request that reaches its owner keeps every law; a BATCH, with a place free in the cycle queue (R61). -/
theorem keeps_route (c : Instr) (s : State) (hq : c.kindCode = kBatch → s.queue.length < Config.queueCapacity) :
    Keeps s (route c s) := by
  cases c with
  | hello h => exact keeps_reply _ _ _ _ s
  | linkSet h u => exact .after (keeps_reply _ _ _ _ _) (keeps_setInterval u s)
  | deviceReset h => exact .after (keeps_afterDeviceReset _) (keeps_reply _ _ _ _ s)
  | slotSet h n a b c d => exact keeps_serveSlotSet h n a b c d s
  | slotPowerOn h n v => exact keeps_serveSlotPower h n v s
  | slotPowerOff h n => exact keeps_servePowerOff h n s
  | slotPulse h n => exact keeps_serveSlotPulse h n s
  | slotQuery h n => exact keeps_withSlot _ _ _ (fun _ t => t.reply _ _ _ _) s fun i => keeps_reply _ _ _ _ s
  | busSet h r => exact keeps_serveBusSet h r s
  | busQuery h => exact keeps_reply _ _ _ _ s
  | portRuleSet h a b c d e f => exact keeps_servePortRuleSet h a b c d e f s
  | portRuleDrop h p => exact keeps_servePortRuleDrop h p s
  | batch h es => exact keeps_serveBatch h es s (hq rfl)
  | censusStart h a b => exact keeps_serveCensusStart h a b s
  | censusStop h => exact keeps_serveCensusStop h s
  | chanLoad h n p => exact keeps_serveChanLoad h n p s
  | chanMask h n => exact keeps_serveChanMask h n s
  | chanUnmask h n => exact keeps_serveChanUnmask h n s
  | chanQuery h n => exact keeps_serveChanQuery h n s
  | regionSet h n r => exact keeps_serveRegionSet h n r s
  | regionDrop h n => exact keeps_serveRegionDrop h n s
  | regionFlush h n => exact keeps_serveRegionFlush h n s
  | mirrorPut h a bs => exact keeps_serveMirrorPut h a bs s
  | mirrorGet h a n => exact keeps_serveMirrorGet h a n s
  | intSet h m v => exact keeps_serveIntSet h m v s
  | lineSet h n m l => exact keeps_serveLineSet h n m l s
  | intDone h ns => exact keeps_serveIntDone h ns s
  | intQuery h => exact keeps_reply _ _ _ _ s
  | timerLoad h n c m v => exact keeps_serveTimerLoad h n c m v s
  | timerGate h n a b c => exact keeps_serveTimerGate h n a b c s
  | timerBatch h n es => exact keeps_serveTimerBatch h n es s
  | timerQuery h n => exact keeps_serveTimerQuery h n s
  | _ => exact .refl s

/-- A record the host offers: it is read only with room for its reply (R164). -/
theorem keeps_offerRecord (c : Instr) (more : Bool) (take : State → State) (s : State)
    (ht : ∀ u : State, u.queue = s.queue → Keeps u (take u)) : Keeps s (offerRecord c more take s) := by
  unfold offerRecord
  refine .ite (fun _ => .refl s) fun _ => .ite (fun _ => keeps_modLink _ s id) fun _ =>
    .ite (fun _ => keeps_modLink _ s id) fun _ => .ite (fun hr => ?_) fun _ => keeps_modLink _ s id
  refine .after (ht _ rfl) (keeps_modLink _ s fun _ => ?_)
  simp only [Link.canRead, Bool.and_eq_true] at hr
  obtain ⟨-, hfree⟩ := hr
  have := of_decide_eq_true hfree
  simp only [Link.freeEntries] at this
  simp only [Link.readRecord]
  omega

/-- The checks of a record that has been read, then the hold or its owner. -/
theorem keeps_checkRecord (c : Instr) (h : Hdr) (kind length count : Nat) (serve : State → State) (s : State)
    (hs : s.holdCause kind h.ordered = none → Keeps s (serve s)) : Keeps s (checkRecord c h kind length count serve s) := by
  unfold checkRecord
  refine .ite (fun _ => .after (keeps_replyRefused _ _ _ _) (keeps_modLink _ s id)) fun _ =>
    .ite (fun _ => keeps_replyRefused _ _ _ s) fun _ => ?_
  split
  · split
    · exact keeps_modLink _ s id
    · next hh => exact hs hh
  · exact keeps_replyRefused _ _ _ s

/-- Every request is the reading of its record over the service its owner gives it (R163, R166). -/
theorem exec_request {c : Instr} {h : Hdr} (hc : c.header = some h) (s : State) :
    exec c s = takeRequest c h c.kindCode (Laws.RecordLength.payloadLength c) (Laws.RecordLength.getCount c) (route c) s := by
  cases c <;> first | (cases hc; done) | (injection hc with hc; subst hc; rfl)

/-! ### What each command answers -/

/-- An answer that keeps every law: it is no stop, or the state it answers keeps them. -/
def Answers (s : State) : Host.Outcome State Fault Refusal → Prop
  | .next t => Keeps s t
  | .fault _ => True
  | .refused _ => True

theorem Answers.ite {p : Prop} [Decidable p] {s : State} {o o' : Host.Outcome State Fault Refusal} (h : p → Answers s o)
    (h' : ¬p → Answers s o') : Answers s (if p then o else o') := by
  split
  · next hp => exact h hp
  · next hp => exact h' hp

theorem answers_request {c : Instr} {h : Hdr} (hc : c.header = some h) (s : State) : Answers s (exec c s) := by
  rw [exec_request hc]
  refine keeps_offerRecord _ _ _ s fun u _ => keeps_checkRecord _ _ _ _ _ _ u fun hh => keeps_route c u fun hk => ?_
  simp only [State.holdCause, hk, if_true] at hh
  split at hh
  · cases hh
  · omega

/-- A held request is routed once its condition has come about, a BATCH with a place free (R169). -/
theorem answers_heldRequestRouted (s : State) : Answers s (execHeldRequestRouted s) := by
  unfold execHeldRequestRouted
  split
  · next c cause hheld =>
    refine .ite (fun hr => ?_) fun _ => .refl s
    refine Keeps.after (keeps_route c _ fun _ => ?_) (keeps_modLink _ s id)
    simp only [State.heldReady, hheld] at hr
    cases cause with
    | ordered =>
      have : s.queue = [] := by simpa using hr
      simp [this, Config.queueCapacity]
    | queueFull => simpa using hr
  · exact Keeps.refl s

theorem answers_frameRefused (f : FrameFault) (s : State) : Answers s (execFrameRefused f s) := by
  refine keeps_offerRecord _ _ _ s fun u _ => ?_
  cases f with
  | overrun => exact keeps_replyRefused _ _ _ u
  | tooLong => exact .after (keeps_replyRefused _ _ _ _) (keeps_modLink _ u id)
  | tagZero => exact keeps_replyRefused _ _ _ u

theorem answers_kindOrSizeRefused (h : Hdr) (kind length count : Nat) (s : State) :
    Answers s (execKindOrSizeRefused h kind length count s) :=
  .ite (fun _ => Keeps.refl s) fun _ => keeps_offerRecord _ _ _ s fun u _ => keeps_checkRecord _ _ _ _ _ _ u fun _ => .refl u

theorem answers_reportRecordSent (s : State) : Answers s (execReportRecordSent s) := by
  unfold execReportRecordSent
  split
  · exact Keeps.refl s
  · next r rest hr =>
    refine .ite (fun _ => Keeps.after (t := s.modLink fun l => { l with
        reports := rest
        awaitReset := l.awaitReset && !r.isResetReply
        transferBytes := transferAfter l.transferBytes (6 + r.payloadLength s.free) rest.isEmpty })
      (.of_view rfl fun _ _ h => h) (keeps_modLink _ s fun h => ?_)) fun _ => Keeps.refl s
    rw [hr, List.length_cons] at h
    simp only
    omega

/-! ### Admission (R127, R167) -/

theorem keeps_placeClaimant (k : Claimant) (s : State) (hroom : s.link.canAdmit = true)
    (hk : s.firstClaimant = some k) : Keeps s (s.placeClaimant k) := by
  have hn (n : Notice) : Keeps s (s.notice n) := keeps_notice n s hroom
  cases k with
  | quiet =>
    unfold State.placeClaimant State.admitQuiet
    dsimp only
    split
    · exact .refl s
    · exact .after (keeps_modLink _ _ id) (hn _)
  | slot i =>
    unfold State.placeClaimant State.admitSlot
    dsimp only
    split
    · exact .refl s
    · exact .after (keeps_modSlot i _ _ fun h => h) (hn _)
  | interrupt =>
    unfold State.placeClaimant State.admitInterrupt
    dsimp only
    exact .after (keeps_relayCheck _) (.after (keeps_emptyHand _) (.after (.each _ (fun l t => keeps_modLine l _ t) _ _) (hn _)))
  | channel c =>
    unfold State.placeClaimant State.admitChannel
    exact .after (keeps_modChan_of_eq c _ _ fun _ => rfl) (hn _)
  | fill id =>
    obtain ⟨rest, hl⟩ := fillLine_of_firstClaimant hk
    exact keeps_admitFill id rest s hl hroom
  | overstay c =>
    unfold State.placeClaimant State.admitOverstay
    dsimp only
    split
    · exact .refl s
    · exact .after (keeps_modArb _ _ le_rfl rfl) (hn _)
  | openAccess c =>
    unfold State.placeClaimant State.admitOpenAccess
    dsimp only
    split
    · exact .refl s
    · next n _ => exact .after (t := s.notice (.openAccess (chanNumber c) n)) (.of_view rfl fun _ _ h => h) (hn _)
  | refresh =>
    unfold State.placeClaimant State.admitRefresh
    dsimp only
    split
    · exact .refl s
    · exact .after (keeps_modArb _ _ le_rfl rfl) (hn _)
  | timer t =>
    unfold State.placeClaimant State.admitTimer
    dsimp only
    split
    · exact .refl s
    · exact .after (keeps_modTimer t _ _) (hn _)
  | censusFind => exact keeps_admitCensusFind s hroom
  | censusEnd => exact keeps_admitCensusEnd s hroom

/-- What can be admitted is the first claimant, with room for its notice. -/
theorem admissible_eq_some {s : State} {k : Claimant} (h : s.admissible = some k) :
    s.link.canAdmit = true ∧ s.firstClaimant = some k := by
  unfold State.admissible at h
  split at h
  · next hc => exact ⟨hc, h⟩
  · cases h

theorem answers_noticeAdmit (s : State) : Answers s (execNoticeAdmit s) := by
  unfold execNoticeAdmit
  split
  · next k hk =>
    obtain ⟨hc, hf⟩ := admissible_eq_some hk
    exact .ite (fun _ => Keeps.refl s) fun _ => keeps_placeClaimant k s hc hf
  · exact Keeps.refl s

theorem answers_fillPassAdmit (s : State) : Answers s (execFillPassAdmit s) := by
  unfold execFillPassAdmit
  split
  · next k hk =>
    obtain ⟨hc, hf⟩ := admissible_eq_some hk
    exact .ite (fun _ => keeps_placeClaimant k s hc hf) fun _ => Keeps.refl s
  · exact Keeps.refl s

/-! ### Resets and the watchdog -/

theorem keeps_gatesOff (s : State) : Keeps s s.gatesOff := .of_view rfl fun _ _ h => h

theorem keeps_quietChan (c : ChanId) (s : State) : Keeps s (s.quietChan c) :=
  .ite (fun _ => .refl s) fun _ => .ite (fun _ => keeps_modChan_of_eq c _ s fun _ => rfl) fun _ => keeps_maskChan c _ s

theorem keeps_linkChan (c : ChanId) (s : State) : Keeps s (s.linkChan c) :=
  .ite (fun _ => keeps_modChan_of_eq c _ s fun _ => rfl) fun _ => keeps_modChan_of_eq c _ s fun _ => rfl

theorem answers_watchdogStage1 (s : State) : Answers s (execWatchdogStage1 s) := by
  unfold execWatchdogStage1
  split
  · exact Keeps.refl s
  · refine .ite (fun _ => ?_) fun _ => Keeps.refl s
    exact Keeps.after (keeps_gatesOff _) (.after (.each _ keeps_quietChan _ _) (keeps_modLink _ s id))

theorem keeps_parkSlots (s : State) : Keeps s s.parkSlots := by
  refine ⟨.of_eq rfl rfl, fun h i => ?_, id, id, id, id, id,
    passesOk_of (fun h => h.of_eq rfl rfl (fun _ _ h => h) fun _ h => h) id⟩
  simp only [State.parkSlots, Fin.getElem_fin, Vector.getElem_map]
  exact tableOk_park s.now (h i)

theorem answers_watchdogStage2 (s : State) : Answers s (execWatchdogStage2 s) := by
  unfold execWatchdogStage2
  split
  · exact Keeps.refl s
  · refine .ite (fun _ => ?_) fun _ => Keeps.refl s
    exact Keeps.after (keeps_modLink _ _ id) (.after (keeps_stopCensus _) (.after (keeps_cancelBatches _)
      (.after (keeps_parkSlots _) (keeps_modLink _ s id))))

theorem keeps_forgetTags (s : State) :
    Keeps s { s with regions := s.regions.map Region.forgetTags, storeWaits := s.storeWaits.map StoreOp.forgetTags } := by
  have hreg (r : RegionId) : (s.regions.map Region.forgetTags)[r] = s.regions[r].forgetTags := by
    simp only [Fin.getElem_fin, Vector.getElem_map]
  refine ⟨⟨id, fun h i j hij f hf g hg => ?_, fun h i => ?_⟩, id, id, id, id, id, id, passesOk_of (fun h => ?_) id⟩
  · dsimp only at hf hg
    rw [hreg] at hf hg
    exact h i j hij f hf g hg
  · dsimp only
    rw [hreg]
    exact h i
  · refine ⟨h.nodup, fun r => ?_, fun r hr => ?_, fun d r ha => ?_⟩
    · dsimp only; rw [hreg]; exact h.line r
    · dsimp only at hr ⊢; rw [hreg] at hr ⊢; exact h.mirror r hr
    · dsimp only
      rw [hreg]
      refine h.waits d r ?_
      cases d with
      | chan c => exact ha
      | relay => exact ha
      | map =>
        simp only [Awaits, hreg, Region.forgetTags, ne_eq, not_true_eq_false, or_false] at ha
        exact .inl ha

theorem answers_linkReset (s : State) : Answers s (execLinkReset s) := by
  have hlink : Keeps s (s.modLink fun l => l.afterLinkReset s.now) := keeps_modLink _ s fun _ => Nat.zero_le _
  have hlane (u : State) : Keeps u u.discardRuns := .of_view rfl fun _ _ h => h
  have hlines (u : State) : Keeps u u.clearService := .of_view rfl fun _ _ h => h
  exact Keeps.after (keeps_relayCheck _) (.after (hlines _) (.after (keeps_forgetTags _) (.after (.each _ keeps_linkChan _ _)
    (.after (keeps_linkResetCensus _) (.after (keeps_gatesOff _) (.after (hlane _) (.after (keeps_discardBatches _) hlink)))))))

/-- POWER_ON leaves the power-on state with what is not the part's. -/
theorem answers_powerOn (s : State) : Answers s (execPowerOn s) := by
  obtain ⟨hinv, hship, hpasses, hregs⟩ := resetKeepsTheLaws
  have hk : Keeps State.reset { State.reset with pending := s.pending, drives := s.drives, free := s.free } :=
    .of_view rfl fun _ _ h => h
  exact (⟨⟨fun _ => hk.map.store hinv.store, fun _ => hk.map.regions hregs, fun _ => hk.map.ship hship⟩,
    fun _ => hk.slots hinv.slots, fun _ => hk.room hinv.room, fun _ => hk.refresh hinv.refresh, fun _ => hk.rules hinv.rules,
    fun _ => hk.queue hinv.queue, fun _ => hk.bus hinv.bus, fun _ => hk.passes hpasses⟩ : Keeps s _)

/-! ### Expiries, ends of cycles and the lines -/

theorem answers_slotSample (s0 s1 s2 s3 : Sample) (s : State) : Answers s (execSlotSample s0 s1 s2 s3 s) := by
  have hone (i : SlotId) (m : Sample) (now : Time) (t : State) : Keeps t (t.modSlot i fun sl => (sl.sample m).tripAfter now) :=
    keeps_modSlot i _ t fun h => tableOk_tripAfter now (tableOk_sample m h)
  unfold execSlotSample
  refine .ite (fun _ => ?_) fun _ => Keeps.refl s
  exact Keeps.after (keeps_syncShared _ s) (.after (hone 3 s3 s.now _) (.after (hone 2 s2 s.now _) (.after (hone 1 s1 s.now _)
    (.after (hone 0 s0 s.now _) (.of_view rfl fun _ _ h => h)))))

theorem answers_rampExpiry (i : SlotId) (s : State) : Answers s (execRampExpiry i s) := by
  refine .ite (fun _ => Keeps.after (keeps_syncShared _ s) (keeps_modSlot i _ s fun _ => ?_)) fun _ => Keeps.refl s
  split
  · exact tableOk_enter _ _ _
  · exact tableOk_trip _ _ _ _

/-- The arbiter's expiry leaves the row, and an owed count within 4 (R50). -/
theorem expire_bounds (a : Arbiter) (now : Time) (h : a.owed ≤ 4) : (a.expire now).owed ≤ 4 ∧ (a.expire now).row = a.row := by
  have hover (b : Arbiter) : (b.overstay now).owed = b.owed ∧ (b.overstay now).row = b.row := by
    unfold Arbiter.overstay
    split
    · split <;> exact ⟨rfl, rfl⟩
    · exact ⟨rfl, rfl⟩
  unfold Arbiter.expire
  split
  · dsimp only
    split
    · obtain ⟨ho, hr⟩ := hover { a with owed := a.owed + 1 }
      rw [ho, hr]
      exact ⟨by simp only; omega, rfl⟩
    · exact ⟨by simp only; omega, rfl⟩
  · exact ⟨h, rfl⟩

theorem keeps_arb (f : Arbiter → Arbiter) (s : State) (hf : RefreshOk s → RefreshOk (s.modArb f)) : Keeps s (s.modArb f) :=
  ⟨.of_eq rfl rfl, id, id, hf, id, id, id, passesOk_of (fun h => h.of_eq rfl rfl (fun _ _ h => h) fun _ h => h) id⟩

theorem answers_refreshExpiry (s : State) : Answers s (execRefreshExpiry s) := by
  unfold execRefreshExpiry
  split
  · exact Keeps.refl s
  · next d _ =>
    refine .ite (fun _ => Keeps.after (keeps_arbitrate _) (keeps_arb _ s fun h => ?_)) fun _ => Keeps.refl s
    obtain ⟨ho, hr⟩ := expire_bounds { s.arb with refreshAt := some (d.moveOn s.bus.period) } s.now h.1
    exact ⟨ho, by rw [State.modArb_arb, hr]; exact h.2⟩

theorem answers_refreshCycleEnd (s : State) : Answers s (execRefreshCycleEnd s) := by
  unfold execRefreshCycleEnd
  split
  · refine Keeps.after (.ite (fun _ => keeps_orphanEnd _) fun _ => .after (keeps_grantPoint _) (keeps_arb _ _ fun h => ?_))
      (keeps_cycleDone _ s)
    exact ⟨(Nat.sub_le _ _).trans h.1, Nat.mod_lt _ (by decide)⟩
  · exact Keeps.refl s

theorem answers_transferEnd (e : BusEnd) (s : State) : Answers s (execTransferEnd e s) := by
  unfold execTransferEnd
  split
  · exact .ite (fun _ => Keeps.after (keeps_orphanEnd _) (keeps_cycleDone _ s)) fun _ =>
      Keeps.after (keeps_endTransfer _ _ _ _) (keeps_cycleDone _ s)
  · exact Keeps.refl s

theorem keeps_openAccess (c : ChanId) (addr : Nat) (w : Bool) (d : OpenDetail) (s : State) : Keeps s (s.openAccess c addr w d) :=
  .ite (fun _ => .refl s) fun _ => .of_view rfl fun _ _ h => h

theorem keeps_silent (s : State) : Keeps s s.silent := .of_view rfl fun _ _ h => h

theorem keeps_serveMasterWrite (id : RegionId) (addr : Nat) (word : Bool) (v : Half) (s : State) :
    Keeps s (s.serveMasterWrite id addr word v) := by
  unfold State.serveMasterWrite
  exact .after (keeps_thresholdCheck _ _) (.after (keeps_trickleUpdate _)
    (.after (t := s.storeCardBytes id addr (bytesOf word v)) (.of_view rfl fun _ _ h => h) (keeps_storeCardBytes _ _ _ s)))

theorem answers_masterCycle (a : CardAddress) (word write : Bool) (v : Half) (s : State) :
    Answers s (execMasterCycle a word write v s) := by
  unfold execMasterCycle
  dsimp only
  split
  · refine .ite (fun _ => Keeps.refl s) fun _ => .ite (fun _ => trivial) fun _ => ?_
    split
    · exact Keeps.after (keeps_openAccess _ _ _ _ _) (keeps_silent s)
    · split
      · exact keeps_silent s
      · exact Keeps.after (keeps_openAccess _ _ _ _ _) (keeps_silent s)
      · exact Keeps.ite (fun _ => keeps_serveMasterWrite _ _ _ _ s) fun _ => .of_view rfl fun _ _ h => h
  · exact Keeps.refl s

theorem answers_waitLimitExpiry (i : SlotId) (s : State) : Answers s (execWaitLimitExpiry i s) := by
  unfold execWaitLimitExpiry
  refine .ite (fun _ => Keeps.refl s) fun _ => ?_
  split
  · exact Keeps.ite (fun _ => .refl s) fun _ => .of_view rfl fun _ _ h => h
  · exact Keeps.of_view rfl fun _ _ h => h
  · exact Keeps.refl s

theorem answers_accessFirstCycleEnd (e : BusEnd) (s : State) : Answers s (execAccessFirstCycleEnd e s) := by
  unfold execAccessFirstCycleEnd
  split
  · split
    · exact Keeps.of_view rfl fun _ _ h => h
    · exact Keeps.refl s
  · exact Keeps.refl s

theorem answers_batchEntryEnd (e : BusEnd) (s : State) : Answers s (execBatchEntryEnd e s) := by
  unfold execBatchEntryEnd
  split
  · split
    · exact Keeps.refl s
    · refine .ite (fun _ => Keeps.after (keeps_orphanEnd _) (keeps_cycleDone _ s)) fun _ => ?_
      split
      · exact .ite (fun _ => Keeps.refl s) fun _ =>
          Keeps.after (keeps_grantPoint _) (.after (keeps_finishEntry _ _ _) (keeps_cycleDone _ s))
      · exact Keeps.refl s
  · exact Keeps.refl s

theorem answers_pollReadEnd (e : BusEnd) (s : State) : Answers s (execPollReadEnd e s) := by
  unfold execPollReadEnd
  split
  · split
    · exact Keeps.refl s
    · refine .ite (fun _ => Keeps.after (keeps_orphanEnd _) (keeps_cycleDone _ s)) fun _ => ?_
      split
      · exact .ite (fun _ => Keeps.after (keeps_grantPoint _) (.after (keeps_finishPoll _ _ _ _) (keeps_cycleDone _ s)))
          fun _ => Keeps.refl s
      · exact Keeps.refl s
  · exact Keeps.refl s

theorem answers_pollIntervalExpiry (s : State) : Answers s (execPollIntervalExpiry s) := by
  unfold execPollIntervalExpiry
  split
  · exact .ite (fun _ => Keeps.after (keeps_arbitrate _) (keeps_modBatch _ s)) fun _ => Keeps.refl s
  · exact Keeps.refl s

theorem answers_delayExpiry (s : State) : Answers s (execDelayExpiry s) := by
  unfold execDelayExpiry
  split
  · exact .ite (fun _ => Keeps.after (keeps_arbitrate _) (keeps_entryDone s)) fun _ => Keeps.refl s
  · exact Keeps.refl s

theorem answers_censusReadEnd (e : BusEnd) (s : State) : Answers s (execCensusReadEnd e s) := by
  unfold execCensusReadEnd
  split
  · split
    · exact Keeps.refl s
    · refine .ite (fun _ => Keeps.after (keeps_orphanEnd _) (keeps_cycleDone _ s)) fun _ => ?_
      exact Keeps.after (keeps_grantPoint _) (.after (.ite (fun _ => keeps_abandonCensus _) fun _ =>
        .after (keeps_offerCensus _) (.after (keeps_modCensus _ _) (keeps_offerFinding _)))
        (.after (keeps_modCensus _ _) (keeps_cycleDone _ s)))
  · exact Keeps.refl s

theorem answers_timedEntryEnd (e : BusEnd) (s : State) : Answers s (execTimedEntryEnd e s) := by
  unfold execTimedEntryEnd
  split
  · split
    · exact Keeps.refl s
    · refine .ite (fun _ => Keeps.after (keeps_orphanEnd _) (keeps_cycleDone _ s)) fun _ => ?_
      split
      · exact Keeps.after (keeps_grantPoint _) (.after (keeps_finishRunEntry _ _ _) (keeps_cycleDone _ s))
      · exact Keeps.refl s
  · exact Keeps.refl s

theorem answers_timerExpiry (t : TimerId) (s : State) : Answers s (execTimerExpiry t s) := by
  unfold execTimerExpiry
  refine .ite (fun _ => ?_) fun _ => Keeps.refl s
  dsimp only
  have h0 (f : Timer → Timer) : Keeps s (s.modTimer t f) := keeps_modTimer t f s
  split
  · exact Keeps.after (.ite (fun _ => keeps_modTimer t _ _) fun _ => .refl _) (h0 _)
  · exact .ite (fun _ => Keeps.after (keeps_arbitrate _) (.of_view rfl fun _ _ h => h)) fun _ => h0 _

theorem answers_holdoffExpiry (s : State) : Answers s (execHoldoffExpiry s) :=
  .ite (fun h => keeps_expireHoldoff s (by
    simp only [Bool.and_eq_true, decide_eq_true_eq] at h
    rw [h.1]; decide)) fun _ => Keeps.refl s

/-! ### The step -/

/-- A command answers a state that keeps every law, or stops. -/
theorem answers_exec (c : Instr) (s : State) : Answers s (exec c s) := by
  cases hc : c.header with
  | some h => exact answers_request hc s
  | none =>
    cases c with
    | frameRefused f => exact answers_frameRefused f s
    | kindOrSizeRefused h k l n => exact answers_kindOrSizeRefused h k l n s
    | heldRequestRouted => exact answers_heldRequestRouted s
    | reportRecordSent => exact answers_reportRecordSent s
    | noticeAdmit => exact answers_noticeAdmit s
    | fillPassAdmit => exact answers_fillPassAdmit s
    | linkConfigured => exact keeps_modLink _ s id
    | linkReset => exact answers_linkReset s
    | powerOn => exact answers_powerOn s
    | watchdogStage1 => exact answers_watchdogStage1 s
    | watchdogStage2 => exact answers_watchdogStage2 s
    | rampExpiry i => exact answers_rampExpiry i s
    | holdExpiry i => exact .ite (fun _ => keeps_modSlot i _ s fun _ => tableOk_settle _ _) fun _ => Keeps.refl s
    | settleExpiry i => exact .ite (fun _ => keeps_modSlot i _ s fun _ => ⟨rfl, rfl, rfl⟩) fun _ => Keeps.refl s
    | slotSample a b c d => exact answers_slotSample a b c d s
    | requestLevelChange i c b => exact Keeps.after (keeps_syncRequests _) (keeps_modDrive i _ s)
    | interruptLevelChange i l b => exact Keeps.after (keeps_syncLines _) (keeps_modDrive i _ s)
    | holdoffExpiry => exact answers_holdoffExpiry s
    | transferEnd e => exact answers_transferEnd e s
    | shipAgeExpiry id => exact keeps_ageCheck id s
    | masterCycle a w x v => exact answers_masterCycle a w x v s
    | waitLimitExpiry i => exact answers_waitLimitExpiry i s
    | accessFirstCycleEnd e => exact answers_accessFirstCycleEnd e s
    | batchEntryEnd e => exact answers_batchEntryEnd e s
    | pollReadEnd e => exact answers_pollReadEnd e s
    | pollIntervalExpiry => exact answers_pollIntervalExpiry s
    | delayExpiry => exact answers_delayExpiry s
    | censusReadEnd e => exact answers_censusReadEnd e s
    | refreshExpiry => exact answers_refreshExpiry s
    | refreshCycleEnd => exact answers_refreshCycleEnd s
    | timerExpiry t => exact answers_timerExpiry t s
    | timedEntryEnd e => exact answers_timedEntryEnd e s
    | _ => cases hc

theorem keeps_exec {c : Instr} {s t : State} (h : exec c s = .next t) : Keeps s t := by
  have := answers_exec c s
  rwa [h] at this

/-- Every step keeps every law: the command at the front, a record that waited, the part's own work, or one microsecond. -/
theorem keeps_step {s t : State} (h : step s = .next t) : Keeps s t := by
  unfold step at h
  split at h
  · next c rest _ => exact .after (keeps_exec h) (.of_view rfl fun _ _ h => h)
  · unfold State.idle at h
    split at h
    · next c rest _ =>
      obtain ⟨u, hu, rfl⟩ := State.takeWaiting_next h
      exact .after (t := u) (.of_view rfl fun _ _ h => h) (.after (keeps_exec hu) (.of_view rfl fun _ _ h => h))
    · split at h
      · exact keeps_exec h
      · cases h
        exact .of_view rfl fun _ _ h => h

/-- Settles O54: a write, a put and a zeroing each keep the list in rising order and free of zeros. -/
theorem everyStepKeepsTheStoreCanonical : Obligations.EveryStepKeepsTheStoreCanonical :=
  fun _ _ hs h => (keeps_step h).map.store hs

/-- Settles O55: a record is read, and a notice placed, only with room for it, and a reply takes its reservation's place. -/
theorem everyStepKeepsTheReportRoom : Obligations.EveryStepKeepsTheReportRoom :=
  fun _ _ hs h => (keeps_step h).room hs

/-- Settles O56: a slot changes its state only by entering it, with the switches and the reset line of that state. -/
theorem everyStepKeepsTheSlotTable : Obligations.EveryStepKeepsTheSlotTable :=
  fun _ _ hs h => (keeps_step h).slots hs

/-- Settles O57: each of the four laws goes by its own premise. -/
theorem everyStepKeepsTheBusLaws : Obligations.EveryStepKeepsTheBusLaws :=
  fun _ _ h => ⟨(keeps_step h).refresh, (keeps_step h).rules, (keeps_step h).queue, (keeps_step h).bus⟩

/-- Settles O58: an entry takes a new extent only where it overlaps none, or the one its successor held. -/
theorem everyStepKeepsRegionsApart : Obligations.EveryStepKeepsRegionsApart :=
  fun _ _ hs h => (keeps_step h).map.regions hs

/-- Settles O59: marks and ships keep each queue's law, and a pass that ends tells everyone who awaits it. -/
theorem everyStepKeepsTheDirtyTotals : Obligations.EveryStepKeepsTheDirtyTotals :=
  fun _ _ h => ⟨(keeps_step h).map.ship, (keeps_step h).passes⟩

end Sys2Proof.Proofs.StepLaws
end

section
/-! PROOFS. The link unit: which records are read, held, routed and left, what an idle step does, and the power-on values
(R163 to R169, R174, R176). -/

open Sys2Proof Sys2Proof.Machine Sys2Proof.Proofs.StepLaws
open Sys2Proof.Laws.RecordLength (payloadLength getCount)

namespace Sys2Proof.Proofs.LinkRequests

/-! ### Records that pass the checks -/

/-- A length that its kind allows fits a record (R163). -/
theorem length_le_of_recordCheck {kind length count : Nat} (h : recordCheck kind length count = .ok) :
    length ≤ Config.maxPayload := by
  unfold recordCheck at h
  split at h
  · cases h
  · next ok hk =>
    have hok : ok length = true := by
      cases hl : ok length with
      | true => rfl
      | false => simp [hl] at h
    unfold allowedLength at hk
    change length ≤ 1024
    split at hk <;> cases hk <;> simp at hok <;> omega

/-- A well-formed request passes R166. -/
theorem recordCheck_of_wf {c : Instr} {h : Hdr} (hc : c.header = some h) (hw : c.wf = true) :
    recordCheck c.kindCode (payloadLength c) (getCount c) = .ok := by
  have hs (hst : Laws.RecordLength.Statement c) : recordCheck c.kindCode (payloadLength c) (getCount c) = .ok := by
    have := hst hw
    rwa [hc, Option.isSome_some, if_pos rfl] at this
  cases c with
  | batch h es => exact hs (Laws.RecordLength.batch h es)
  | mirrorPut h a bs => exact hs (Laws.RecordLength.mirrorPut h a bs)
  | mirrorGet h a n => exact hs (Laws.RecordLength.mirrorGet h a n)
  | intDone h ls => exact hs (Laws.RecordLength.intDone h ls)
  | timerBatch h t es => exact hs (Laws.RecordLength.timerBatch h t es)
  | _ => first | rfl | cases hc

/-- A well-formed request has a tag (R165). -/
theorem tag_ne_zero_of_wf {c : Instr} {h : Hdr} (hc : c.header = some h) (hw : c.wf = true) : h.tag ≠ 0 := by
  simp only [Instr.wf, Bool.and_eq_true, hc, Option.all_some, Hdr.wf, decide_eq_true_eq] at hw
  obtain ⟨⟨⟨⟨ht, -⟩, -⟩, -⟩, -⟩ := hw
  exact ht

/-- A request that is read is checked at once. -/
theorem exec_reads {c : Instr} {h : Hdr} (hc : c.header = some h) {s : State} (hr : Reads s) :
    exec c s = .next (checkRecord c h c.kindCode (payloadLength c) (getCount c) (route c)
      { s with link := s.link.taken s.now h.more }) := by
  rw [exec_request hc, takeRequest, offerRecord_reads c h.more _ s hr]

/-- A request that is read and passes R165 and R166, and that nothing holds, is routed. -/
theorem exec_routed {c : Instr} {h : Hdr} (hc : c.header = some h) {s : State} (hr : Reads s) (ht : h.tag ≠ 0)
    (hk : recordCheck c.kindCode (payloadLength c) (getCount c) = .ok) (hn : s.holdCause c.kindCode h.ordered = none) :
    exec c s = .next (route c { s with link := s.link.taken s.now h.more }) := by
  rw [exec_reads hc hr]
  exact congrArg _ (checkRecord_passes c h _ _ _ _ _ (length_le_of_recordCheck hk) ht hk hn)

/-- A request that is read and passes R165 and R166, and for which there is cause, is held (R169). -/
theorem exec_held {c : Instr} {h : Hdr} (hc : c.header = some h) {s : State} (hr : Reads s) (ht : h.tag ≠ 0)
    (hk : recordCheck c.kindCode (payloadLength c) (getCount c) = .ok) {cause : HoldCause}
    (hn : s.holdCause c.kindCode h.ordered = some cause) :
    exec c s = .next { s with link := { s.link.taken s.now h.more with held := some (c, cause) } } := by
  have hn' : State.holdCause { s with link := s.link.taken s.now h.more } c.kindCode h.ordered = some cause := hn
  rw [exec_reads hc hr, checkRecord, if_neg (Nat.not_lt.mpr (length_le_of_recordCheck hk)), if_neg ht, hk]
  simp only [hn', State.modLink]

/-- A request other than BATCH that is served at once reaches its owner. -/
theorem exec_served {c : Instr} {h : Hdr} (hc : c.header = some h) {s : State} (hs : Served s h)
    (hk : recordCheck c.kindCode (payloadLength c) (getCount c) = .ok := by rfl)
    (hb : decide (c.kindCode = kBatch) = false := by rfl) :
    exec c s = .next (route c { s with link := s.link.taken s.now h.more }) := by
  obtain ⟨hr, ht, ho⟩ := hs
  have hnone : s.holdCause c.kindCode h.ordered = none := by
    rw [State.holdCause, if_neg (of_decide_eq_false hb)]
    obtain ho | hq := ho
    · simp [ho]
    · simp [hq]
  exact exec_routed hc hr ht hk hnone

/-- The reply to the record just read, whatever its owner has done meanwhile, takes the reservation of that record. -/
theorem reply_of_taken {u : State} {l : Link} {now : Time} {more : Bool} (hl : u.link = l.taken now more)
    (kind tag : Nat) (st : Status) (b : Body) :
    u.reply kind tag st b = { u with link := l.answered now more (.reply (kind + 0x80) tag st b) } := by
  rw [State.reply, State.modLink, hl, Link.place_taken, replyKind]

/-! ### What is not read, and what is held -/

/-- With no function configured there is no pipe (R163). -/
theorem offerRecord_unconfigured (c : Instr) (more : Bool) (take : State → State) {s : State}
    (h : s.link.configured = false) : offerRecord c more take s = s := by
  simp [offerRecord, h]

/-- A record that cannot be read waits in the pipe (R164). -/
theorem offerRecord_waits (c : Instr) (more : Bool) (take : State → State) {s : State} (hc : s.link.configured = true)
    (hp : s.link.parser ≠ .discarding) (hw : s.link.pipe ≠ [] ∨ s.link.canRead = false) :
    offerRecord c more take s = { s with link := { s.link with pipe := s.link.pipe ++ [c] } } := by
  unfold offerRecord
  by_cases hpipe : s.link.pipe = []
  · have hr := hw.resolve_left (not_not_intro hpipe)
    simp [hc, hp, hpipe, hr, State.modLink]
  · simp [hc, hpipe, State.modLink]

/-- What keeps a record from being read (R164, R169, R174). -/
theorem canRead_false {l : Link} (h : l.held ≠ none ∨ l.awaitReset = true ∨ 32 - l.reports.length < l.reservations + 2) :
    l.canRead = false := by
  rw [Link.canRead, Link.freeEntries]
  obtain hh | ha | hr := h
  · cases hl : l.held with
    | none => exact absurd hl hh
    | some _ => simp
  · simp [ha]
  · simp [Nat.not_le.mpr hr]

/-- A held request whose condition has come about is routed (R169). -/
theorem exec_heldRequestRouted_ready {s : State} {c : Instr} {cause : HoldCause} (hh : s.link.held = some (c, cause))
    (hr : s.heldReady = true) :
    exec .heldRequestRouted s = .next (route c { s with link := { s.link with held := none } }) := by
  simp only [exec, execHeldRequestRouted, hh, hr, if_true, State.modLink]

/-- Until then nothing happens. -/
theorem exec_heldRequestRouted_waits {s : State} (hr : s.heldReady = false) : exec .heldRequestRouted s = .next s := by
  simp only [exec, execHeldRequestRouted, hr]
  split <;> rfl

/-- A batch that is not posted joins a queue that is not empty, with the bus owned. -/
theorem serveBatch_behind {h : Hdr} {es : List RawEntry} {s : State} (hf : batchFault es = none) (hp : h.posted = false)
    (hq : s.queue ≠ []) (ho : s.arb.owner ≠ .none) :
    serveBatch h es s = { s with queue := s.queue ++ [{ tag := h.tag, entries := es, posted := false }] } := by
  have he : s.queue.isEmpty = false := by simpa using hq
  simp only [serveBatch, hf, hp, he, Bool.false_and, Bool.false_eq_true, if_false]
  exact State.arbitrate_owned _ ho

/-- Settles O9: a well-formed request passes the checks, and the condition given is that nothing holds it. -/
theorem everyServedRequestIsRouted : Obligations.EveryServedRequestIsRouted := by
  intro c h s hc hw hr hq
  have hnone : s.holdCause c.kindCode h.ordered = none := by
    unfold State.holdCause
    split
    · next hb =>
      rw [hb, if_pos rfl] at hq
      exact if_neg (Nat.not_le.mpr hq)
    · next hb =>
      rw [if_neg hb] at hq
      obtain ho | hq := hq
      · simp [ho]
      · simp [hq]
  exact exec_routed hc hr (tag_ne_zero_of_wf hc hw) (recordCheck_of_wf hc hw) hnone

/-- Settles O10: the four ways an offered request is not routed, then what becomes of a held one. -/
theorem requestsWaitAreHeldAndRouted : Obligations.RequestsWaitAreHeldAndRouted := by
  refine ⟨fun c h s hc => ⟨?unconfigured, ?waits, ?ordered, ?full⟩, fun c s hh hq => ?routedOrdered,
    fun c s hh hq => ?routedFull, fun c s hh hq => ?staysOrdered, fun c s hh hq => ?staysFull,
    fun h es s hh h0 h8 ho hf hp => ?batchRouted⟩
  case unconfigured =>
    intro hn
    rw [exec_request hc, takeRequest, offerRecord_unconfigured _ _ _ hn]
  case waits =>
    intro hc' hp hw
    rw [exec_request hc, takeRequest, offerRecord_waits _ _ _ hc' hp (hw.imp id canRead_false)]
  case ordered =>
    intro hw hr hk ho hq
    have hcause : s.holdCause c.kindCode h.ordered = some .ordered := by
      simp [State.holdCause, hk, ho, hq]
    exact exec_held hc hr (tag_ne_zero_of_wf hc hw) (recordCheck_of_wf hc hw) hcause
  case full =>
    intro hw hr hk hq
    have hcause : s.holdCause c.kindCode h.ordered = some .queueFull := by
      simp [State.holdCause, hk, hq]
    exact exec_held hc hr (tag_ne_zero_of_wf hc hw) (recordCheck_of_wf hc hw) hcause
  case routedOrdered =>
    exact exec_heldRequestRouted_ready hh (by simp [State.heldReady, hh, hq])
  case routedFull =>
    exact exec_heldRequestRouted_ready hh (by simp [State.heldReady, hh, hq])
  case staysOrdered =>
    exact exec_heldRequestRouted_waits (by simp [State.heldReady, hh, hq])
  case staysFull =>
    exact exec_heldRequestRouted_waits (by simp [State.heldReady, hh, hq])
  case batchRouted =>
    rw [exec_heldRequestRouted_ready hh (by simp [State.heldReady, hh, h8])]
    exact congrArg _ (serveBatch_behind hf hp (List.length_pos_iff.mp h0) ho)

/-! ### Records that leave -/

/-- Settles O12: with a configured function the head leaves, and otherwise nothing does. -/
theorem recordsLeaveInOrder : Obligations.RecordsLeaveInOrder := by
  refine ⟨fun s r rest hc hr => ?leaves, fun s h => ?stays⟩
  case leaves =>
    simp only [exec, execReportRecordSent, hr, hc, if_true, State.modLink, transferAfter, List.isEmpty_iff]
  case stays =>
    simp only [exec, execReportRecordSent]
    split
    · rfl
    · next r rest hr =>
      have hc : s.link.configured = false := h.resolve_left (by simp [hr])
      simp [hc]

/-! ### Power-on -/

/-- Settles O3: each block of the power-on state holds the default values of its structure. -/
theorem resetHoldsPowerOnValues : Obligations.ResetHoldsPowerOnValues := by
  have hs (i : SlotId) : State.reset.slots[i] = {} := by simp [State.reset]
  have ho (c : ChanId) : State.reset.heldOpen[c] = none := by simp [State.reset]
  have hc (c : ChanId) : State.reset.chans[c] = {} := by simp [State.reset]
  have hr (r : RegionId) : State.reset.regions[r] = {} := by simp [State.reset]
  have hl (l : LineId) : State.reset.lines[l] = {} := by simp [State.reset]
  have ht (t : TimerId) : State.reset.timers[t] = {} := by simp [State.reset]
  refine ⟨hs, rfl, rfl, rfl, rfl, rfl, rfl, rfl, rfl, rfl, rfl, rfl, rfl, rfl, fun c => ⟨ho c, hc c⟩, fun r => ?_, hl, rfl,
    ht, rfl, rfl⟩
  rw [hr r]
  exact ⟨rfl, rfl, rfl, rfl, rfl⟩

/-- Settles O4: both commands write their next state out. -/
theorem powerOnAndConfiguration : Obligations.PowerOnAndConfiguration :=
  fun _ => ⟨rfl, rfl⟩

/-! ### The queue of commands and time -/

/-- Settles O1: `step` looks at the front of the queue first. -/
theorem stepRunsFrontCommand : Obligations.StepRunsFrontCommand := by
  intro c rest s hp
  simp only [step, hp]

theorem step_idle {s : State} (hp : s.pending = []) : step s = s.idle := by
  simp only [step, hp]

/-- What a microsecond makes of a timer (R152). -/
theorem tick_eq (t : Timer) : t.tick =
    if t.gate = false then t
    else if t.counter = 0 then { t with due := true }
    else { t with counter := t.counter - 1 } := by
  unfold Timer.tick
  cases t.gate <;> rfl

/-- A record that waits and can be taken is the first work of an idle step. -/
theorem waitingRecord_some {s : State} {c : Instr} {rest : List Instr} (hp : s.link.pipe = c :: rest)
    (hc : s.link.configured = true) (hr : s.link.parser = .discarding ∨ s.link.canRead = true) :
    s.waitingRecord = some (c, rest) := by
  unfold State.waitingRecord
  rw [hp]
  refine if_pos ?_
  simpa [hc] using hr

/-- With nothing in flight no refused access is to be ended. -/
theorem refusedAccessEnd_none {s : State} (hf : s.inFlight = .none) : s.refusedAccessEnd = none := by
  simp only [State.refusedAccessEnd, hf]

/-- The part's own work where nothing is in flight and room is found: the first claimant is admitted. -/
theorem ownCommand_claimant {s : State} (hh : s.heldReady = false) (hf : s.inFlight = .none)
    (hr : s.link.canAdmit = true) {k : Claimant} (hk : s.firstClaimant = some k) :
    s.ownCommand = some (if k.isFill = true then .fillPassAdmit else .noticeAdmit) := by
  have ht : s.transferring = false := by simp only [State.transferring, hf]
  simp only [State.ownCommand, hh, refusedAccessEnd_none hf, State.admissible, hr, hk, ht, if_true, Bool.not_false]
  cases k.isFill <;> rfl

/-! ### The expiries that are due -/

/-- A slot's timer stands for the expiry of its state. -/
theorem mem_slotExpiry (c : Instr) (i : SlotId) (st : SlotState) : c ∈ slotExpiry i st ↔
    (st = .ramping ∧ c = .rampExpiry i) ∨ (st = .held ∧ c = .holdExpiry i) ∨ (st = .settling ∧ c = .settleExpiry i) := by
  cases st <;> simp [slotExpiry]

/-- A watchdog stage is due. -/
def watchdogDue (u : State) (c : Instr) : Prop :=
  reachedBy u.link.watchdogAt u.now = true ∧
    ((u.link.stage = 0 ∧ c = .watchdogStage1) ∨ (u.link.stage = 1 ∧ c = .watchdogStage2))

/-- A slot's expiry is due. -/
def slotDue (u : State) (c : Instr) : Prop :=
  ∃ i : SlotId, reachedBy u.slots[i].timer u.now = true ∧
    ((u.slots[i].state = .ramping ∧ c = .rampExpiry i) ∨ (u.slots[i].state = .held ∧ c = .holdExpiry i) ∨
      (u.slots[i].state = .settling ∧ c = .settleExpiry i))

/-- The end of a POLL interval or of a DELAY is due. -/
def waitDue (u : State) (c : Instr) : Prop :=
  ∃ b rest, u.queue = b :: rest ∧
    ((b.step = .pollWait ∧ c = .pollIntervalExpiry) ∨ (b.step = .delay ∧ c = .delayExpiry)) ∧
      reachedBy b.waitEnd u.now = true

/-- The expiries due: those of the watchdog, the slots, the refresh timer, the interval timers, the holdoff, the head batch and
the ship queues. -/
theorem mem_dueEvents (u : State) (c : Instr) : c ∈ u.dueEvents ↔
    watchdogDue u c ∨ slotDue u c ∨
    (u.arb.refreshAt.any (·.reached u.now) = true ∧ c = .refreshExpiry) ∨
    (∃ t : TimerId, (u.timers[t].gate && u.timers[t].due) = true ∧ .timerExpiry t = c) ∨
    ((u.relay.hand = .holdoff ∧ reachedBy u.relay.holdoffAt u.now = true) ∧ c = .holdoffExpiry) ∨
    waitDue u c ∨ ∃ id : RegionId, (u.regions[id].isMirror && u.ageReached id) = true ∧ .shipAgeExpiry id = c := by
  simp only [State.dueEvents, List.mem_append, or_assoc, List.mem_map, List.mem_filter, List.mem_finRange, true_and]
  refine or_congr ?watchdog (or_congr ?slot (or_congr ?refresh (or_congr .rfl (or_congr ?holdoff (or_congr ?wait .rfl)))))
  case watchdog =>
    by_cases hr : reachedBy u.link.watchdogAt u.now = true
    · by_cases h0 : u.link.stage = 0
      · simp [watchdogDue, hr, h0]
      · by_cases h1 : u.link.stage = 1 <;> simp [watchdogDue, hr, h0, h1]
    · simp [watchdogDue, hr]
  case slot =>
    rw [List.mem_flatMap]
    refine ⟨fun ⟨i, _, hi⟩ => ?_, fun ⟨i, hr, hi⟩ => ⟨i, List.mem_finRange i, ?_⟩⟩
    · split at hi
      · next hr => exact ⟨i, hr, (mem_slotExpiry _ _ _).mp hi⟩
      · cases hi
    · rw [if_pos hr]
      exact (mem_slotExpiry _ _ _).mpr hi
  case refresh => simp only [List.mem_ite_nil_right, List.mem_singleton]
  case holdoff => simp only [List.mem_ite_nil_right, List.mem_singleton, Bool.and_eq_true, decide_eq_true_eq]
  case wait =>
    unfold waitDue
    cases hq : u.queue with
    | nil => simp
    | cons b rest =>
      by_cases hr : reachedBy b.waitEnd u.now = true
      · cases hs : b.step <;> simp [hr, hs]
      · simp [hr]

/-- Settles O2: the idle step takes the first of a waiting record, its own work and a microsecond; the expiries are read off
the list of those due. -/
theorem emptyQueueLetsTimePass : Obligations.EmptyQueueLetsTimePass := by
  refine ⟨fun s hp => ⟨fun hw ho => ?time, fun c rest t hpipe hc hr he => ?waiting, fun hw c ho => ?own,
    fun hw hh => ?held, fun hw hh hf hr k hk => ?claimant⟩, fun u => ?due⟩
  case time =>
    refine ⟨s.timers.map Timer.tick, ?_, fun i => ?_⟩
    · rw [step_idle hp, State.idle, hw]
      simp only [ho, State.tick, State.microsecond, hp, List.nil_append]
    · rw [← tick_eq]
      exact Vector.getElem_map _ _
  case waiting =>
    rw [step_idle hp, State.idle, waitingRecord_some hpipe hc hr]
    simp only [State.takeWaiting, State.modLink, he]
  case own =>
    rw [step_idle hp, State.idle, hw]
    simp only [ho]
  case held =>
    rw [step_idle hp, State.idle, hw]
    simp only [State.ownCommand, hh, if_true]
  case claimant =>
    rw [step_idle hp, State.idle, hw]
    simp only [ownCommand_claimant hh hf hr hk]
    cases k.isFill <;> rfl
  case due =>
    refine ⟨?_, ?_, fun i => ⟨?_, ?_, ?_⟩, ?_, fun i => ?_, ?_, ?_, ?_, fun r => ?_⟩ <;>
      simp [mem_dueEvents, watchdogDue, slotDue, waitDue, Option.any_eq_true, State.ageReached]

end Sys2Proof.Proofs.LinkRequests
end

section
/-! PROOFS. The fixed order of held notices (R167), the queries, and the numbers that name nothing (R1, R16, R37, R77, R85, R106,
R149, R152, R157). -/

open Sys2Proof Sys2Proof.Machine Sys2Proof.Proofs.LinkRequests

namespace Sys2Proof.Proofs.Claimants

/-- A claimant is present: its block holds the notice, and nothing that it waits for is outstanding. -/
def present (s : State) : Claimant → Bool
  | .quiet => s.link.heldQuiet.isSome
  | .slot i => s.slots[i].heldNotice.isSome
  | .interrupt => s.relay.hand = .claiming
  | .channel c => s.chans[c].noticeReady
  | .fill r => s.fillLine.head? = some r
  | .overstay c => s.arb.heldOverstay[c].isSome
  | .openAccess c => s.heldOpen[c].isSome
  | .refresh => s.arb.heldRefresh.isSome
  | .timer i => s.timers[i].heldNotice.isSome
  | .censusFind => s.census.heldFind.isSome
  | .censusEnd => s.census.endReady

/-- The place of a claimant in the fixed order. -/
def place : Claimant → Nat
  | .quiet => 0
  | .slot i => 1 + i.val
  | .interrupt => 5
  | .channel c => 6 + c.val
  | .fill _ => 13
  | .overstay c => 14 + 2 * c.val
  | .openAccess c => 15 + 2 * c.val
  | .refresh => 28
  | .timer i => 29 + i.val
  | .censusFind => 33
  | .censusEnd => 34

/-- The claimants before the passes, in the fixed order. -/
def beforePasses : List Claimant :=
  .quiet :: (List.finRange 4).map .slot ++ .interrupt :: (List.finRange 7).map .channel

/-- The claimants after the passes, in the fixed order. -/
def afterPasses : List Claimant :=
  (List.finRange 7).flatMap (fun c => [.overstay c, .openAccess c]) ++ .refresh :: (List.finRange 4).map .timer ++
    [.censusFind, .censusEnd]

/-- Every claimant there can be, in the fixed order; of the passes, the head of the fill line. -/
def inOrder (s : State) : List Claimant := beforePasses ++ (s.fillLine.head?.toList.map .fill ++ afterPasses)

/-- The places rise along the list. -/
theorem places_rise (s : State) : ((inOrder s).map place).Pairwise (· < ·) := by
  have hfill (r : RegionId) : place (.fill r) = 13 := rfl
  rw [inOrder, List.map_append, List.map_append, List.map_map]
  cases s.fillLine with
  | nil => decide
  | cons r rest =>
    simp only [List.head?_cons, Option.toList_some, List.map_cons, List.map_nil, Function.comp, hfill]
    decide

/-- Every claimant that is present is listed. -/
theorem mem_inOrder {s : State} {k : Claimant} (h : present s k = true) : k ∈ inOrder s := by
  cases k with
  | fill r =>
    have hr : s.fillLine.head? = some r := of_decide_eq_true h
    simp [inOrder, hr]
  | _ => simp [inOrder, beforePasses, afterPasses]

/-- A search through a mapped list is a search through the list. -/
theorem find_map_eq {α : Type} (f : α → Claimant) (p : Claimant → Bool) (xs : List α) :
    (xs.map f).find? p = (xs.find? fun x => p (f x)).map f := by
  rw [List.find?_map]
  rfl

/-- The pairs of MASTER notices: the first channel that holds either, and its OVERSTAY before its OPEN_ACCESS. -/
theorem find_master (s : State) (cs : List ChanId) :
    (cs.flatMap fun c => [Claimant.overstay c, .openAccess c]).find? (present s) =
      (cs.find? fun c => s.arb.heldOverstay[c].isSome || s.heldOpen[c].isSome).map fun c =>
        if s.arb.heldOverstay[c].isSome then .overstay c else .openAccess c := by
  induction cs with
  | nil => rfl
  | cons c cs ih =>
    rw [List.flatMap_cons, List.find?_append, ih, List.find?_cons, List.find?_cons, List.find?_cons]
    simp only [present]
    cases ho : s.arb.heldOverstay[c].isSome with
    | true => simp only [Bool.true_or, Option.map_some, ho, if_true, Option.some_or]
    | false =>
      cases s.heldOpen[c].isSome with
      | true => simp only [Bool.or_true, Option.map_some, ho, Bool.false_eq_true, if_false, Option.some_or]
      | false => rfl

/-- The first claimant is the first present one of the list. -/
theorem firstClaimant_eq (s : State) : s.firstClaimant = (inOrder s).find? (present s) := by
  simp only [inOrder, beforePasses, afterPasses, List.find?_append, List.find?_cons, find_map_eq, find_master, List.find?_nil]
  simp only [State.firstClaimant, present]
  cases s.link.heldQuiet.isSome with
  | true => rfl
  | false =>
  cases (List.finRange 4).find? fun i => s.slots[i].heldNotice.isSome with
  | some i => rfl
  | none =>
  by_cases hi : s.relay.hand = .claiming
  · simp [hi]
  · simp only [hi]
    cases (List.finRange 7).find? fun c => s.chans[c].noticeReady with
    | some c => rfl
    | none =>
    cases s.fillLine with
    | cons id rest => simp
    | nil =>
    cases (List.finRange 7).find? fun c => s.arb.heldOverstay[c].isSome || s.heldOpen[c].isSome with
    | some c => rfl
    | none =>
    cases s.arb.heldRefresh.isSome with
    | true => rfl
    | false =>
    cases (List.finRange 4).find? fun t => s.timers[t].heldNotice.isSome with
    | some t => rfl
    | none =>
    cases s.census.heldFind.isSome with
    | true => rfl
    | false => cases s.census.endReady <;> rfl

/-- What a search finds in a list whose places rise is the least. -/
theorem place_le_of_find {p : Claimant → Bool} {ks : List Claimant} (hr : (ks.map place).Pairwise (· < ·)) {k : Claimant}
    (hk : ks.find? p = some k) {j : Claimant} (hj : j ∈ ks) (hp : p j = true) : place k ≤ place j := by
  induction ks with
  | nil => cases hj
  | cons x xs ih =>
    rw [List.map_cons, List.pairwise_cons] at hr
    obtain ⟨hx, hxs⟩ := hr
    cases hpx : p x with
    | true =>
      rw [List.find?_cons_of_pos hpx] at hk
      cases hk
      obtain rfl | hj := List.mem_cons.mp hj
      · exact le_refl _
      · exact Nat.le_of_lt (hx _ (List.mem_map_of_mem hj))
    | false =>
      rw [List.find?_cons_of_neg (by simp [hpx])] at hk
      obtain rfl | hj := List.mem_cons.mp hj
      · rw [hpx] at hp
        cases hp
      · exact ih hxs hk hj

/-- Two present claimants of one place are the same. -/
theorem eq_of_place_eq {s : State} {k j : Claimant} (hk : present s k = true) (hj : present s j = true)
    (h : place k = place j) : k = j := by
  have hn : ((inOrder s).map place).Nodup := (places_rise s).imp fun hlt => Nat.ne_of_lt hlt
  exact List.inj_on_of_nodup_map hn (mem_inOrder hk) (mem_inOrder hj) h

theorem firstClaimant_eq_some_iff {s : State} {k : Claimant} :
    s.firstClaimant = some k ↔ present s k = true ∧ ∀ j, present s j = true → place k ≤ place j := by
  rw [firstClaimant_eq]
  constructor
  · intro h
    exact ⟨List.find?_some h, fun j hj => place_le_of_find (places_rise s) h (mem_inOrder hj) hj⟩
  · intro ⟨hk, hmin⟩
    cases hf : (inOrder s).find? (present s) with
    | none => exact absurd hk (by simpa using List.find?_eq_none.mp hf k (mem_inOrder hk))
    | some j =>
      have hj : present s j = true := List.find?_some hf
      have hle := place_le_of_find (places_rise s) hf (mem_inOrder hk) hk
      rw [eq_of_place_eq hj hk (Nat.le_antisymm hle (hmin j hj))]

theorem firstClaimant_eq_none_iff {s : State} : s.firstClaimant = none ↔ ∀ k, present s k = false := by
  rw [firstClaimant_eq, List.find?_eq_none]
  constructor
  · intro h k
    cases hk : present s k with
    | false => rfl
    | true => exact absurd hk (h k (mem_inOrder hk))
  · intro h k _
    simp [h k]

/-- Settles O14: the first claimant is found by a search through the list of all, in which the places rise. -/
theorem claimantsStandInFixedOrder : Obligations.ClaimantsStandInFixedOrder := by
  intro s pres pl
  have hpl : pl = place := rfl
  have hpres (k : Claimant) : pres k ↔ present s k = true := by
    cases k <;> simp [pres, present, Chan.noticeReady, Census.endReady, Option.isSome_iff_ne_none, and_comm, or_assoc]
  simp only [hpl, hpres, firstClaimant_eq_some_iff, firstClaimant_eq_none_iff, Bool.not_eq_true, implies_true, and_self]

end Sys2Proof.Proofs.Claimants
end

section
/-! PROOFS. What looking at trickle again changes: the trickling flags, and the passes that begin of it (R134, R135). -/

open Sys2Proof Sys2Proof.Machine

namespace Sys2Proof.Proofs.Trickle

/-- An entry of a table after one of its entries is replaced. -/
theorem getElem_set_fin {α : Type} {n : Nat} (v : Vector α n) (i j : Fin n) (x : α) :
    (v.set i x)[j] = if j = i then x else v[j] := by
  by_cases h : j = i
  · subst h
    simp
  · simp [h, Fin.val_inj, Ne.symm h]

theorem getElem_set_same {α : Type} {n : Nat} (v : Vector α n) (i : Fin n) (x : α) : (v.set i x)[i] = x := by
  rw [getElem_set_fin, if_pos rfl]

/-- Tables that agree at every index are the same. -/
theorem vector_ext {α : Type} {n : Nat} {v w : Vector α n} (h : ∀ i : Fin n, v[i] = w[i]) : v = w :=
  Vector.ext fun i hi => h ⟨i, hi⟩

/-- Looking at trickle begins a pass on the region: it trickles, has bytes queued and no pass runs (R135). -/
def begins (s : State) (id : RegionId) : Bool :=
  s.isTrickling id && !s.regions[id].ship.entries.isEmpty && !s.regions[id].ship.running

/-- The region after trickle is looked at. -/
def trickled (s : State) (id : RegionId) : Region :=
  { s.regions[id] with ship := { s.regions[id].ship with
    trickling := s.isTrickling id, running := s.regions[id].ship.running || begins s id } }

theorem isMirror_of_isTrickling {s : State} {id : RegionId} (h : s.isTrickling id = true) :
    s.regions[id].isMirror = true := by
  rw [State.isTrickling, Bool.and_eq_true] at h
  exact h.1

/-- A region with bytes queued and an IDLE pass begins one by joining the fill line (R126). -/
theorem trigger_begins {s : State} {id : RegionId} (hm : s.regions[id].isMirror = true)
    (hr : s.regions[id].ship.running = false) (he : s.regions[id].ship.entries ≠ []) :
    s.trigger id = { s with
      regions := s.regions.set id { s.regions[id] with ship := { s.regions[id].ship with running := true } }
      fillLine := s.fillLine ++ [id] } := by
  have he' : (s.modShip id fun q => { q with running := true }).regions[id].ship.entries.isEmpty = false := by
    rw [State.modShip, State.regions_modRegion, if_pos rfl]
    simpa using he
  simp only [State.trigger, State.beginPass, hm, hr, he', Bool.not_false, Bool.and_self, if_true, Bool.false_eq_true, if_false]
  rfl

/-- A trigger on a running pass has no further effect (R126). -/
theorem trigger_running {s : State} {id : RegionId} (hr : s.regions[id].ship.running = true) : s.trigger id = s := by
  simp [-Fin.getElem_fin, State.trigger, hr]

/-- One region's trickle is looked at. -/
theorem trickleRegion_eq (id : RegionId) (s : State) : s.trickleRegion id = { s with
    regions := s.regions.set id (trickled s id)
    fillLine := s.fillLine ++ if begins s id then [id] else [] } := by
  unfold State.trickleRegion trickled begins
  have hreg : (s.modShip id fun q => { q with trickling := s.isTrickling id }).regions[id] =
      { s.regions[id] with ship := { s.regions[id].ship with trickling := s.isTrickling id } } := by
    rw [State.modShip, State.regions_modRegion, if_pos rfl]
  dsimp only
  rw [hreg]
  dsimp only
  cases ht : s.isTrickling id with
  | false => simp [State.modShip, State.modRegion]
  | true =>
    by_cases he : s.regions[id].ship.entries = []
    · simp [-Fin.getElem_fin, he, State.modShip, State.modRegion]
    · have he' : s.regions[id].ship.entries.isEmpty = false := by simpa using he
      rw [ht] at hreg
      cases hr : s.regions[id].ship.running with
      | true =>
        rw [trigger_running (by rw [hreg]; exact hr)]
        simp [-Fin.getElem_fin, he', hr, State.modShip, State.modRegion]
      | false =>
        rw [trigger_begins (by rw [hreg]; exact isMirror_of_isTrickling ht) (by rw [hreg]; exact hr) (by rw [hreg]; exact he), hreg]
        simp [-Fin.getElem_fin, he', State.modShip, State.modRegion, Vector.set_set]

/-- Whether a region trickles depends on its own fields, the channels and the lines. -/
theorem isTrickling_congr {s t : State} {id : RegionId} (hr : t.regions[id] = s.regions[id]) (hc : t.chans = s.chans)
    (hl : t.lines = s.lines) : t.isTrickling id = s.isTrickling id := by
  simp only [State.isTrickling, State.inTrickle, hr, hc, hl]

theorem begins_congr {s t : State} {id : RegionId} (hr : t.regions[id] = s.regions[id]) (hc : t.chans = s.chans)
    (hl : t.lines = s.lines) : begins t id = begins s id := by
  simp only [begins, isTrickling_congr hr hc hl, hr]

theorem trickled_congr {s t : State} {id : RegionId} (hr : t.regions[id] = s.regions[id]) (hc : t.chans = s.chans)
    (hl : t.lines = s.lines) : trickled t id = trickled s id := by
  simp only [trickled, isTrickling_congr hr hc hl, begins_congr hr hc hl, hr]

/-- Several regions are looked at, each for itself. -/
theorem each_trickleRegion_eq (ids : List RegionId) (hn : ids.Nodup) (s : State) :
    ∃ rs : Vector Region 16, s.each ids State.trickleRegion = { s with
        regions := rs, fillLine := s.fillLine ++ ids.filter (begins s) } ∧
      ∀ r : RegionId, rs[r] = if r ∈ ids then trickled s r else s.regions[r] := by
  induction ids generalizing s with
  | nil => exact ⟨s.regions, by simp, fun r => by simp⟩
  | cons id ids ih =>
    rw [List.nodup_cons] at hn
    obtain ⟨hid, hn⟩ := hn
    have hother (r : RegionId) (hr : r ≠ id) : (s.trickleRegion id).regions[r] = s.regions[r] := by
      rw [trickleRegion_eq]
      exact (getElem_set_fin _ _ _ _).trans (if_neg hr)
    have hchans : (s.trickleRegion id).chans = s.chans := by rw [trickleRegion_eq]
    have hlines : (s.trickleRegion id).lines = s.lines := by rw [trickleRegion_eq]
    have hne (r : RegionId) (hr : r ∈ ids) : r ≠ id := fun h => hid (h ▸ hr)
    obtain ⟨rs, heq, hrs⟩ := ih hn (s.trickleRegion id)
    refine ⟨rs, ?_, fun r => ?_⟩
    · have hfilter : ids.filter (begins (s.trickleRegion id)) = ids.filter (begins s) :=
        List.filter_congr fun r hr => begins_congr (hother r (hne r hr)) hchans hlines
      rw [State.each_cons, heq, hfilter, trickleRegion_eq, List.filter_cons]
      dsimp only
      cases begins s id <;> simp
    · rw [hrs r]
      by_cases hr : r ∈ ids
      · rw [if_pos hr, if_pos (List.mem_cons_of_mem _ hr), trickled_congr (hother r (hne r hr)) hchans hlines]
      · rw [if_neg hr]
        by_cases hrid : r = id
        · subst hrid
          rw [if_pos List.mem_cons_self, trickleRegion_eq]
          exact getElem_set_same _ _ _
        · rw [if_neg (by simp [hr, hrid]), hother r hrid]

/-- Trickle is looked at again: every region's flag is set, and those that begin a pass join the fill line in order (R135; log
entry 25). Nothing else changes. -/
theorem trickleUpdate_eq (s : State) : ∃ rs : Vector Region 16, s.trickleUpdate = { s with
      regions := rs, fillLine := s.fillLine ++ (List.finRange 16).filter (begins s) } ∧
    ∀ r : RegionId, rs[r] = trickled s r := by
  obtain ⟨rs, heq, hrs⟩ := each_trickleRegion_eq (List.finRange 16) (List.nodup_finRange 16) s
  exact ⟨rs, heq, fun r => (hrs r).trans (if_pos (List.mem_finRange r))⟩

/-- Trickle changes the regions' ship queues and the fill line alone. -/
theorem trickleUpdate_frame (s : State) : s.trickleUpdate = { s with
    regions := s.trickleUpdate.regions, fillLine := s.trickleUpdate.fillLine } := by
  obtain ⟨rs, heq, -⟩ := trickleUpdate_eq s
  rw [heq]

end Sys2Proof.Proofs.Trickle
end

section
/-! PROOFS. The requests that set or report one record: slots (R2, R7, R11, R16), port rules (R32, R33), channels (R82 to R85), timers
(R154 to R157), and the numbers that name nothing. Then addresses (R93, R94), the resolution of accesses (R24 to R31), and records as
bytes (11.7, 11.8). -/

open Sys2Proof Sys2Proof.Machine Sys2Proof.Proofs.LinkRequests Sys2Proof.Proofs.Trickle

namespace Sys2Proof.Proofs.RecordRequests

/-! ### Numbers -/

@[simp] theorem slotOf_val (i : SlotId) : slotOf i.val = some i := dif_pos i.isLt

@[simp] theorem timerOf_val (i : TimerId) : timerOf i.val = some i := dif_pos i.isLt

@[simp] theorem regionOf_val (i : RegionId) : regionOf i.val = some i := dif_pos i.isLt

@[simp] theorem chanOf_chanNumber (c : ChanId) : chanOf (chanNumber c) = some c := by
  revert c
  decide

theorem slotOf_none {n : Nat} (h : 4 ≤ n) : slotOf n = none := dif_neg (Nat.not_lt.mpr h)

theorem timerOf_none {n : Nat} (h : 4 ≤ n) : timerOf n = none := dif_neg (Nat.not_lt.mpr h)

theorem regionOf_none {n : Nat} (h : 16 ≤ n) : regionOf n = none := dif_neg (Nat.not_lt.mpr h)

theorem chanOf_none {n : Nat} (h : n = 4 ∨ 8 ≤ n) : chanOf n = none := by
  rw [chanOf, dif_neg (by omega), dif_neg (by omega)]

theorem lineOf_none {n : Nat} (h : n ∉ [3, 4, 5, 6, 7, 9, 10, 11, 12, 14, 15]) : lineOf n = none := by
  have hall : ∀ l : LineId, lineNumber l ∈ [3, 4, 5, 6, 7, 9, 10, 11, 12, 14, 15] := by decide
  refine List.find?_eq_none.mpr fun l _ hl => h ?_
  rw [← of_decide_eq_true hl]
  exact hall l

theorem withSlot_val (kind : Nat) (h : Hdr) (i : SlotId) (f : SlotId → State → State) (s : State) :
    State.withSlot kind h i.val f s = f i s := by
  rw [State.withSlot, slotOf_val]

theorem withChan_number (kind : Nat) (h : Hdr) (c : ChanId) (f : ChanId → State → State) (s : State) :
    State.withChan kind h (chanNumber c) f s = f c s := by
  rw [State.withChan, chanOf_chanNumber]

theorem withTimer_val (kind : Nat) (h : Hdr) (i : TimerId) (f : TimerId → State → State) (s : State) :
    State.withTimer kind h i.val f s = f i s := by
  rw [State.withTimer, timerOf_val]

theorem withRegion_val (kind : Nat) (h : Hdr) (i : RegionId) (f : RegionId → State → State) (s : State) :
    State.withRegion kind h i.val f s = f i s := by
  rw [State.withRegion, regionOf_val]

theorem clamp_eq (lo hi n : Nat) : clamp lo hi n = if n < lo then lo else if hi < n then hi else n := rfl

/-- A claim that may have appeared is granted on an idle bus (R40). -/
theorem arbitrate_eq_claimed (s : State) : s.arbitrate = s.claimed := by
  simp only [State.arbitrate, State.claimed, Bool.and_eq_true, decide_eq_true_eq]

/-- A refusal answers a request that is served at once. -/
theorem exec_refused {c : Instr} {h : Hdr} (hc : c.header = some h) {s : State} (hs : Served s h) {st : Status}
    (hr : route c { s with link := s.link.taken s.now h.more } =
      State.refuse { s with link := s.link.taken s.now h.more } c.kindCode h.tag st)
    (hk : recordCheck c.kindCode (Laws.RecordLength.payloadLength c) (Laws.RecordLength.getCount c) = .ok := by rfl)
    (hb : decide (c.kindCode = kBatch) = false := by rfl) :
    exec c s = .next (s.answered h c.kindCode st .empty) := by
  rw [exec_served hc hs hk hb, hr, State.refuse_taken]

/-! ### Slots -/

/-- Settles O16: the settings as clamped, and the pulse by the slot's state. -/
theorem slotSettingsAndPulses : Obligations.SlotSettingsAndPulses := by
  intro s h i hs
  refine ⟨fun l5 l12 hold settle => ?set, ?pulse⟩
  case set =>
    rw [exec_served rfl hs]
    simp only [route, serveSlotSet, withSlot_val]
    rw [reply_of_taken rfl]
    simp [State.modSlot, Slot.applySettings, clamp_eq, State.answered]
  case pulse =>
    rw [exec_served rfl hs]
    simp only [route, serveSlotPulse, withSlot_val]
    cases hst : s.slots[i].state with
    | held | settling | online | parked => exact congrArg _ (reply_of_taken rfl _ _ _ _)
    | off | ramping | fault => exact congrArg _ (s.refuse_taken _ _ _)

/-! ### Queries -/

/-- Settles O20: each query's reply is placed at once. -/
theorem queriesReport : Obligations.QueriesReport := by
  intro s h hs
  refine ⟨fun i => ?slot, ?bus, ?relay, fun c => ?chan, fun i => ?timer⟩
  case slot =>
    rw [exec_served rfl hs]
    simp only [route, serveSlotQuery, withSlot_val]
    exact congrArg _ (s.reply_taken _ _ _ _)
  case bus =>
    rw [exec_served rfl hs]
    exact congrArg _ (s.reply_taken _ _ _ _)
  case relay =>
    rw [exec_served rfl hs]
    exact congrArg _ (s.reply_taken _ _ _ _)
  case chan =>
    rw [exec_served rfl hs]
    simp only [route, serveChanQuery, withChan_number]
    rw [s.reply_taken]
    rfl
  case timer =>
    have hnext : s.runNext i = s.lane.head?.bind fun r => if r.timer = i then some r.next else none := by
      unfold State.runNext
      cases s.lane <;> rfl
    rw [exec_served rfl hs, ← hnext]
    simp only [route, serveTimerQuery, withTimer_val]
    rw [s.reply_taken]
    rfl

/-- A TIMER_BATCH of at most 16 entries fits its record. -/
theorem recordCheck_timerBatch {es : List RawEntry} (h : es.length ≤ 16) :
    recordCheck kTimerBatch (1 + 12 * es.length) 0 = .ok := by
  generalize es.length = n at h
  simp [recordCheck, allowedLength, kMirrorGet]
  omega

/-- Settles O21: each owner looks the number up before any other check. -/
theorem numbersNamingNothingAreRefused : Obligations.NumbersNamingNothingAreRefused := by
  intro s h n hs
  refine ⟨fun hn a b c d => ?slotsAndTimers, fun hn p => ?chans, fun hn r => ?regions, fun hn m l => ?lines⟩
  case slotsAndTimers =>
    refine ⟨exec_refused rfl hs ?_, exec_refused rfl hs ?_, exec_refused rfl hs ?_, exec_refused rfl hs ?_,
      exec_refused rfl hs ?_, fun m => exec_refused rfl hs ?_, exec_refused rfl hs ?_,
      fun es hes => exec_refused (c := .timerBatch h n es) rfl hs ?_ (recordCheck_timerBatch hes),
      exec_refused rfl hs ?_⟩ <;>
      simp only [route, serveSlotSet, serveSlotPower, servePowerOn, servePowerOff, serveSlotPulse, serveSlotQuery,
        serveTimerLoad, serveTimerGate, serveTimerBatch, serveTimerQuery, State.withSlot, State.withTimer,
        slotOf_none hn, timerOf_none hn, Instr.kindCode, ite_self]
  case chans =>
    refine ⟨exec_refused rfl hs ?_, exec_refused rfl hs ?_, exec_refused rfl hs ?_, exec_refused rfl hs ?_⟩ <;>
      simp only [route, serveChanLoad, serveChanMask, serveChanUnmask, serveChanQuery, State.withChan, chanOf_none hn,
        Instr.kindCode]
  case regions =>
    refine ⟨exec_refused rfl hs ?_, exec_refused rfl hs ?_, exec_refused rfl hs ?_⟩ <;>
      simp only [route, serveRegionSet, serveRegionDrop, serveRegionFlush, State.withRegion, regionOf_none hn,
        Instr.kindCode]
  case lines =>
    refine exec_refused rfl hs ?_
    simp only [route, serveLineSet, lineOf_none hn, Instr.kindCode]

/-! ### Port rules -/

/-- Settles O23: the checks in their order, and a removal by the first port. -/
theorem portRulesAreCheckedAndDropped : Obligations.PortRulesAreCheckedAndDropped := by
  intro s h hs
  refine ⟨fun first last w o limit p => ?set, fun port => ⟨fun hq => ?drop, fun hq => ?none⟩⟩
  case set =>
    rw [exec_served rfl hs]
    simp only [route, servePortRuleSet]
    cases w with
    | none => simpa using s.refuse_taken h kPortRuleSet .range
    | some w =>
    cases o with
    | none => simpa using s.refuse_taken h kPortRuleSet .range
    | some o =>
    cases p with
    | none => simpa using s.refuse_taken h kPortRuleSet .range
    | some p =>
      have hmeets : (s.rules.any (PortRule.meets ⟨first, last, w, o, appliedRuleLimit limit, p⟩) = true) ↔
          ∃ q ∈ s.rules, first.toNat ≤ q.last.toNat ∧ q.first.toNat ≤ last.toNat := by
        simp [PortRule.meets]
      simp only [reduceCtorEq, or_false]
      by_cases hr : last.toNat < first.toNat
      · simp only [if_pos hr]
        exact congrArg _ (s.refuse_taken _ _ _)
      · simp only [if_neg hr]
        by_cases hm : ∃ q ∈ s.rules, first.toNat ≤ q.last.toNat ∧ q.first.toNat ≤ last.toNat
        · simp only [if_pos (hmeets.mpr hm), if_pos hm]
          exact congrArg _ (s.refuse_taken _ _ _)
        · simp only [if_neg (mt hmeets.mp hm), if_neg hm]
          by_cases hf : Config.portRuleCapacity ≤ s.rules.length
          · simp only [if_pos hf]
            exact congrArg _ (s.refuse_taken _ _ _)
          · have hlimit : appliedRuleLimit limit = if limit = 0 then 0 else if limit < 2 then 2 else min limit 1000 := by
              simp only [appliedRuleLimit, clamp_eq, min_def]
              split_ifs <;> omega
            simp only [if_neg hf]
            rw [reply_of_taken rfl, ← hlimit]
            rfl
  case drop =>
    have hany : (s.rules.any fun q => decide (q.first = port)) = true := by simpa using hq
    rw [exec_served rfl hs]
    simp only [route, servePortRuleDrop, hany, if_true]
    rw [reply_of_taken rfl]
    rfl
  case none =>
    have hany : (s.rules.any fun q => decide (q.first = port)) = false := by simpa using hq
    refine exec_refused rfl hs ?_
    simp only [route, servePortRuleDrop, hany]
    rfl

/-! ### Channels -/

/-- A CHAN_LOAD's match byte is out of place: on a word channel, or for a channel that does not FILL (R82). -/
theorem match_refused_iff {c : ChanId} {k : ChanKind} {m : Option Byte} :
    (m.isSome && (isWord c || decide (k ≠ .fill))) = true ↔ m ≠ none ∧ (4 ≤ c.val ∨ k ≠ .fill) := by
  simp [isWord, Option.isSome_iff_ne_none]

/-- Settles O34: the checks in their order; a load that is taken leaves everything but its channel, and the trickling regions. -/
theorem chanLoadWritesTheProgram : Obligations.ChanLoadWritesTheProgram := by
  intro s h c p hs
  refine ⟨fun hnone => exec_refused rfl hs ?unknown, fun k v d hk hv hd => ?known⟩
  case unknown =>
    simp only [route, serveChanLoad, withChan_number]
    obtain hn | hn | hn := hnone
    · rw [hn]
      rfl
    · rw [hn]
      cases p.kind <;> rfl
    · rw [hn]
      cases p.kind <;> cases p.service <;> rfl
  case known =>
    have hroute (u : State) : route (.chanLoad h (chanNumber c) p) u =
        if p.matchByte.isSome && (isWord c || decide (k ≠ .fill)) then u.refuse kChanLoad h.tag .range
        else if u.chans[c].state = .serving then u.refuse kChanLoad h.tag .busy
        else ((u.modChan c fun ch => ch.load p k v d).reply kChanLoad h.tag .ok .empty).trickleUpdate := by
      simp only [route, serveChanLoad, withChan_number, hk, hv, hd]
    have hok (hm : p.matchByte = none ∨ (c.val < 4 ∧ k = .fill)) : ¬ (p.matchByte.isSome &&
        (isWord c || decide (k ≠ .fill))) = true := by
      rw [match_refused_iff]
      rintro ⟨hsome, hbad⟩
      obtain hn | ⟨hc, hf⟩ := hm
      · exact hsome hn
      · exact hbad.elim (Nat.not_le.mpr hc) (fun hne => hne hf)
    refine ⟨fun hm hbad => exec_refused rfl hs ?_, fun hm hst => exec_refused rfl hs ?_, fun hm hst => ?_⟩
    · rw [hroute, if_pos (match_refused_iff.mpr ⟨hm, hbad⟩)]
      rfl
    · rw [hroute, if_neg (hok hm), if_pos hst]
      rfl
    · refine ⟨_, exec_served rfl hs, ?_⟩
      rw [hroute, if_neg (hok hm), if_neg hst, reply_of_taken rfl, trickleUpdate_frame]
      exact ⟨rfl, rfl, rfl, rfl, rfl, rfl, rfl, rfl, rfl, rfl⟩

/-- The context of a channel that is unmasked (R84). -/
theorem unmask_eq (ch : Chan) : ch.unmask = { ch with
    maskReason := none
    state := if (ch.blockOpen = true ∧ ch.service = .block) ∨ ch.request = true then .serving else .ready } := by
  simp only [Chan.unmask, Bool.or_eq_true, Bool.and_eq_true, decide_eq_true_eq]

/-- Settles O35: a mask by whether the channel owns the bus, an unmask by the channel's context. -/
theorem channelsAreMaskedAndUnmasked : Obligations.ChannelsAreMaskedAndUnmasked := by
  intro s h c hs
  refine ⟨fun hno => ?atOnce, fun hst ho => ?transfer, fun hst ho => ?master, ?unmask⟩
  case atOnce =>
    have hcond : (decide (s.chans[c].state = .serving) && s.arb.owner.isChan c) = false := by
      simpa [-Fin.getElem_fin] using hno
    rw [exec_served rfl hs]
    simp only [route, serveChanMask, withChan_number, hcond]
    exact congrArg _ (reply_of_taken rfl _ _ _ _)
  case transfer =>
    have hcond : (decide (s.chans[c].state = .serving) && s.arb.owner.isChan c) = true := by
      simp [-Fin.getElem_fin, ho, hst, Owner.isChan]
    have hm : s.arb.owner.isMaster = false := by rw [ho, Owner.isMaster]
    rw [exec_served rfl hs]
    simp only [route, serveChanMask, withChan_number, hcond, hm, if_true, Bool.false_eq_true, if_false,
      State.modChan, getElem_set_same, Vector.set_set]
  case master =>
    have hcond : (decide (s.chans[c].state = .serving) && s.arb.owner.isChan c) = true := by
      simp [-Fin.getElem_fin, ho, hst, Owner.isChan]
    have hm : s.arb.owner.isMaster = true := by rw [ho, Owner.isMaster]
    rw [exec_served rfl hs]
    simp only [route, serveChanMask, withChan_number, hcond, State.modChan_arb, hm, if_true]
    rw [reply_of_taken rfl]
    rfl
  case unmask =>
    rw [exec_served rfl hs]
    simp only [route, serveChanUnmask, withChan_number, Bool.not_eq_true', Option.isSome_iff_ne_none]
    by_cases hp : s.chans[c].programmed = false
    · simp only [if_pos hp]
      exact congrArg _ (s.refuse_taken _ _ _)
    · simp only [if_neg hp]
      by_cases hm : s.chans[c].maskPending ≠ none
      · simp only [if_pos hm]
        exact congrArg _ (s.refuse_taken _ _ _)
      · simp only [if_neg hm]
        by_cases hst : s.chans[c].state = .masked
        · simp only [if_pos hst, if_neg (not_not_intro hst)]
          rw [arbitrate_eq_claimed, reply_of_taken rfl, State.modChan, unmask_eq]
          rfl
        · simp only [ne_eq, hst, not_false_eq_true, if_true]
          exact congrArg _ (s.reply_taken _ _ _ _)

/-! ### Timers -/

/-- Settles O49: the checks in their order, and the record as set. -/
theorem timerRequestsSetTheRecord : Obligations.TimerRequestsSetTheRecord := by
  intro s h i hs
  refine ⟨fun count notify => exec_refused rfl hs ?none, fun count notify m => ?load,
    fun gate cf co => ?gate, fun es hes => ?batch⟩
  case none => simp only [route, serveTimerLoad, withTimer_val, Instr.kindCode]
  case load =>
    rw [exec_served rfl hs]
    simp only [route, serveTimerLoad, withTimer_val]
    by_cases hc : 16777215 < count
    · simp only [if_pos hc]
      exact congrArg _ (s.refuse_taken _ _ _)
    · simp only [if_neg hc]
      by_cases hb : s.timers[i].gate = true ∧ s.timers[i].mode = .periodic
      · have hb' : (s.timers[i].gate && decide (s.timers[i].mode = .periodic)) = true := by
          simpa [-Fin.getElem_fin] using hb
        simp only [if_pos hb, hb', if_true]
        exact congrArg _ (s.refuse_taken _ _ _)
      · have hb' : (s.timers[i].gate && decide (s.timers[i].mode = .periodic)) = false := by
          simpa [-Fin.getElem_fin] using hb
        simp only [if_neg hb, hb']
        simp only [State.replyTimer, State.modTimer, getElem_set_same, Bool.false_eq_true, if_false]
        exact congrArg _ (reply_of_taken rfl _ _ _ _)
  case gate =>
    rw [exec_served rfl hs]
    simp only [route, serveTimerGate, withTimer_val]
    simp only [State.replyTimer, State.modTimer, getElem_set_same]
    exact congrArg _ (reply_of_taken rfl _ _ _ _)
  case batch =>
    rw [exec_served (c := .timerBatch h i.val es) rfl hs (recordCheck_timerBatch hes)]
    simp only [route, serveTimerBatch, withTimer_val]
    by_cases hbad : ∃ e ∈ es, timedOpOk e = false ∨ addressOk e = false
    · rw [if_pos hbad]
      have hall : (!es.all timedOpOk) = true ∨ (!es.all addressOk) = true := by
        obtain ⟨e, he, hop | ha⟩ := hbad
        · exact .inl (by simpa using ⟨e, he, hop⟩)
        · exact .inr (by simpa using ⟨e, he, ha⟩)
      obtain ho | ha := hall
      · rw [if_pos ho]
        exact congrArg _ (s.refuse_taken _ _ _)
      · rw [if_pos ha, ite_self]
        exact congrArg _ (s.refuse_taken _ _ _)
    · rw [if_neg hbad]
      push Not at hbad
      have ho : es.all timedOpOk = true := List.all_eq_true.mpr fun e he => by simpa using (hbad e he).1
      have ha : es.all addressOk = true := List.all_eq_true.mpr fun e he => by simpa using (hbad e he).2
      have hrun : State.runState { s with link := s.link.taken s.now h.more } i = s.runState i := rfl
      simp only [ho, ha, hrun, Bool.not_true, Bool.false_eq_true, if_false]
      by_cases hr : s.runState i = .absent
      · simp only [hr, ne_eq, not_true_eq_false, if_false, List.isEmpty_iff]
        exact congrArg _ (reply_of_taken rfl _ _ _ _)
      · simp only [ne_eq, hr, not_false_eq_true, if_true]
        exact congrArg _ (s.refuse_taken _ _ _)

/-! ### Addresses and accesses -/

/-- Clearing the lowest bit of a byte halves it and doubles it again. -/
theorem toNat_and_fe (page : Byte) : (page &&& 0xFE).toNat = page.toNat / 2 * 2 := by
  revert page
  decide

/-- Settles O33: a word channel counts words from an even page. -/
theorem systemAddressesStayInTheirBlock : Obligations.SystemAddressesStayInTheirBlock := by
  intro c page addr
  have haddr := addr.isLt
  refine ⟨fun hc => ?byte, fun hc => ?word⟩
  case byte =>
    have hw : isWord c = false := by simpa [isWord] using hc
    simp only [systemAddress, hw, Bool.false_eq_true, if_false]
    exact ⟨trivial, by omega⟩
  case word =>
    have hw : isWord c = true := by simpa [isWord] using hc
    simp only [systemAddress, hw, if_true, toNat_and_fe]
    exact ⟨trivial, by omega, by omega⟩

/-- The entry found for a port contains it. -/
theorem ruleFor_some {s : State} {port : Nat} {r : PortRule} (h : s.ruleFor port = some r) :
    r ∈ s.rules ∧ r.first.toNat ≤ port ∧ port ≤ r.last.toNat := by
  have hp := List.find?_some h
  rw [Bool.and_eq_true, decide_eq_true_eq, decide_eq_true_eq] at hp
  exact ⟨List.mem_of_find?_eq_some h, hp⟩

theorem ruleFor_none_iff {s : State} {port : Nat} :
    s.ruleFor port = none ↔ ∀ r ∈ s.rules, ¬ (r.first.toNat ≤ port ∧ port ≤ r.last.toNat) := by
  simp only [State.ruleFor, List.find?_eq_none, Bool.and_eq_true, decide_eq_true_eq]

/-- Two entries of a table in which no port is in two are the same where both contain a port (R31). -/
theorem rule_unique {rs : List PortRule} (hrs : rs.Pairwise fun r q => r.meets q = false) {r q : PortRule} (hr : r ∈ rs)
    (hq : q ∈ rs) {port : Nat} (hrp : r.first.toNat ≤ port ∧ port ≤ r.last.toNat)
    (hqp : q.first.toNat ≤ port ∧ port ≤ q.last.toNat) : r = q := by
  have hmeet {a b : PortRule} (ha : a.first.toNat ≤ port ∧ port ≤ a.last.toNat)
      (hb : b.first.toNat ≤ port ∧ port ≤ b.last.toNat) : a.meets b = true := by
    simp only [PortRule.meets, Bool.and_eq_true, decide_eq_true_eq]
    omega
  induction hrs with
  | nil => cases hr
  | @cons x xs hx _ ih =>
    obtain hrx | hrx := List.mem_cons.mp hr <;> obtain hqx | hqx := List.mem_cons.mp hq
    · exact hrx.trans hqx.symm
    · exact absurd ((hx q hqx).symm.trans (hrx ▸ hmeet hrp hqp)) Bool.false_ne_true
    · exact absurd ((hx r hrx).symm.trans (hqx ▸ hmeet hqp hrp)) Bool.false_ne_true
    · exact ih hrx hqx

/-- Settles O24: the plan by parity, the settings as captured, and the governing entry. -/
theorem accessesResolveWhenTheyBegin : Obligations.AccessesResolveWhenTheyBegin := by
  intro s write port addr v
  refine ⟨rfl, rfl, fun hp => ?odd, fun hp => ?even, fun ha => ?memOdd, fun ha => ?memEven, fun wide => ⟨_, rfl⟩,
    fun wide => ⟨_, rfl⟩, fun hrs r => ⟨ruleFor_some, fun ⟨hr, hrp⟩ => ?governs⟩, ruleFor_none_iff, fun a => ?cycles⟩
  case odd =>
    simp only [State.ioAccess, if_true, ioPlan, hp]
    cases hr : (s.ruleFor port).map PortRule.odd with
    | none => rfl
    | some o => cases o <;> rfl
  case even =>
    simp only [State.ioAccess, if_true, ioPlan, hp]
    rfl
  case memOdd => simp [State.memAccess, ha]
  case memEven => simp [State.memAccess, ha]
  case governs =>
    cases hf : s.ruleFor port with
    | none => exact absurd hrp (ruleFor_none_iff.mp hf r hr)
    | some q =>
      obtain ⟨hq, hqp⟩ := ruleFor_some hf
      rw [rule_unique hrs.2 hq hr hqp hrp]
  case cycles =>
    refine ⟨fun h => ?_, fun h hs => ?_, fun h hs => ?_⟩
    · simp [Access.cycleAddr, h]
    · simp only [Access.cycleAddr, h, hs, if_true]
    · simp only [Access.cycleAddr, h, hs, if_true]

/-! ### Records as bytes -/

/-- A 16-bit value is put together again from its two bytes. -/
theorem halfOf_low_high (v : Half) : halfOf (lowByte v) (highByte v) = v := by
  simp only [halfOf, lowByte, highByte]
  ext k hk
  simp only [BitVec.getElem_or, BitVec.truncate_eq_setWidth, BitVec.getElem_setWidth,
    BitVec.getElem_shiftLeft, BitVec.getLsbD_setWidth, BitVec.getLsbD_ushiftRight]
  by_cases h : k < 8
  · simp [h, BitVec.getLsbD_eq_getElem hk]
  · have h8 : k - 8 < 8 := by omega
    have hk8 : 8 + (k - 8) = k := by omega
    simp [h, h8, hk8, BitVec.getLsbD_eq_getElem hk]

/-- A field is put together again from its four bytes. -/
theorem fieldOf_extract (v : BitVec 32) :
    fieldOf (v.extractLsb' 0 8) (v.extractLsb' 8 8) (v.extractLsb' 16 8) (v.extractLsb' 24 8) = v := by
  refine BitVec.eq_of_getLsbD_eq fun k hk => ?_
  simp only [fieldOf, BitVec.getLsbD_append, BitVec.getLsbD_extractLsb']
  have hbit (m j : Nat) (hj : j < 8) (hm : m + j = k) : (decide (j < 8) && v.getLsbD (m + j)) = v.getLsbD k := by
    rw [decide_eq_true hj, Bool.true_and, hm]
  split_ifs <;> exact hbit _ _ (by omega) (by omega)

theorem decodeEntry_encode (e : RawEntry) (rest : List Byte) : decodeEntry (encodeEntry e ++ rest) = some (e, rest) := by
  simp only [encodeEntry, List.cons_append, List.nil_append, decodeEntry, halfOf_low_high, fieldOf_extract]

/-- Settles O52: the bytes of each field put it together again, and the entries follow one another. -/
theorem recordsReadBack : Obligations.RecordsReadBack := by
  refine ⟨fun x rest => ?header, fun es n hn => ⟨?entries, ?length⟩⟩
  case header =>
    simp only [Header.encode, List.cons_append, List.nil_append, Header.decode, halfOf_low_high]
  case entries =>
    induction es generalizing n with
    | nil => cases n <;> rfl
    | cons e es ih =>
      obtain ⟨n, rfl⟩ : ∃ m, n = m + 1 := ⟨n - 1, by simp at hn; omega⟩
      have hd := decodeEntry_encode e (encodeEntries es)
      rw [encodeEntries, List.flatMap_cons, ← encodeEntries]
      rw [encodeEntry, List.cons_append] at hd ⊢
      simp only [decodeEntries, hd, ih n (by simpa using hn), Option.map_some]
  case length =>
    clear hn
    induction es with
    | nil => rfl
    | cons e es ih =>
      rw [encodeEntries, List.flatMap_cons, List.length_append, ← encodeEntries, ih, encodeEntry]
      simp only [List.length_cons, List.length_nil]
      omega

end Sys2Proof.Proofs.RecordRequests
end

section
/-! PROOFS. What ship passes leave alone, wherever they begin or end (R126, R130). -/

open Sys2Proof Sys2Proof.Machine Sys2Proof.Proofs.MapLaws Sys2Proof.Proofs.PassLaws Sys2Proof.Proofs.Trickle

namespace Sys2Proof.Proofs.PassFrame

/-- A channel's context without the passes its notice awaits. -/
def bare (ch : Chan) : Chan := { ch with awaitedRegions := [] }

/-- What a ship pass changes at most: region table, ship queues, store, fill line, the relay's hand, and which passes a channel
awaits; records join the report queue by their reservations. -/
structure Passed (s t : State) : Prop where
  outer : t.outer = s.outer
  lines : t.lines = s.lines
  chans : ∀ c : ChanId, bare t.chans[c] = bare s.chans[c]
  calm : s.Calm t
  placed : s.link.Placed t.link

theorem Passed.refl (s : State) : Passed s s := ⟨rfl, rfl, fun _ => rfl, s.calm_refl, s.link.placed_refl⟩

/-- The later part first. -/
theorem Passed.after {s t u : State} (h' : Passed t u) (h : Passed s t) : Passed s u :=
  ⟨h'.outer.trans h.outer, h'.lines.trans h.lines, fun c => (h'.chans c).trans (h.chans c),
    State.calm_trans h.calm h'.calm, Link.placed_trans h.placed h'.placed⟩

theorem Passed.ite {p : Prop} [Decidable p] {s t u : State} (h : p → Passed s t) (h' : ¬p → Passed s u) :
    Passed s (if p then t else u) := by
  split
  · next hp => exact h hp
  · next hp => exact h' hp

theorem Passed.each {α : Type} (f : α → State → State) (hf : ∀ (x : α) (s : State), Passed s (f x s)) (xs : List α)
    (s : State) : Passed s (s.each xs f) := by
  induction xs generalizing s with
  | nil => exact .refl s
  | cons x xs ih => exact .after (ih (f x s)) (hf x s)

theorem passed_modShip (id : RegionId) (f : ShipQueue → ShipQueue) (s : State) : Passed s (s.modShip id f) :=
  ⟨by simp, rfl, fun _ => rfl, s.calm_modShip id f, s.link.placed_refl⟩

theorem passed_fillLine (ids : List RegionId) (s : State) : Passed s { s with fillLine := ids } :=
  ⟨rfl, rfl, fun _ => rfl, s.calm_fillLine ids, s.link.placed_refl⟩

theorem passed_endPass (id : RegionId) (s : State) : Passed s (s.endPass id) where
  outer := by simp
  lines := lines_endPass id s
  chans c := by
    rw [chans_endPass]
    split <;> rfl
  calm := s.calm_endPass id
  placed := s.placed_endPass id

theorem passed_beginPass (id : RegionId) (s : State) : Passed s (s.beginPass id) :=
  .after (.ite (fun _ => passed_endPass id _) fun _ => passed_fillLine _ _) (passed_modShip id _ s)

theorem passed_trigger (id : RegionId) (s : State) : Passed s (s.trigger id) :=
  .ite (fun _ => passed_beginPass id s) fun _ => .refl s

theorem passed_demand (id : RegionId) (d : Demander) (s : State) : Passed s (s.demand id d) :=
  .after (.ite (fun _ => .refl _) fun _ => passed_beginPass id _) (passed_modShip id _ s)

theorem passed_thresholdCheck (id : RegionId) (s : State) : Passed s (s.thresholdCheck id) :=
  .ite (fun _ => passed_trigger id s) fun _ => .refl s

theorem passed_trickleUpdate (s : State) : Passed s s.trickleUpdate :=
  .each _ (fun id t => .after (.ite (fun _ => passed_trigger id _) fun _ => .refl _) (passed_modShip id _ t)) _ s

/-! ### Causes and masks of a channel -/

/-- A cause joins one channel's notice; what it awaits for it apart, nothing else about the channels changes. -/
theorem chans_addCause (c d : ChanId) (k : Cause) (s : State) :
    bare (s.addCause c k).chans[d] = if d = c then bare (s.chans[c].addCause s.now k) else bare s.chans[d] := by
  have hmod : bare (s.modChan c (·.addCause s.now k)).chans[d] =
      if d = c then bare (s.chans[c].addCause s.now k) else bare s.chans[d] := by
    rw [State.chans_modChan]
    split <;> rfl
  rw [← hmod]
  unfold State.addCause
  dsimp only
  split
  · rfl
  · next id _ =>
    rw [(passed_demand id (.chan c) _).chans d, State.chans_modChan]
    split
    · next hd => rw [hd]; rfl
    · rfl

theorem lines_addCause (c : ChanId) (k : Cause) (s : State) : (s.addCause c k).lines = s.lines := by
  unfold State.addCause
  dsimp only
  split
  · rfl
  · exact (passed_demand _ _ _).lines

/-- The channel as a mask leaves it: the pending mask is gone, and no tag waits (R83, R86). -/
def masked (ch : Chan) (r : MaskReason) : Chan :=
  { ch with state := .masked, maskReason := some r, maskPending := none, maskWaiters := [] }

/-- A mask changes its channel and answers the requests that waited for it. -/
theorem maskChan_eq (c : ChanId) (r : MaskReason) (s : State) : s.maskChan c r = { s with
    chans := s.chans.set c (masked s.chans[c] r)
    link := (s.maskChan c r).link } := by
  unfold State.maskChan State.answerMasks
  rw [each_reply_eq]
  simp only [State.modChan, getElem_set_same, Vector.set_set]
  rfl

theorem chans_maskChan (c d : ChanId) (r : MaskReason) (s : State) :
    (s.maskChan c r).chans[d] = if d = c then masked s.chans[c] r else s.chans[d] := by
  rw [maskChan_eq]
  exact getElem_set_fin _ _ _ _

end Sys2Proof.Proofs.PassFrame
end

section
/-! PROOFS. The arbiter: the claim picked, what each grant makes of the state, what no grant changes, and the refresh timer
(R40 to R51, R95). -/

open Sys2Proof Sys2Proof.Machine Sys2Proof.Proofs.MapLaws Sys2Proof.Proofs.PassLaws Sys2Proof.Proofs.Trickle Sys2Proof.Proofs.PassFrame

namespace Sys2Proof.Proofs.Grants

/-! ### The claim picked (R41, R45) -/

/-- A search through the indexes finds one that no smaller one precedes. -/
theorem find_finRange_some {n : Nat} {p : Fin n → Bool} {i : Fin n} (h : (List.finRange n).find? p = some i) :
    p i = true ∧ ∀ j : Fin n, j < i → p j = false := by
  obtain ⟨hp, xs, ys, heq, hxs⟩ := List.find?_eq_some_iff_append.mp h
  refine ⟨hp, fun j hj => ?_⟩
  have hsorted := List.pairwise_lt_finRange n
  rw [heq, List.pairwise_append] at hsorted
  obtain ⟨-, hys, -⟩ := hsorted
  have hmem : j ∈ xs ++ i :: ys := heq ▸ List.mem_finRange j
  obtain hj' | hj' := List.mem_append.mp hmem
  · simpa using hxs j hj'
  · obtain rfl | hj' := List.mem_cons.mp hj'
    · exact absurd hj (lt_irrefl _)
    · exact absurd (List.rel_of_pairwise_cons hys hj') (not_lt_of_gt hj)

/-- The index that has the property, with no smaller one that has it, is found. -/
theorem find_finRange_eq {n : Nat} {p : Fin n → Bool} {i : Fin n} (hi : p i = true) (hmin : ∀ j : Fin n, j < i → p j = false) :
    (List.finRange n).find? p = some i := by
  cases hf : (List.finRange n).find? p with
  | none => exact absurd hi (by simpa using List.find?_eq_none.mp hf i (List.mem_finRange i))
  | some k =>
    obtain ⟨hk, hkmin⟩ := find_finRange_some hf
    rcases lt_trichotomy i k with hlt | heq | hgt
    · exact absurd ((hkmin i hlt).symm.trans hi) Bool.false_ne_true
    · rw [heq]
    · exact absurd ((hmin k hgt).symm.trans hk) Bool.false_ne_true

theorem servingChan_eq {s : State} {c : ChanId} (hc : s.chans[c].state = .serving)
    (hmin : ∀ d : ChanId, d < c → s.chans[d].state ≠ .serving) : s.servingChan = some c :=
  find_finRange_eq (decide_eq_true hc) fun d hd => decide_eq_false (hmin d hd)

theorem servingChan_none {s : State} (h : ∀ d : ChanId, s.chans[d].state ≠ .serving) : s.servingChan = none :=
  List.find?_eq_none.mpr fun d _ => by simpa [-Fin.getElem_fin] using h d

theorem serving_of_servingChan {s : State} {c : ChanId} (h : s.servingChan = some c) : s.chans[c].state = .serving :=
  of_decide_eq_true (find_finRange_some h).1

/-- With no claim of class 3 to 6, none of them is picked (R45). -/
theorem lowerPick_none {s : State} (ho : s.arb.owed < 4) (h : s.lowerClaim = false) : s.lowerPick = none := by
  simp only [State.lowerClaim, Bool.or_eq_false_iff, Bool.and_eq_false_iff, decide_eq_false_iff_not] at h
  obtain ⟨⟨⟨how, ht⟩, hl⟩, hc⟩ := h
  have hz : ¬ 1 ≤ s.arb.owed := by omega
  have htn : s.timedClaims = none := by simpa using ht
  simp only [State.lowerPick, if_neg hz, htn, hl, hc]
  rfl

/-- What is picked is refresh, a claim of class 3 to 6, or the DMA class's. -/
theorem pick_cases {s : State} {k : Claim} (h : s.pick.1 = some k) :
    k = .refresh ∨ s.lowerPick = some k ∨ ∃ c, k = .dma c ∧ s.servingChan = some c := by
  have hdma (hd : s.dmaPick = some k) : ∃ c, k = .dma c ∧ s.servingChan = some c := by
    rw [State.dmaPick, Option.map_eq_some_iff] at hd
    obtain ⟨c, hc, rfl⟩ := hd
    exact ⟨c, rfl, hc⟩
  unfold State.pick at h
  split at h
  · cases h
    exact .inl rfl
  · split at h
    · split at h
      · next k' hk =>
        cases h
        exact .inr (.inl hk)
      · exact .inr (.inr (hdma h))
    · cases hd : s.dmaPick with
      | none =>
        rw [hd] at h
        exact .inr (.inl h)
      | some k' =>
        rw [hd] at h
        cases h
        exact .inr (.inr (hdma hd))

theorem lowerPick_cases {s : State} {k : Claim} (h : s.lowerPick = some k) :
    k = .refresh ∨ (∃ t, k = .timed t ∧ s.timedClaims = some t) ∨ (k = .link ∧ s.linkClaims = true) ∨ k = .census := by
  unfold State.lowerPick at h
  split at h
  · cases h
    exact .inl rfl
  · split at h
    · next t ht =>
      cases h
      exact .inr (.inl ⟨t, rfl, ht⟩)
    · split at h
      · next hl =>
        cases h
        exact .inr (.inr (.inl ⟨rfl, hl⟩))
      · split at h
        · cases h
          exact .inr (.inr (.inr rfl))
        · cases h

/-- A channel that is picked is SERVING. -/
theorem serving_of_pick {s : State} {c : ChanId} (h : s.pick.1 = some (.dma c)) : s.chans[c].state = .serving := by
  obtain hk | hk | ⟨d, hk, hd⟩ := pick_cases h
  · cases hk
  · obtain hk | ⟨t, hk, -⟩ | ⟨hk, -⟩ | hk := lowerPick_cases hk <;> cases hk
  · cases hk
    exact serving_of_servingChan hd

/-- The link lane is picked only where its head batch claims. -/
theorem linkClaims_of_pick {s : State} (h : s.pick.1 = some .link) : s.linkClaims = true := by
  obtain hk | hk | ⟨d, hk, -⟩ := pick_cases h
  · cases hk
  · obtain hk | ⟨t, hk, -⟩ | ⟨-, hl⟩ | hk := lowerPick_cases hk
    · cases hk
    · cases hk
    · exact hl
    · cases hk
  · cases hk

/-- The timed lane is picked only where its head run claims. -/
theorem timedClaims_of_pick {s : State} {i : TimerId} (h : s.pick.1 = some (.timed i)) : s.timedClaims = some i := by
  obtain hk | hk | ⟨d, hk, -⟩ := pick_cases h
  · cases hk
  · obtain hk | ⟨t, hk, ht⟩ | ⟨hk, -⟩ | hk := lowerPick_cases hk
    · cases hk
    · cases hk
      exact ht
    · cases hk
    · cases hk
  · cases hk

/-! ### What each grant makes of the state -/

/-- The state once a claim has been picked: the bus free, yield as R45 leaves it. -/
def picked (s : State) : State := { s with arb := { s.arb with owner := .none, yield := s.pick.2 } }

theorem grant_none {s : State} (n : Nat) (h : s.pick.1 = none) : s.grant (n + 1) = picked s := by
  simp only [State.grant, h]
  rfl

theorem grant_refresh {s : State} (n : Nat) (h : s.pick.1 = some .refresh) :
    s.grant (n + 1) = (picked s).grantRefresh := by
  simp only [State.grant, h]
  rfl

theorem grant_timed {s : State} (n : Nat) {i : TimerId} (h : s.pick.1 = some (.timed i)) :
    s.grant (n + 1) = (picked s).grantTimed i := by
  simp only [State.grant, h]
  rfl

theorem grant_link {s : State} (n : Nat) (h : s.pick.1 = some .link) : s.grant (n + 1) = (picked s).grantLink := by
  simp only [State.grant, h]
  rfl

theorem grant_census {s : State} (n : Nat) (h : s.pick.1 = some .census) : s.grant (n + 1) = (picked s).grantCensus := by
  simp only [State.grant, h]
  rfl

theorem grant_master {s : State} (n : Nat) {c : ChanId} (h : s.pick.1 = some (.dma c))
    (hc : s.chans[c].service = .cascade) : s.grant (n + 1) = (picked s).grantMaster c := by
  simp only [State.grant, h]
  exact if_pos hc

/-- A tenure of a channel that transfers, begun from the state picked. -/
def tenure (c : ChanId) (s : State) : State := (picked s).beginTenure c

theorem grant_transfer {s : State} (n : Nat) {c : ChanId} (h : s.pick.1 = some (.dma c))
    (hc : s.chans[c].service ≠ .cascade) :
    s.grant (n + 1) = if ((tenure c s).startTransfer c).2 then ((tenure c s).startTransfer c).1
      else State.grant n ((tenure c s).startTransfer c).1 := by
  simp only [State.grant, h]
  exact if_neg hc

/-- A tenure begun: the channel owns the bus with a fresh count and cap, and its BLOCK run is open (R44, R80). -/
theorem tenure_eq (c : ChanId) (s : State) : tenure c s = { s with
    arb := { s.arb with owner := .dma c false, yield := s.pick.2, burstCount := 0, burstCap := s.bus.burst }
    chans := s.chans.set c { s.chans[c] with
      blockOpen := if s.chans[c].service = .block then true else s.chans[c].blockOpen } } := rfl

theorem chans_tenure (c d : ChanId) (s : State) : (tenure c s).chans[d] = if d = c then { s.chans[c] with
    blockOpen := if s.chans[c].service = .block then true else s.chans[c].blockOpen } else s.chans[d] := by
  rw [tenure_eq]
  exact getElem_set_fin _ _ _ _

theorem presentAddress_tenure (c : ChanId) (s : State) :
    ((tenure c s).chans[c]).presentAddress c = s.chans[c].presentAddress c := by
  rw [chans_tenure, if_pos rfl]
  rfl

theorem kind_tenure (c : ChanId) (s : State) : (tenure c s).chans[c].kind = s.chans[c].kind := by
  rw [chans_tenure, if_pos rfl]

/-- A transfer whose address finds a target starts (R92). -/
theorem startTransfer_target {c : ChanId} {s : State} {tg : Target}
    (h : s.lookup c s.chans[c].kind (s.chans[c].presentAddress c) = .target tg) :
    s.startTransfer c = ({ s with inFlight := .transfer (s.newTransfer c tg) }, true) := by
  simp only [State.startTransfer, h]

/-- A transfer whose address faults does not (R95). -/
theorem startTransfer_fault {c : ChanId} {s : State} {d : FaultDetail}
    (h : s.lookup c s.chans[c].kind (s.chans[c].presentAddress c) = .fault d) :
    s.startTransfer c = ((s.addCause c (.fault d (s.chans[c].presentAddress c))).maskChan c .fault, false) := by
  simp only [State.startTransfer, h]

/-- The transfer that starts captures the settings in force (R20, R92). -/
theorem newTransfer_eq (s : State) (c : ChanId) (tg : Target) :
    s.newTransfer c tg = s.starting c s.chans[c] (s.chans[c].presentAddress c) tg s.store := by
  simp only [State.newTransfer, State.starting, State.storeValue, isWord, decide_eq_true_eq]
  rfl

theorem request_tenure (c d : ChanId) (s : State) : (tenure c s).chans[d].request = s.chans[d].request := by
  rw [chans_tenure]
  split
  · next h => rw [h]
  · rfl

/-- The lookup reads the region table alone. -/
theorem lookup_tenure (c : ChanId) (s : State) (k : ChanKind) (a : Nat) :
    (tenure c s).lookup c k a = s.lookup c k a := rfl

/-! ### The set of written regions -/

/-- No pass writes a region into the set: with none in it none is in it afterwards. -/
theorem written_endPass (id : RegionId) {s : State} (h : s.written = []) : (s.endPass id).written = [] := by
  have hremove (t : State) (ht : t.written = []) : (t.removeRegion id).written = [] := by
    rw [removeRegion_eq]
    show setRemove id t.written = []
    rw [ht]
    rfl
  rw [endPass_eq_told]
  split
  · unfold State.mapPassEnded
    dsimp only
    split
    · refine hremove _ ?_
      rw [each_replyNow_eq, toldBlocks_eq]
      exact h
    · rw [each_replyNow_eq, toldBlocks_eq]
      exact h
  · rw [toldBlocks_eq]
    exact h

theorem written_beginPass (id : RegionId) {s : State} (h : s.written = []) : (s.beginPass id).written = [] := by
  unfold State.beginPass
  dsimp only
  split
  · exact written_endPass id (s := s.modShip id _) h
  · exact h

theorem written_trigger (id : RegionId) {s : State} (h : s.written = []) : (s.trigger id).written = [] := by
  unfold State.trigger
  split
  · exact written_beginPass id h
  · exact h

theorem written_addCause (c : ChanId) (k : Cause) {s : State} (h : s.written = []) : (s.addCause c k).written = [] := by
  unfold State.addCause State.demand
  dsimp only
  split
  · exact h
  · split
    · exact h
    · exact written_beginPass _ (s := State.modShip _ _ _) h

/-- A fault's outcome: the mask and the cause of the channel, ship passes, and replies. -/
structure FaultedStart (c : ChanId) (d : FaultDetail) (a : Nat) (s t : State) : Prop where
  outer : t.outer = s.outer
  lines : t.lines = s.lines
  chan : bare t.chans[c] = bare (masked (s.chans[c].addCause s.now (.fault d a)) .fault)
  others : ∀ e : ChanId, e ≠ c → bare t.chans[e] = bare s.chans[e]
  calm : s.Calm t
  placed : s.link.Placed t.link
  written : s.written = [] → t.written = []

theorem FaultedStart.request {c : ChanId} {d : FaultDetail} {a : Nat} {s t : State} (h : FaultedStart c d a s t) :
    t.chans[c].request = s.chans[c].request := by
  have hb : (bare t.chans[c]).request = (bare (masked (s.chans[c].addCause s.now (.fault d a)) .fault)).request :=
    congrArg Chan.request h.chan
  exact hb

/-- A faulted start masks its channel with the cause joined (R86, R87, R95). -/
theorem faultedStart (c : ChanId) (d : FaultDetail) (a : Nat) (s : State) :
    FaultedStart c d a s ((s.addCause c (.fault d a)).maskChan c .fault) where
  outer := by simp
  lines := by rw [maskChan_eq]; exact lines_addCause _ _ _
  chan := by
    rw [chans_maskChan, if_pos rfl]
    have h := chans_addCause c c (.fault d a) s
    rw [if_pos rfl] at h
    have hm (x y : Chan) (hxy : bare x = bare y) : bare (masked x .fault) = bare (masked y .fault) := by
      have hx (z : Chan) : bare (masked z .fault) = masked (bare z) .fault := rfl
      rw [hx, hx, hxy]
    exact hm _ _ h
  others e he := by
    rw [chans_maskChan, if_neg he, chans_addCause, if_neg he]
  calm := State.calm_trans (s.calm_addCause c _) (State.calm_maskChan c .fault _)
  placed := Link.placed_trans (s.placed_addCause c _) (State.placed_maskChan c .fault _)
  written h := by rw [maskChan_eq]; exact written_addCause c _ h

/-! ### What no grant changes -/

/-- The arbiter with another owner: of its other fields the tenure's count and cap, yield and the master grant's marks change. -/
def sameRefresh (a b : Arbiter) : Prop :=
  b = { a with owner := b.owner, burstCount := b.burstCount, burstCap := b.burstCap, yield := b.yield
               overstaySent := b.overstaySent, grantTime := b.grantTime }

/-- The head of a lane begins its cycle, or the lane stays. -/
def HeadGranted {α : Type} (claims : α → Prop) (begun : α → α) (xs ys : List α) : Prop :=
  ys = xs ∨ ∃ x rest, xs = x :: rest ∧ claims x ∧ ys = begun x :: rest

/-- What a grant, of whatever claim, leaves of a state. -/
structure Granted (s t : State) : Prop where
  calm : s.Calm t
  placed : s.link.Placed t.link
  lines : t.lines = s.lines
  arb : sameRefresh s.arb t.arb
  queue : HeadGranted (fun b : Batch => b.step = .claiming ∧ b.discard = false) (fun b => { b with step := .cycle }) s.queue t.queue
  lane : HeadGranted (fun r : Run => r.step = .claiming ∧ r.discard = false) (fun r => { r with step := .cycle }) s.lane t.lane
  cancelled : t.cancelled = s.cancelled
  clocks : t.lastClocks = s.lastClocks
  orphan : t.orphan = s.orphan
  waiting : ∀ c : ChanId, s.chans[c].state ≠ .serving → bare t.chans[c] = bare s.chans[c] ∧ t.arb.owner.isChan c = false
  request : ∀ c : ChanId, t.chans[c].request = s.chans[c].request
  written : s.written = [] → t.written = []

/-- A state that differs from another in the arbiter's owner and yield alone. -/
theorem granted_picked (s : State) : Granted s (picked s) :=
  ⟨s.calm_modArb fun a => { a with owner := .none, yield := s.pick.2 }, s.link.placed_refl, rfl, rfl, .inl rfl, .inl rfl, rfl, rfl, rfl, fun _ _ => ⟨rfl, rfl⟩, fun _ => rfl, id⟩

/-- A claim's grant that changes no channel. -/
theorem granted_own {s t : State} (hc : t.chans = s.chans) (hcalm : s.Calm t) (hp : t.link = s.link) (hl : t.lines = s.lines)
    (ha : sameRefresh s.arb t.arb) (ho : ∀ c : ChanId, s.chans[c].state ≠ .serving → t.arb.owner.isChan c = false)
    (hq : HeadGranted (fun b : Batch => b.step = .claiming ∧ b.discard = false) (fun b => { b with step := .cycle }) s.queue t.queue)
    (hlane : HeadGranted (fun r : Run => r.step = .claiming ∧ r.discard = false) (fun r => { r with step := .cycle }) s.lane t.lane)
    (hcan : t.cancelled = s.cancelled) (hclk : t.lastClocks = s.lastClocks) (hor : t.orphan = s.orphan)
    (hw : s.written = [] → t.written = []) : Granted s t where
  calm := hcalm
  placed := by rw [hp]; exact s.link.placed_refl
  lines := hl
  arb := ha
  queue := hq
  lane := hlane
  cancelled := hcan
  clocks := hclk
  orphan := hor
  waiting c h := ⟨by rw [hc], ho c h⟩
  request c := by rw [hc]
  written := hw

theorem granted_grantTimed {s : State} {i : TimerId} (h : s.timedClaims = some i) :
    Granted s ((picked s).grantTimed i) := by
  unfold State.timedClaims at h
  unfold State.grantTimed
  cases hl : s.lane with
  | nil => simp [hl] at h
  | cons r rest =>
    rw [hl] at h
    have hclaims : r.step = .claiming ∧ r.discard = false := by
      by_contra hno
      have hno' : (decide (r.step = .claiming) && !r.discard) = false := by simpa using hno
      simp [hno'] at h
    have hlane : (picked s).lane = r :: rest := hl
    rw [hlane]
    dsimp only
    split
    · exact granted_own rfl (State.calm_of_eq rfl rfl ⟨[], (List.append_nil _).symm⟩ rfl rfl rfl) rfl rfl rfl
        (fun _ _ => rfl) (.inl rfl) (.inr ⟨r, rest, hl, hclaims, rfl⟩) rfl rfl rfl id
    · exact granted_picked s

theorem granted_grantLink {s : State} (h : s.linkClaims = true) : Granted s (picked s).grantLink := by
  unfold State.linkClaims at h
  unfold State.grantLink
  cases hq : s.queue with
  | nil => simp [hq] at h
  | cons b rest =>
    rw [hq] at h
    have hclaims : b.step = .claiming ∧ b.discard = false := by simpa using h
    have hqueue : (picked s).queue = b :: rest := hq
    rw [hqueue]
    dsimp only
    split
    · exact granted_own rfl (State.calm_of_eq rfl rfl ⟨[], (List.append_nil _).symm⟩ rfl rfl rfl) rfl rfl rfl
        (fun _ _ => rfl) (.inr ⟨b, rest, hq, hclaims, rfl⟩) (.inl rfl) rfl rfl rfl id
    · exact granted_picked s

/-- The next grant after a channel's faulted start (R95). -/
theorem granted_faulted {c : ChanId} {d : FaultDetail} {a : Nat} {s u t : State} (hs : s.chans[c].state = .serving)
    (hf : FaultedStart c d a (tenure c s) u) (hcalm : s.Calm t) (hg : Granted u t) : Granted s t := by
  have hne {e : ChanId} (he : s.chans[e].state ≠ .serving) : e ≠ c := fun h => he (h ▸ hs)
  have harb := State.arb_of_outer hf.outer
  have hqueue : u.queue = s.queue := (State.queue_of_outer hf.outer :)
  have hlane : u.lane = s.lane := (congrArg (fun o => o.1.2.2.2.2.2.2.2.2.1) hf.outer :)
  have hcan : u.cancelled = s.cancelled := (congrArg (fun o => o.1.2.2.2.2.2.2.2.1) hf.outer :)
  have horphan : u.orphan = s.orphan := (congrArg (fun o => o.2.2.1) hf.outer :)
  have hclocks : u.lastClocks = s.lastClocks := (congrArg (fun o => o.2.2.2.1) hf.outer :)
  refine ⟨hcalm, Link.placed_trans hf.placed hg.placed, hg.lines.trans hf.lines, ?_, hqueue ▸ hg.queue, hlane ▸ hg.lane,
    hg.cancelled.trans hcan, hg.clocks.trans hclocks, hg.orphan.trans horphan, fun e he => ?_,
    fun e => (hg.request e).trans ?_, fun h => hg.written (hf.written h)⟩
  · have := hg.arb
    rw [harb] at this
    exact this
  · have hue : bare u.chans[e] = bare s.chans[e] := by rw [hf.others e (hne he), chans_tenure, if_neg (hne he)]
    have hstate : u.chans[e].state ≠ .serving := by
      rw [show u.chans[e].state = s.chans[e].state from (congrArg Chan.state hue :)]
      exact he
    exact ⟨(hg.waiting e hstate).1.trans hue, (hg.waiting e hstate).2⟩
  · by_cases he : e = c
    · subst he
      exact hf.request.trans (request_tenure e e s)
    · exact (congrArg Chan.request (hf.others e he) :).trans (request_tenure c e s)

/-- A grant changes no channel that is not SERVING, and what it changes otherwise is the bus's own: each claim's grant by itself, and
after a fault the next one (R95). -/
theorem granted_grant (n : Nat) (s : State) : Granted s (s.grant n) := by
  induction n generalizing s with
  | zero =>
    exact granted_own rfl (s.calm_grant 0) rfl rfl rfl (fun _ _ => rfl) (.inl rfl) (.inl rfl) rfl rfl rfl id
  | succ n ih =>
    cases hp : s.pick.1 with
    | none => rw [grant_none n hp]; exact granted_picked s
    | some k =>
      cases k with
      | refresh =>
        have hcalm := s.calm_grant (n + 1)
        rw [grant_refresh n hp] at hcalm ⊢
        exact granted_own rfl hcalm rfl rfl rfl (fun _ _ => rfl) (.inl rfl) (.inl rfl) rfl rfl rfl id
      | timed i => rw [grant_timed n hp]; exact granted_grantTimed (timedClaims_of_pick hp)
      | link => rw [grant_link n hp]; exact granted_grantLink (linkClaims_of_pick hp)
      | census =>
        have hcalm := s.calm_grant (n + 1)
        rw [grant_census n hp] at hcalm ⊢
        exact granted_own rfl hcalm rfl rfl rfl (fun _ _ => rfl) (.inl rfl) (.inl rfl) rfl rfl rfl id
      | dma c =>
        have hserving := serving_of_pick hp
        have hnot (d : ChanId) (hd : s.chans[d].state ≠ .serving) : c ≠ d := fun h => hd (h ▸ hserving)
        have hcalm := s.calm_grant (n + 1)
        by_cases hc : s.chans[c].service = .cascade
        · rw [grant_master n hp hc] at hcalm ⊢
          exact granted_own rfl hcalm rfl rfl rfl (fun d hd => decide_eq_false (hnot d hd)) (.inl rfl) (.inl rfl) rfl rfl rfl fun _ => rfl
        · rw [grant_transfer n hp hc] at hcalm ⊢
          cases hl : (tenure c s).lookup c (tenure c s).chans[c].kind ((tenure c s).chans[c].presentAddress c) with
          | target tg =>
            rw [startTransfer_target hl] at hcalm ⊢
            refine ⟨hcalm, s.link.placed_refl, rfl, rfl, .inl rfl, .inl rfl, rfl, rfl, rfl, fun d hd => ⟨?_, ?_⟩, fun d => ?_, id⟩
            · exact congrArg bare ((chans_tenure c d s).trans (if_neg (hnot d hd).symm))
            · exact decide_eq_false (hnot d hd)
            · exact request_tenure c d s
          | fault d =>
            rw [startTransfer_fault hl] at hcalm ⊢
            simp only [Bool.false_eq_true, if_false] at hcalm ⊢
            have hf := faultedStart c d ((tenure c s).chans[c].presentAddress c) (tenure c s)
            revert hf hcalm
            generalize ((tenure c s).addCause c (.fault d ((tenure c s).chans[c].presentAddress c))).maskChan c .fault = u
            intro hcalm hf
            exact granted_faulted hserving hf hcalm (ih u)

theorem granted_grantPoint (s : State) : Granted s s.grantPoint := granted_grant 8 s

end Sys2Proof.Proofs.Grants
end

section
/-! PROOFS. The order of grants and what each makes of the state (R40 to R47, R95), and the refresh timer (R49 to R52). -/

open Sys2Proof Sys2Proof.Machine Sys2Proof.Proofs.Trickle Sys2Proof.Proofs.PassFrame Sys2Proof.Proofs.Grants

namespace Sys2Proof.Proofs.Refresh

/-! ### The order (R41, R45) -/

theorem pick_urgent {s : State} (h : s.arb.owed = 4) : s.pick = (some .refresh, s.arb.yield) := by
  rw [State.pick, if_pos (by omega)]

theorem pick_channels_first {s : State} (ho : s.arb.owed < 4) (hy : s.arb.yield = false) :
    s.pick = (s.dmaPick.orElse fun _ => s.lowerPick, false) := by
  rw [State.pick, if_neg (by omega), hy, if_neg Bool.false_ne_true]

theorem pick_lower_first {s : State} (ho : s.arb.owed < 4) (hy : s.arb.yield = true) :
    s.pick = (s.lowerPick.orElse fun _ => s.dmaPick, false) := by
  rw [State.pick, if_neg (by omega), if_pos hy]
  cases s.lowerPick <;> rfl

/-- With a claim of class 3 to 6 present, the first one is picked; the census is the last. -/
theorem lowerPick_of_claim {s : State} (ho : s.arb.owed < 4) (h : s.lowerClaim = true) :
    ∃ k, s.lowerPick = some k ∧ (1 ≤ s.arb.owed → k = .refresh) ∧
      (s.arb.owed = 0 → (∀ t, s.timedClaims = some t → k = .timed t) ∧
        (s.timedClaims = none → (s.linkClaims = true → k = .link) ∧ (s.linkClaims = false → k = .census))) := by
  unfold State.lowerPick
  by_cases how : 1 ≤ s.arb.owed
  · exact ⟨_, if_pos how, fun _ => rfl, fun h0 => by omega⟩
  · rw [if_neg how]
    cases ht : s.timedClaims with
    | some t => exact ⟨_, rfl, fun h1 => absurd h1 how, fun _ => ⟨fun t' h' => (by cases h'; rfl), fun h' => (nomatch h')⟩⟩
    | none =>
      cases hl : s.linkClaims with
      | true => exact ⟨_, rfl, fun h1 => absurd h1 how, fun _ => ⟨fun t' h' => (nomatch h'), fun _ => ⟨fun _ => rfl, fun h' => (nomatch h')⟩⟩⟩
      | false =>
        have hc : s.censusClaims = true := by simpa [State.lowerClaim, how, ht, hl] using h
        rw [if_neg Bool.false_ne_true, if_pos hc]
        exact ⟨_, rfl, fun h1 => absurd h1 how, fun _ => ⟨fun t' h' => (nomatch h'), fun _ => ⟨fun h' => (nomatch h'), fun _ => rfl⟩⟩⟩

/-! ### A fault on the first transfer of a tenure (R95) -/

/-- A channel whose context is the one a fault leaves. -/
theorem faulted_of_bare {t ch : Chan} {now : Time} {d : FaultDetail} {a : Nat}
    (h : bare t = bare (masked (ch.addCause now (.fault d a)) .fault)) : t.Faulted now ch d a := by
  have hb : (bare t).Faulted now ch d a := by
    rw [h]
    refine ⟨rfl, rfl, rfl, rfl, rfl, rfl, rfl, ?_⟩
    have hnone : ch.causes.none = true ↔ ch.causes.terminal = false ∧ ch.causes.matched = false ∧ ch.causes.fault = false := by
      simp [Causes.none, and_assoc]
    simp only [← hnone]
    rfl
  exact hb

/-- A channel picked whose first transfer faults is masked, and the next claim is granted; the bus is not the channel's. -/
theorem grantPoint_fault {s : State} {c : ChanId} {d : FaultDetail} (hp : s.pick.1 = some (.dma c))
    (hc : s.chans[c].service ≠ .cascade)
    (hl : s.lookup c s.chans[c].kind (s.chans[c].presentAddress c) = .fault d) :
    s.grantPoint.chans[c].Faulted s.now s.chans[c] d (s.chans[c].presentAddress c) ∧
      s.grantPoint.arb.owner.isChan c = false := by
  have hl' : (tenure c s).lookup c (tenure c s).chans[c].kind ((tenure c s).chans[c].presentAddress c) = .fault d := by
    rw [presentAddress_tenure, kind_tenure, lookup_tenure]
    exact hl
  have hgrant : s.grantPoint = State.grant 7 (((tenure c s).addCause c (.fault d ((tenure c s).chans[c].presentAddress c))).maskChan c .fault) := by
    rw [State.grantPoint, grant_transfer 7 hp hc, startTransfer_fault hl', if_neg Bool.false_ne_true]
  have hf := faultedStart c d ((tenure c s).chans[c].presentAddress c) (tenure c s)
  rw [hgrant]
  revert hf
  generalize ((tenure c s).addCause c (.fault d ((tenure c s).chans[c].presentAddress c))).maskChan c .fault = u
  intro hf
  have hstate : u.chans[c].state ≠ .serving := by
    have h : u.chans[c].state = .masked := (congrArg Chan.state hf.chan :)
    rw [h]
    decide
  obtain ⟨hbare, howner⟩ := (granted_grant 7 u).waiting c hstate
  refine ⟨?_, howner⟩
  have hfaulted := faulted_of_bare (hbare.trans hf.chan)
  rw [presentAddress_tenure, chans_tenure, if_pos rfl] at hfaulted
  exact hfaulted

/-- A channel picked whose first transfer finds a target owns the bus with it (R44, R92). -/
theorem grantPoint_target {s : State} {c : ChanId} {tg : Target} (hp : s.pick.1 = some (.dma c))
    (hc : s.chans[c].service ≠ .cascade)
    (hl : s.lookup c s.chans[c].kind (s.chans[c].presentAddress c) = .target tg) :
    s.grantPoint = { s with
      arb := { s.arb with owner := .dma c false, yield := s.pick.2, burstCount := 0, burstCap := s.bus.burst }
      chans := s.chans.set c { s.chans[c] with
        blockOpen := if s.chans[c].service = .block then true else s.chans[c].blockOpen }
      inFlight := .transfer (s.starting c s.chans[c] (s.chans[c].presentAddress c) tg s.store) } := by
  have hl' : (tenure c s).lookup c (tenure c s).chans[c].kind ((tenure c s).chans[c].presentAddress c) = .target tg := by
    rw [presentAddress_tenure, kind_tenure, lookup_tenure]
    exact hl
  have hnew : (tenure c s).newTransfer c tg = s.starting c s.chans[c] (s.chans[c].presentAddress c) tg s.store := by
    rw [newTransfer_eq, presentAddress_tenure, chans_tenure, if_pos rfl]
    rfl
  rw [State.grantPoint, grant_transfer 7 hp hc, startTransfer_target hl', if_pos rfl, hnew, tenure_eq]

/-- On an idle bus a claim is granted at once (R40). -/
theorem arbitrate_granted {s : State} (ho : s.arb.owner = .none) (hc : s.anyClaim = true) : s.arbitrate = s.grantPoint := by
  simp [State.arbitrate, ho, hc]

/-! ### The refresh timer (R49 to R52) -/

theorem exec_refreshExpiry {s : State} {d : RefreshDeadline} (hd : s.arb.refreshAt = some d) (hr : d.reached s.now = true) :
    exec .refreshExpiry s =
      .next (s.modArb fun a => { a with refreshAt := some (d.moveOn s.bus.period) }.expire s.now).arbitrate := by
  simp only [exec, execRefreshExpiry, hd, hr, if_true]

/-- Below 4 owed rises, and the rise to 4 may find a master that overstays. -/
theorem expire_below {a : Arbiter} (now : Time) (h : a.owed < 4) : a.expire now =
    if a.owed = 3 then { a with owed := 4 }.overstay now else { a with owed := a.owed + 1 } := by
  rw [Arbiter.expire, if_pos h]
  by_cases h3 : a.owed = 3
  · simp [h3]
  · rw [if_neg h3]
    exact if_neg fun h4 => h3 (by simpa using h4)

/-- No master, or one already told of, does not overstay. -/
theorem overstay_of_not {a : Arbiter} (now : Time) (h : a.owner.isMaster = false ∨ a.overstaySent = true) :
    a.overstay now = a := by
  unfold Arbiter.overstay
  split
  · next c ho =>
    obtain hm | hs := h
    · rw [ho] at hm
      cases hm
    · rw [if_pos hs]
  · rfl

theorem owner_overstay (a : Arbiter) (now : Time) : (a.overstay now).owner = a.owner := by
  unfold Arbiter.overstay
  split
  · cases hs : a.overstaySent <;> rfl
  · rfl

theorem owner_expire (a : Arbiter) (now : Time) : (a.expire now).owner = a.owner := by
  by_cases how : a.owed < 4
  · rw [expire_below now how]
    by_cases h3 : a.owed = 3
    · rw [if_pos h3, owner_overstay]
    · rw [if_neg h3]
  · rw [Arbiter.expire, if_neg how]
    rfl

/-- owed rises and nothing is told, but on the rise to 4 in the tenure of a master not yet told of. -/
theorem expire_rises {a : Arbiter} (now : Time) (h : a.owed < 4)
    (hn : a.owed < 3 ∨ a.owner.isMaster = false ∨ a.overstaySent = true) :
    a.expire now = { a with owed := a.owed + 1 } := by
  rw [expire_below now h]
  by_cases h3 : a.owed = 3
  · rw [if_pos h3, overstay_of_not (a := { a with owed := 4 }) now (hn.resolve_left (by omega)), h3]
  · rw [if_neg h3]

/-- An expiry with the bus owned brings no grant. -/
theorem exec_refreshExpiry_owned {s : State} {d : RefreshDeadline} (hd : s.arb.refreshAt = some d)
    (hr : d.reached s.now = true) (ho : s.arb.owner ≠ .none) :
    exec .refreshExpiry s = .next { s with
      arb := { s.arb with refreshAt := some (d.moveOn s.bus.period) }.expire s.now } := by
  rw [exec_refreshExpiry hd hr]
  refine congrArg _ (State.arbitrate_owned _ ?_)
  exact (owner_expire _ _).trans_ne ho

/-- The end of a refresh cycle pays one refresh back and grants the bus (R51). -/
theorem exec_refreshCycleEnd {s : State} {r : RefreshCycle} (hf : s.inFlight = .refresh r) (ho : s.orphan = false) :
    exec .refreshCycleEnd s = .next (State.grantPoint { s with
      inFlight := .none, lastClocks := r.waits + 3
      arb := { s.arb with
        row := (s.arb.row + 1) % 256, owed := s.arb.owed - 1
        shortfall := if s.arb.owed - 1 < 4 then false else s.arb.shortfall } }) := by
  simp only [exec, execRefreshCycleEnd, hf, ho, State.cycleDone, Bool.false_eq_true, if_false]
  rfl

/-- Settles O26: the order by the yield flag, then each kind of claim's grant. -/
theorem grantsFollowTheOrder : Obligations.GrantsFollowTheOrder := by
  refine ⟨fun s => ⟨pick_urgent, fun ho hy => ⟨fun c hc hmin => ?first, fun hnone => ?lower⟩, fun ho hy hl => ?yielded,
    fun ho hy hl => ⟨fun c hc hmin => ?yieldedAlone, fun hnone => ?yieldedNone⟩⟩,
    fun s => ⟨fun hp => grant_none 7 hp, fun hp => grant_refresh 7 hp, fun i r rest en op hp hl he => ?timed,
      fun b rest en op hp hq he => ?link, fun hp => grant_census 7 hp, fun c hp hc => grant_master 7 hp hc,
      fun c hp hc => ⟨fun tg hl => grantPoint_target hp hc hl, fun d hl => ?fault⟩⟩,
    fun s r hf ho => exec_refreshCycleEnd hf ho, fun s d ho hd hr how => ?expiry⟩
  case first =>
    rw [pick_channels_first ho hy, State.dmaPick, servingChan_eq hc hmin]
    rfl
  case lower =>
    rw [pick_channels_first ho hy, State.dmaPick, servingChan_none hnone]
    rfl
  case yielded =>
    obtain ⟨k, hk, h1, h0⟩ := lowerPick_of_claim ho hl
    rw [pick_lower_first ho hy, hk]
    refine ⟨rfl, ?_⟩
    by_cases how : 1 ≤ s.arb.owed
    · rw [if_pos how, h1 how]
      rfl
    · rw [if_neg how]
      obtain ⟨ht, hl'⟩ := h0 (by omega)
      cases htc : s.timedClaims with
      | some t =>
        rw [ht t htc]
        rfl
      | none =>
        obtain ⟨hlink, hcensus⟩ := hl' htc
        cases hlc : s.linkClaims with
        | true =>
          rw [hlink hlc]
          rfl
        | false =>
          rw [hcensus hlc]
          rfl
  case yieldedAlone =>
    rw [pick_lower_first ho hy, lowerPick_none ho hl, State.dmaPick, servingChan_eq hc hmin]
    rfl
  case yieldedNone =>
    rw [pick_lower_first ho hy, lowerPick_none ho hl, State.dmaPick, servingChan_none hnone]
    rfl
  case timed =>
    have hl' : (picked s).lane = r :: rest := hl
    have he' : (picked s).runEntry r = some (en, op) := he
    rw [State.grantPoint, grant_timed 7 hp, State.grantTimed, hl']
    simp only [he']
    rfl
  case link =>
    have hq' : (picked s).queue = b :: rest := hq
    rw [State.grantPoint, grant_link 7 hp, State.grantLink, hq']
    simp only [he]
    rfl
  case fault =>
    obtain ⟨hf, ho⟩ := grantPoint_fault hp hc hl
    exact ⟨hf, s.calm_grantPoint.2.1 c, ho⟩
  case expiry =>
    rw [exec_refreshExpiry hd hr]
    have hnomaster : s.arb.owner.isMaster = false := by rw [ho]; rfl
    have hexp : (Arbiter.expire { s.arb with refreshAt := some (d.moveOn s.bus.period) } s.now) =
        { s.arb with refreshAt := some (d.moveOn s.bus.period), owed := s.arb.owed + 1 } :=
      expire_rises _ how (.inr (.inl hnomaster))
    simp only [State.modArb, hexp]
    rw [arbitrate_granted (by exact ho) (by simp [State.anyClaim])]
    rfl

/-- Settles O27: the expiry by the owed count before it, the cycle's end by the frame of the grant after it. -/
theorem refreshIsOwedAndPaidBack : Obligations.RefreshIsOwedAndPaidBack := by
  refine ⟨fun s d hd => ⟨fun hr => ?early, fun hr ho => ⟨fun hlt hno => ?rises, fun c h3 hm hs hh => ?overstays,
    fun c n h3 hm hs hh => ?renewed, fun h4 => ?missed⟩⟩, fun s r hf ho => ?cycle⟩
  case early => simp only [exec, execRefreshExpiry, hd, hr, Bool.false_eq_true, if_false]
  case rises =>
    rw [exec_refreshExpiry_owned hd hr ho,
      expire_rises (a := { s.arb with refreshAt := some (d.moveOn s.bus.period) }) _ hlt hno]
    rfl
  case overstays =>
    rw [exec_refreshExpiry_owned hd hr ho, expire_below (a := { s.arb with refreshAt := some (d.moveOn s.bus.period) }) _ (by simp [h3]), if_pos (by exact h3)]
    simp only [Arbiter.overstay, hm, hs, hh, Bool.false_eq_true, if_false]
    rfl
  case renewed =>
    rw [exec_refreshExpiry_owned hd hr ho, expire_below (a := { s.arb with refreshAt := some (d.moveOn s.bus.period) }) _ (by simp [h3]), if_pos (by exact h3)]
    simp only [Arbiter.overstay, hm, hs, hh, Bool.false_eq_true, if_false]
    rfl
  case missed =>
    rw [exec_refreshExpiry_owned hd hr ho, Arbiter.expire, if_neg (by simp [h4])]
    simp only [Arbiter.miss, Bool.not_eq_true']
    cases s.arb.heldRefresh <;> cases s.arb.shortfall <;> rfl
  case cycle =>
    have hg := granted_grantPoint { s with
      inFlight := .none, lastClocks := r.waits + 3
      arb := { s.arb with
        row := (s.arb.row + 1) % 256, owed := s.arb.owed - 1
        shortfall := if s.arb.owed - 1 < 4 then false else s.arb.shortfall } }
    refine ⟨_, exec_refreshCycleEnd hf ho, hg.calm.apart, hg.lines, ?_, ?_, hg.clocks, ?_⟩
    · exact (congrArg Arbiter.row hg.arb :)
    · exact (congrArg Arbiter.owed hg.arb :)
    · exact (congrArg Arbiter.shortfall hg.arb :)

end Sys2Proof.Proofs.Refresh
end

section
/-! PROOFS. The cycle queue: acceptance (R56 to R62), and the ends of entries, POLLs, DELAYs and batches (R57, R58, R62 to R65). -/

open Sys2Proof Sys2Proof.Machine Sys2Proof.Proofs.MapLaws Sys2Proof.Proofs.LinkRequests Sys2Proof.Proofs.RecordRequests
  Sys2Proof.Proofs.PassFrame Sys2Proof.Proofs.Grants Sys2Proof.Proofs.Refresh

namespace Sys2Proof.Proofs.Batches

/-! ### Acceptance -/

/-- A BATCH that is read is handed to the cycle engine, its entries of a number the record can carry (R56, R166). -/
theorem exec_batch {s : State} {h : Hdr} {e : RawEntry} {rest : List RawEntry} (hr : Reads s) (ht : h.tag ≠ 0)
    (hl : rest.length < 64) (hq : s.queue.length < 8) :
    exec (.batch h (e :: rest)) s = .next (serveBatch h (e :: rest) { s with link := s.link.taken s.now h.more }) := by
  have hlen : (12 ≤ 12 * (e :: rest).length && 12 * (e :: rest).length ≤ 768 && 12 * (e :: rest).length % 12 == 0) = true := by
    rw [List.length_cons, Bool.and_eq_true, Bool.and_eq_true, decide_eq_true_eq, decide_eq_true_eq, beq_iff_eq]
    omega
  have hcheck : recordCheck 0x14 (12 * (e :: rest).length) 0 = .ok := by
    simp only [recordCheck, allowedLength, hlen]
    rfl
  have hhold : s.holdCause 0x14 h.ordered = none := by
    rw [State.holdCause, if_pos rfl]
    exact if_neg (Nat.not_le.mpr hq)
  exact exec_routed (c := .batch h (e :: rest)) rfl hr ht hcheck hhold

/-- A batch that passes R59 joins the tail of the queue; the head of an empty queue begins, and a claim may have appeared. -/
theorem serveBatch_joins {h : Hdr} {es : List RawEntry} {s : State} (hf : batchFault es = none) :
    serveBatch h es s = State.claimed { s with queue := s.queue ++
      [if s.queue = [] then Batch.begin { tag := h.tag, entries := es, posted := h.posted && s.mayPost es } s.now
        else { tag := h.tag, entries := es, posted := h.posted && s.mayPost es }] } := by
  rw [serveBatch, hf, ← arbitrate_eq_claimed]
  cases hq : s.queue with
  | nil => rfl
  | cons b rest => rfl

/-- A batch begins its entry: a DELAY waits from now, any other claims the bus. -/
theorem begin_delay {b : Batch} {e : RawEntry} (now : Time) (he : b.entries[b.next]? = some e) (ho : opOf e.op = some .delay) :
    b.begin now = { b with step := .delay, waitEnd := some ⟨now, e.a.toNat⟩ } := by
  have h : b.entry = some (e, .delay) := by rw [Batch.entry, he]; simp only [ho, Option.map_some]
  rw [Batch.begin, h]

theorem begin_claims {b : Batch} (now : Time) (h : ∀ e, b.entries[b.next]? = some e → opOf e.op ≠ some .delay) :
    b.begin now = { b with step := .claiming, pollTries := 0, pollLast := 0, waitEnd := none } := by
  unfold Batch.begin
  split
  · next e he =>
    unfold Batch.entry at he
    split at he
    · next e' he' =>
      obtain ⟨op, hop, heq⟩ := Option.map_eq_some_iff.mp he
      exact absurd (hop.trans (congrArg (fun p => some p.2) heq)) (h e' he')
    · cases he
  · rfl

/-- With the link lane's claim the only one, it is picked, and yield stays clear (R41). -/
theorem pick_link {s : State} (hs : s.servingChan = none) (ho : s.arb.owed = 0) (hy : s.arb.yield = false)
    (ht : s.timedClaims = none) (hl : s.linkClaims = true) : s.pick = (some .link, false) := by
  rw [pick_channels_first (by omega) hy, State.dmaPick, hs, State.lowerPick, if_neg (by omega), ht]
  simp only [hl, if_true]
  rfl

theorem entryAccess_io (s : State) (e : RawEntry) {op : Op} (h : op.isMemory = false) :
    s.entryAccess e op = s.ioAccess op.isWrite op.isWide (entryPort e) e.a := by
  rw [State.entryAccess, h, if_neg Bool.false_ne_true]

theorem entryAccess_mem (s : State) (e : RawEntry) {op : Op} (h : op.isMemory = true) :
    s.entryAccess e op = s.memAccess op.isWrite op.isWide (entryAddress e) e.a := by
  rw [State.entryAccess, h, if_pos rfl]

/-- Settles O28: R59's checks, then the tail of the queue, then the grant of an idle bus to the batch's claim. -/
theorem batchesAreCheckedAndQueued : Obligations.BatchesAreCheckedAndQueued := by
  intro s h e rest hr ht hl hq es b joined
  have hexec : exec (.batch h es) s = .next (serveBatch h es { s with link := s.link.taken s.now h.more }) := exec_batch hr ht hl hq
  have hplain : s.queue ≠ [] ∨ opOf e.op ≠ some .delay →
      (if s.queue = [] then b.begin s.now else b) = b := by
    intro hor
    by_cases hne : s.queue = []
    · rw [if_pos hne]
      exact begin_claims s.now fun e' he' => by
        cases he'
        exact hor.resolve_left (not_not_intro hne)
    · exact if_neg hne
  have hjoins : batchFault es = none →
      exec (.batch h es) s = .next (State.claimed (joined (if s.queue = [] then b.begin s.now else b))) := by
    intro hf
    rw [hexec, serveBatch_joins hf]
    rfl
  refine ⟨fun i hf => ?fault, fun hf hor ho => ?owned, fun hf hor => ?claimed, fun hf hne hd => ?delay,
    fun op hop hnd hf hne hc ho hy => ?granted, fun op hop => ?in8, fun op hop => ?in16,
    entryAccess_io s e rfl, entryAccess_io s e rfl, entryAccess_mem s e rfl, entryAccess_mem s e rfl,
    entryAccess_mem s e rfl, entryAccess_mem s e rfl⟩
  case fault =>
    rw [hexec, serveBatch, hf]
    exact congrArg _ (reply_of_taken rfl _ _ _ _)
  case owned =>
    rw [hjoins hf, hplain hor, State.claimed, if_neg fun hno => ho hno.1]
  case claimed => rw [hjoins hf, hplain hor]
  case delay =>
    rw [hjoins hf, if_pos hne, begin_delay s.now (e := e) rfl hd]
  case granted =>
    have hor : opOf e.op ≠ some .delay := fun h' => hnd (Option.some.inj (hop.symm.trans h'))
    rw [hjoins hf, hplain (.inr hor)]
    simp only [State.anyClaim, State.lowerClaim, Bool.or_eq_false_iff, Option.isSome_eq_false_iff, Option.isNone_iff_eq_none,
      decide_eq_false_iff_not] at hc
    obtain ⟨⟨hsc, howed⟩, ⟨⟨-, htc⟩, -⟩, -⟩ := hc
    have hqueue : (joined b).queue = b :: [] := by simp [joined, hne]
    have hlink : (joined b).linkClaims = true := by rw [State.linkClaims, hqueue]; rfl
    have hpick : (joined b).pick = (some .link, false) :=
      pick_link (by exact hsc) (by exact (by omega : s.arb.owed = 0)) hy (by exact htc) hlink
    have hentry : b.entry = some (e, op) := by
      rw [Batch.entry]
      exact congrArg (Option.map fun op => (e, op)) hop
    have hclaim : (joined b).anyClaim = true := by simp [State.anyClaim, State.lowerClaim, hlink]
    rw [State.claimed, if_pos ⟨ho, hclaim⟩, grantsFollowTheOrder.2.1 (joined b) |>.2.2.2.1 b [] e op (by rw [hpick]) hqueue hentry,
      hpick]
    refine congrArg Host.Outcome.next ?_
    have harb : ({ s.arb with owner := .link, yield := false } : Arbiter) = { s.arb with owner := .link } := by rw [← hy]
    simp only [joined, hne, List.nil_append, harb]
    rfl
  case in8 => obtain rfl | rfl := hop <;> exact entryAccess_io s e rfl
  case in16 => obtain rfl | rfl := hop <;> exact entryAccess_io s e rfl

/-! ### What the ends of entries and batches change -/

/-- The queue, the batches cancelled and the records alone have changed, by records placed. -/
def QueueOnly (s t : State) : Prop :=
  t = { s with queue := t.queue, cancelled := t.cancelled, link := t.link } ∧ ∃ more, t.link.reports = s.link.reports ++ more

theorem queueOnly_refl (s : State) : QueueOnly s s := ⟨rfl, [], (List.append_nil _).symm⟩

theorem queueOnly_after {s t u : State} (h' : QueueOnly t u) (h : QueueOnly s t) : QueueOnly s u := by
  obtain ⟨he', m', hm'⟩ := h'
  obtain ⟨he, m, hm⟩ := h
  refine ⟨?_, m ++ m', by rw [hm', hm, List.append_assoc]⟩
  rw [he', he]

theorem queueOnly_ite {s t u : State} {p : Prop} [Decidable p] (h : QueueOnly s t) (h' : QueueOnly s u) :
    QueueOnly s (if p then t else u) := by
  split
  · exact h
  · exact h'

theorem QueueOnly.calm {s t : State} (h : QueueOnly s t) : s.Calm t := by
  obtain ⟨he, hm⟩ := h
  rw [he]
  exact State.calm_of_eq rfl rfl hm rfl rfl rfl

theorem queueOnly_modBatch (f : Batch → Batch) (s : State) : QueueOnly s (s.modBatch f) :=
  ⟨rfl, [], (List.append_nil _).symm⟩

theorem queueOnly_endBatch (stop : Nat) (s : State) : QueueOnly s (s.endBatch stop) := by
  have hanswer (t : State) : QueueOnly t t.answerCancelled := by
    refine ⟨?_, (State.calm_each _ (fun _ u => u.calm_reply _ _ _ _) _ { t with cancelled := [] }).2.2.1⟩
    unfold State.answerCancelled
    rw [each_reply_eq t.cancelled kBatch (fun tag => tag) .cancelled (fun _ => .batch 0 255 [])]
  have hrest (t : State) (q : List Batch) : QueueOnly t { t with queue := q }.startHead := ⟨rfl, [], (List.append_nil _).symm⟩
  unfold State.endBatch
  split
  · exact queueOnly_refl s
  · next b rest hq =>
    refine queueOnly_after (hrest _ rest) (queueOnly_after (hanswer _) (queueOnly_ite (queueOnly_refl s) (queueOnly_ite ?_ ?_)))
    · exact ⟨rfl, [], (List.append_nil _).symm⟩
    · exact ⟨rfl, (s.calm_reply _ _ _ _).2.2.1⟩

theorem queueOnly_entryDone (s : State) : QueueOnly s s.entryDone := by
  have hmod := queueOnly_modBatch (fun b => { b with next := b.next + 1 }) s
  unfold State.entryDone
  dsimp only
  split
  · exact hmod
  · refine queueOnly_after (queueOnly_ite (queueOnly_endBatch _ _) (queueOnly_ite ?_ (queueOnly_ite ?_ ?_))) hmod
    · exact queueOnly_after (queueOnly_endBatch _ _) (queueOnly_modBatch _ _)
    · exact ⟨rfl, [], (List.append_nil _).symm⟩
    · exact queueOnly_endBatch _ _

theorem queueOnly_entryFault (st : Status) (s : State) : QueueOnly s (s.entryFault st) := by
  unfold State.entryFault
  split
  · exact queueOnly_refl s
  · exact queueOnly_after (queueOnly_endBatch _ _) (queueOnly_modBatch _ _)

/-! ### How a batch ends -/

/-- The replies of the batches cancelled behind the head (R65). -/
def othersOf (s : State) : List Report := s.cancelled.map fun tag => .reply 0x94 tag .cancelled (.batch 0 255 [])

/-- Replies with their reservations held join the tail in order. -/
theorem each_reply_placed {α : Type} (xs : List α) (kind : Nat) (tag : α → Nat) (st : Status) (b : α → Body) (s : State)
    (h : xs.length ≤ s.link.reservations) :
    (s.each xs fun x t => t.reply kind (tag x) st (b x)) = { s with link := { s.link with
      reports := s.link.reports ++ xs.map fun x => .reply (kind + 0x80) (tag x) st (b x)
      reservations := s.link.reservations - xs.length } } := by
  induction xs generalizing s with
  | nil => simp [State.each]
  | cons x xs ih =>
    rw [List.length_cons] at h
    have hplace : s.reply kind (tag x) st (b x) = { s with link := { s.link with
        reports := s.link.reports ++ [.reply (kind + 0x80) (tag x) st (b x)], reservations := s.link.reservations - 1 } } := by
      rw [State.reply, State.modLink, Link.place, if_neg (by omega), replyKind]
    rw [State.each_cons, hplace, ih _ (by show xs.length ≤ s.link.reservations - 1; omega)]
    simp only [List.map_cons, List.append_assoc, List.singleton_append, List.length_cons]
    rw [Nat.sub_sub, Nat.add_comm]

/-- A batch ends with its reply, those cancelled behind it with theirs, and the next one begins. -/
theorem endBatch_replied {s : State} {b : Batch} {rest : List Batch} (stop : Nat) (hq : s.queue = b :: rest)
    (hd : b.discard = false) (hp : b.posted = false ∨ b.status ≠ .ok) (hr : s.cancelled.length < s.link.reservations) :
    s.endBatch stop = { s with
      link := { s.link with
        reports := s.link.reports ++ .reply 0x94 b.tag b.status (.batch b.next stop b.results) :: othersOf s
        reservations := s.link.reservations - (s.cancelled.length + 1) }
      cancelled := []
      queue := modHead (·.begin s.now) rest } := by
  have hposted : (b.posted && decide (b.status = .ok)) = false := by
    obtain h | h := hp
    · rw [h, Bool.false_and]
    · rw [decide_eq_false h, Bool.and_false]
  rw [State.endBatch, hq]
  simp only [hd, hposted, Bool.false_eq_true, if_false]
  have hplace : s.reply kBatch b.tag b.status (.batch b.next stop b.results) = { s with link := { s.link with
      reports := s.link.reports ++ [.reply 0x94 b.tag b.status (.batch b.next stop b.results)]
      reservations := s.link.reservations - 1 } } := by
    rw [State.reply, State.modLink, Link.place, if_neg (by omega), replyKind]
  rw [hplace, State.answerCancelled, each_reply_placed _ kBatch (fun tag => tag) .cancelled (fun _ => .batch 0 255 []) _
    (by show s.cancelled.length ≤ s.link.reservations - 1; omega)]
  simp only [State.startHead, othersOf, List.append_assoc, List.singleton_append, Nat.sub_sub, Nat.add_comm 1]

/-- A posted batch that ends OK releases its reservation without a reply (R64). -/
theorem endBatch_released {s : State} {b : Batch} {rest : List Batch} (stop : Nat) (hq : s.queue = b :: rest)
    (hd : b.discard = false) (hp : b.posted = true) (hs : b.status = .ok) (hc : s.cancelled = []) :
    s.endBatch stop = { s with
      link := { s.link with reservations := s.link.reservations - 1 }
      queue := modHead (·.begin s.now) rest } := by
  rw [State.endBatch, hq]
  simp only [hd, hp, hs, Bool.false_eq_true, Bool.true_and, decide_true, if_true, if_false]
  have hc' : s.release.cancelled = [] := hc
  rw [State.answerCancelled, hc']
  show ({ s.release with cancelled := [], queue := rest } : State).startHead = _
  rw [← hc]
  rfl

/-- Whatever its reply, the batch has left the queue and the next one begins. -/
theorem queue_endBatch {s : State} {b : Batch} {rest : List Batch} (stop : Nat) (hq : s.queue = b :: rest) :
    (s.endBatch stop).queue = modHead (·.begin s.now) rest := by
  have hnow (t : State) : ({ t.answerCancelled with queue := rest } : State).startHead.queue = modHead (·.begin t.now) rest := by
    unfold State.answerCancelled
    rw [each_reply_eq t.cancelled kBatch (fun tag => tag) .cancelled (fun _ => .batch 0 255 [])]
    rfl
  rw [State.endBatch, hq]
  refine (hnow _).trans ?_
  split
  · rfl
  · split <;> rfl

/-- The tags of the batches left. -/
theorem tags_modHead_begin (now : Time) (q : List Batch) : (modHead (·.begin now) q).map Batch.tag = q.map Batch.tag := by
  cases q with
  | nil => rfl
  | cons b rest =>
    have h : (b.begin now).tag = b.tag := by unfold Batch.begin; split <;> rfl
    rw [modHead, List.map_cons, h, List.map_cons]

theorem tags_granted {s t : State} (h : Granted s t) : t.queue.map Batch.tag = s.queue.map Batch.tag := by
  obtain hq | ⟨b, rest, hs, -, ht⟩ := h.queue
  · rw [hq]
  · rw [ht, hs]
    rfl

/-! ### How an entry ends -/

section
variable {s : State} {b : Batch} {rest : List Batch}

theorem modBatch_head (hq : s.queue = b :: rest) (f : Batch → Batch) : s.modBatch f = { s with queue := f b :: rest } := by
  rw [State.modBatch, hq]
  rfl

/-- With entries left the batch goes on (R62). -/
theorem entryDone_next (hq : s.queue = b :: rest) (hd : b.discard = false) (hc : b.cancel = false)
    (hn : b.next + 1 < b.entries.length) :
    s.entryDone = { s with queue := Batch.begin { b with next := b.next + 1 } s.now :: rest } := by
  rw [State.entryDone, modBatch_head hq]
  simp only [hd, hc, hn, Bool.false_eq_true, if_false, if_true]
  rfl

/-- With none left it ends (R64). -/
theorem entryDone_last (hq : s.queue = b :: rest) (hd : b.discard = false) (hc : b.cancel = false)
    (hn : b.next + 1 = b.entries.length) :
    s.entryDone = State.endBatch noStop { s with queue := { b with next := b.next + 1 } :: rest } := by
  rw [State.entryDone, modBatch_head hq]
  have hn' : ¬ b.next + 1 < b.entries.length := by omega
  simp only [hd, hc, hn', Bool.false_eq_true, if_false]

/-- A cancelled batch ends (R65). -/
theorem entryDone_cancelled (hq : s.queue = b :: rest) (hd : b.discard = false) (hc : b.cancel = true) :
    s.entryDone = State.endBatch noStop { s with queue := { b with next := b.next + 1, status := .cancelled } :: rest } := by
  rw [State.entryDone, modBatch_head hq]
  simp only [hd, hc, Bool.false_eq_true, if_false, if_true]
  rfl

theorem entryFault_eq (hq : s.queue = b :: rest) (st : Status) :
    s.entryFault st = State.endBatch b.next { s with queue := { b with status := st } :: rest } := by
  rw [State.entryFault, hq]
  simp only [modBatch_head hq]

/-- The entry's read joins the results (R56, R62). -/
theorem finishEntry_eq (hq : s.queue = b :: rest) (op : Op) (r : AccessEnd) :
    s.finishEntry op r =
      let u : State := { s with queue := { b with
        results := if op.isWrite = true then b.results else b.results ++ [.word r.value] } :: rest }
      if r.status = .ok then u.entryDone else u.entryFault r.status := by
  have hs : s = { s with queue := b :: rest } := by rw [← hq]
  cases hw : op.isWrite with
  | true =>
    simp only [State.finishEntry, hw, if_true]
    rw [← hs]
  | false =>
    simp only [State.finishEntry, hw, Bool.false_eq_true, if_false, State.addResult, modBatch_head hq]

end

theorem begin_record (b : Batch) (now : Time) : (b.begin now).tag = b.tag ∧ (b.begin now).entries = b.entries ∧
    (b.begin now).next = b.next ∧ (b.begin now).results = b.results ∧ (b.begin now).posted = b.posted ∧
    (b.begin now).status = b.status := by
  unfold Batch.begin
  split <;> exact ⟨rfl, rfl, rfl, rfl, rfl, rfl⟩

/-- The end of an access of the head batch's entry. -/
theorem exec_batchEntryEnd {s : State} {a : Access} {b : Batch} {rest : List Batch} {e : BusEnd} {en : RawEntry} {op : Op}
    {r : AccessEnd} (hf : s.inFlight = .access a) (ho : s.arb.owner = .link) (horp : s.orphan = false) (hq : s.queue = b :: rest)
    (hen : b.entries[b.next]? = some en) (hop : opOf en.op = some op) (hpoll : op.isPoll = false) (hr : s.accessEnd a e = some r) :
    exec (.batchEntryEnd e) s = .next ((s.cycleDone r.clocks).finishEntry op r).grantPoint := by
  have hentry : s.queue.head?.bind Batch.entry = some (en, op) := by
    rw [hq]
    simp only [List.head?_cons, Option.bind_some, Batch.entry, hen, hop, Option.map_some]
  simp only [exec, execBatchEntryEnd, hf, ho, hr, horp, hentry, hpoll, Bool.false_eq_true, if_false]

/-- A batch that ends with its reply, then a grant: the reply and those of the others behind it, in order, and the rest of the queue. -/
theorem endBatch_granted {s : State} {b : Batch} {rest : List Batch} (stop : Nat) {t : State} {more : List Report}
    (hg : Granted (s.endBatch stop) t) (hm : t.link.reports = (s.endBatch stop).link.reports ++ more)
    (hq : s.queue = b :: rest) (hd : b.discard = false) (hp : b.posted = false ∨ b.status ≠ .ok)
    (hr : s.cancelled.length < s.link.reservations) :
    t.queue.map Batch.tag = rest.map Batch.tag ∧ t.link.reports =
      s.link.reports ++ .reply 0x94 b.tag b.status (.batch b.next stop b.results) :: (othersOf s ++ more) := by
  have he := endBatch_replied stop hq hd hp hr
  constructor
  · rw [tags_granted hg, he]
    exact tags_modHead_begin _ _
  · rw [hm, he]
    simp only [List.append_assoc, List.cons_append]

/-- The head of the queue after a grant: as it was, or in its cycle. -/
theorem head_granted {s t : State} {b : Batch} {rest : List Batch} (h : Granted s t) (hq : s.queue = b :: rest) :
    ∃ st : EntryStep, (st = b.step ∨ st = .cycle) ∧ t.queue = { b with step := st } :: rest := by
  obtain he | ⟨b', rest', hs, -, ht⟩ := h.queue
  · exact ⟨b.step, .inl rfl, he.trans hq⟩
  · rw [hq] at hs
    cases hs
    exact ⟨.cycle, .inr rfl, ht⟩

/-- Settles O29: the end of the entry, then of the batch, then the grant. -/
theorem batchEntriesEnd : Obligations.BatchEntriesEnd := by
  intro s a b rest e en op r hf ho horp hq hen hop h8 h16 hdl hd hr results others
  have hpoll : op.isPoll = false := by
    cases op
    case poll8 => exact absurd rfl h8
    case poll16 => exact absurd rfl h16
    all_goals rfl
  have hresults : (if op.isWrite = true then b.results else b.results ++ [.word r.value]) = results := by
    refine if_congr ?_ rfl rfl
    cases op <;> simp [Op.isWrite]
  have hexec := exec_batchEntryEnd hf ho horp hq hen hop hpoll hr
  have hfin := finishEntry_eq (s := s.cycleDone r.clocks) hq op r
  rw [hresults] at hfin
  have honly : QueueOnly (s.cycleDone r.clocks) ((s.cycleDone r.clocks).finishEntry op r) := by
    rw [hfin]
    exact queueOnly_after (queueOnly_ite (queueOnly_entryDone _) (queueOnly_entryFault _ _)) ⟨rfl, [], (List.append_nil _).symm⟩
  have hg := granted_grantPoint ((s.cycleDone r.clocks).finishEntry op r)
  have hcalm : s.Calm ((s.cycleDone r.clocks).finishEntry op r).grantPoint :=
    State.calm_trans (t := s.cycleDone r.clocks) (State.calm_of_eq rfl rfl ⟨[], (List.append_nil _).symm⟩ rfl rfl rfl)
      (State.calm_trans honly.calm hg.calm)
  obtain ⟨more, hm, hmr⟩ : ∃ more : List Report,
      ((s.cycleDone r.clocks).finishEntry op r).grantPoint.link.reports =
        ((s.cycleDone r.clocks).finishEntry op r).link.reports ++ more ∧
      ((s.cycleDone r.clocks).finishEntry op r).grantPoint.link.reservations + more.length =
        ((s.cycleDone r.clocks).finishEntry op r).link.reservations := by
    obtain ⟨rs, hl, hle⟩ := hg.placed
    exact ⟨rs, congrArg Link.reports hl, by rw [hl]; exact Nat.sub_add_cancel hle⟩
  refine ⟨_, more, hexec, hcalm.apart, hg.lines.trans (congrArg State.lines honly.1 :),
    hg.clocks.trans (congrArg State.lastClocks honly.1 :), ?_⟩
  rw [hfin] at hg hm hmr ⊢
  generalize State.grantPoint _ = t at hg hm hmr ⊢
  refine ⟨fun hok hc hn => ?next, fun hok hc hn hst => ?last, fun hok hc hres => ?cancelled, fun hno hres => ?stops⟩
  case next =>
    rw [if_pos hok, entryDone_next (b := { b with results := results }) (rest := rest) rfl hd hc hn] at hg
    obtain ⟨st, -, hqueue⟩ := head_granted hg rfl
    obtain ⟨htag, hes, hnext, hres, hposted, hstatus⟩ := begin_record { b with results := results, next := b.next + 1 } s.now
    exact ⟨_, _, hqueue, hnext, hres, htag, hes, hposted, hstatus⟩
  case last =>
    rw [if_pos hok, entryDone_last (b := { b with results := results }) (rest := rest) rfl hd hc hn] at hg hm hmr
    refine ⟨?_, fun hp hres => ?_, fun hp hnone hres => ?_⟩
    · rw [tags_granted hg, queue_endBatch noStop rfl]
      exact tags_modHead_begin _ _
    · have h := (endBatch_granted noStop hg hm rfl hd (.inl hp) hres).2
      rw [h, ← hn, ← hst]
      rfl
    · have he := endBatch_released (b := { b with results := results, next := b.next + 1 }) (rest := rest) noStop
        (s := { s.cycleDone r.clocks with queue := { b with results := results, next := b.next + 1 } :: rest }) rfl hd hp hst hnone
      rw [he] at hm hmr
      have hmr' : t.link.reservations + more.length = s.link.reservations - 1 := hmr
      exact ⟨hm, by omega⟩
  case cancelled =>
    rw [if_pos hok, entryDone_cancelled (b := { b with results := results }) (rest := rest) rfl hd hc] at hg hm
    exact endBatch_granted noStop hg hm rfl hd (.inr (by decide : Status.cancelled ≠ .ok)) hres
  case stops =>
    rw [if_neg hno, entryFault_eq (b := { b with results := results }) (rest := rest) rfl] at hg hm
    exact endBatch_granted b.next hg hm rfl hd (.inr hno) hres

/-! ### POLL and DELAY -/

/-- The head batch after a POLL read that counts: the value read and the tries used (R57). -/
def counted (b : Batch) (v : Half) : Batch := { b with pollTries := b.pollTries + 1, pollLast := v }

/-- The same with the POLL's result. -/
def polled (b : Batch) (v : Half) : Batch := { counted b v with results := b.results ++ [.poll v (b.pollTries + 1)] }

section
variable {s : State} {b : Batch} {rest : List Batch}

theorem addResult_head (hq : s.queue = b :: rest) (x : EntryResult) :
    s.addResult x = { s with queue := { b with results := b.results ++ [x] } :: rest } := by
  rw [State.addResult, modBatch_head hq]

theorem abandonEntry_eq (hq : s.queue = b :: rest) (stop : Nat) :
    s.abandonEntry stop = State.endBatch stop { s with queue := { b with status := .cancelled } :: rest } := by
  rw [State.abandonEntry, modBatch_head hq]

/-- A read that the access refuses does not count, and stops the batch (R57). -/
theorem finishPoll_align (hq : s.queue = b :: rest) (en : RawEntry) (op : Op) {r : AccessEnd} (hr : r.status = .align) :
    s.finishPoll en op r = State.entryFault .align
      { s with queue := { b with results := b.results ++ [.poll b.pollLast b.pollTries] } :: rest } := by
  simp only [State.finishPoll, hr, if_true, hq, addResult_head hq]
  rfl

/-- Any other read counts; it ends the entry where it faulted, matched or was the last try, and else the batch waits for the next
one, or is abandoned (R57, R63, R65). -/
theorem finishPoll_counted (hq : s.queue = b :: rest) (hd : b.discard = false) (en : RawEntry) (op : Op) {r : AccessEnd}
    (hr : r.status ≠ .align) :
    s.finishPoll en op r =
      let u : State := { s with queue := polled b r.value :: rest }
      if r.status ≠ .ok then u.entryFault r.status
      else if pollMatches op en r.value = true then u.entryDone
      else if en.c.toNat ≤ b.pollTries + 1 then (if entryStrict en = true then u.entryFault .expired else u.entryDone)
      else if b.cancel = true then u.abandonEntry b.next
      else if entryInterval en = 0 then { s with queue := { counted b r.value with step := .claiming } :: rest }
      else { s with queue := { counted b r.value with
        step := .pollWait, waitEnd := some ⟨s.now, entryInterval en * 10⟩ } :: rest } := by
  have hd' : (b.discard = true) = False := by rw [hd]; exact eq_false Bool.false_ne_true
  rw [State.finishPoll, if_neg hr, modBatch_head hq]
  simp only [hd', if_false]
  rfl

end

/-- The end of an access of the head batch's POLL. -/
theorem exec_pollReadEnd {s : State} {a : Access} {b : Batch} {rest : List Batch} {e : BusEnd} {en : RawEntry} {op : Op}
    {r : AccessEnd} (hf : s.inFlight = .access a) (ho : s.arb.owner = .link) (horp : s.orphan = false) (hq : s.queue = b :: rest)
    (hen : b.entries[b.next]? = some en) (hop : opOf en.op = some op) (hpoll : op.isPoll = true) (hr : s.accessEnd a e = some r) :
    exec (.pollReadEnd e) s = .next ((s.cycleDone r.clocks).finishPoll en op r).grantPoint := by
  have hentry : s.queue.head?.bind Batch.entry = some (en, op) := by
    rw [hq]
    simp only [List.head?_cons, Option.bind_some, Batch.entry, hen, hop, Option.map_some]
  simp only [exec, execPollReadEnd, hf, ho, hr, horp, hentry, hpoll, Bool.false_eq_true, if_false, if_true]

theorem queueOnly_finishPoll {s : State} {b : Batch} {rest : List Batch} (hq : s.queue = b :: rest) (hd : b.discard = false)
    (en : RawEntry) (op : Op) (r : AccessEnd) : QueueOnly s (s.finishPoll en op r) := by
  have hset (q : List Batch) : QueueOnly s { s with queue := q } := ⟨rfl, [], (List.append_nil _).symm⟩
  by_cases hr : r.status = .align
  · rw [finishPoll_align hq en op hr]
    exact queueOnly_after (queueOnly_entryFault _ _) (hset _)
  · rw [finishPoll_counted hq hd en op hr]
    refine queueOnly_ite (queueOnly_after (queueOnly_entryFault _ _) (hset _)) (queueOnly_ite
      (queueOnly_after (queueOnly_entryDone _) (hset _)) (queueOnly_ite (queueOnly_ite
        (queueOnly_after (queueOnly_entryFault _ _) (hset _)) (queueOnly_after (queueOnly_entryDone _) (hset _)))
          (queueOnly_ite ?_ (queueOnly_ite (hset _) (hset _)))))
    rw [abandonEntry_eq rfl]
    exact queueOnly_after (queueOnly_endBatch _ _) (hset _)

/-- A batch that waits keeps the queue as it is. -/
theorem waits_granted {s t : State} {b : Batch} {rest : List Batch} (h : Granted s t) (hq : s.queue = b :: rest)
    (hb : b.step ≠ .claiming) : t.queue = b :: rest := by
  obtain he | ⟨b', rest', hs, ⟨hst, -⟩, -⟩ := h.queue
  · exact he.trans hq
  · rw [hq] at hs
    cases hs
    exact absurd hst hb

theorem pollMatches_iff {op : Op} (hop : op = .poll8 ∨ op = .poll16) (en : RawEntry) (v : Half) :
    pollMatches op en v = true ↔ (op = .poll8 → lowByte v &&& lowByte en.a = lowByte en.b) ∧ (op = .poll16 → v &&& en.a = en.b) := by
  obtain rfl | rfl := hop <;> simp [pollMatches]

/-- The records that a grant after the change of the queue places. -/
theorem more_granted {s t : State} (h : Granted s t) : ∃ more, t.link.reports = s.link.reports ++ more := h.calm.2.2.1

theorem exec_delayExpiry {s : State} {b : Batch} {rest : List Batch} {d : Deadline} (hq : s.queue = b :: rest)
    (hw : b.waitEnd = some d) (hs : b.step = .delay) (hr : d.reached s.now = true) :
    exec .delayExpiry s = .next s.entryDone.claimed := by
  simp only [exec, execDelayExpiry, hq, hs, reachedBy, hw, Option.any_some, hr, decide_true, Bool.true_and, if_true,
    arbitrate_eq_claimed]

/-- Settles O30: a POLL read by its end, the expiries by the entry they wait in. -/
theorem pollsAndDelaysGoOn : Obligations.PollsAndDelaysGoOn := by
  refine ⟨fun s a b rest e en op r hf ho horp hq hen hop hpoll hd hr => ?read, fun s b rest d hq hw => ⟨fun hs hr => ?interval,
    fun hs hr hd hc hn hne => ?entry, fun en hs hr hd hc hen hop => ?delays, fun hs hr hd hc hn hp hst hres => ?answered,
    fun hr => ?early⟩⟩
  case read =>
    intro hit result others
    have hispoll : op.isPoll = true := by obtain rfl | rfl := hpoll <;> rfl
    have hmatch : pollMatches op en r.value = true ↔ hit := pollMatches_iff hpoll en r.value
    have hexec := exec_pollReadEnd hf ho horp hq hen hop hispoll hr
    have honly := queueOnly_finishPoll (s := s.cycleDone r.clocks) hq hd en op r
    have hg := granted_grantPoint ((s.cycleDone r.clocks).finishPoll en op r)
    have hcalm : s.Calm ((s.cycleDone r.clocks).finishPoll en op r).grantPoint :=
      State.calm_trans (t := s.cycleDone r.clocks) (State.calm_of_eq rfl rfl ⟨[], (List.append_nil _).symm⟩ rfl rfl rfl)
        (State.calm_trans honly.calm hg.calm)
    obtain ⟨more, hm⟩ := more_granted hg
    have hcount := finishPoll_counted (s := s.cycleDone r.clocks) hq hd en op (r := r)
    have halign := finishPoll_align (s := s.cycleDone r.clocks) hq en op (r := r)
    refine ⟨_, more, hexec, hcalm.apart, hg.lines.trans (congrArg State.lines honly.1 :), ?_⟩
    generalize (s.cycleDone r.clocks).finishPoll en op r = u at hg hm hcount halign ⊢
    generalize u.grantPoint = t at hg hm ⊢
    have hdone (hok : r.status = .ok) (h : hit ∨ (en.c.toNat ≤ b.pollTries + 1 ∧ entryStrict en = false)) :
        u = State.entryDone { s.cycleDone r.clocks with queue := polled b r.value :: rest } := by
      rw [hcount (by rw [hok]; decide), if_neg (not_not_intro hok)]
      by_cases hh : hit
      · rw [if_pos (hmatch.mpr hh)]
      · obtain ⟨hc, hs⟩ := h.resolve_left hh
        rw [if_neg (fun h' => hh (hmatch.mp h')), if_pos hc, hs, if_neg Bool.false_ne_true]
    have hleft (hok : r.status = .ok) (hh : ¬ hit) (hc : b.pollTries + 1 < en.c.toNat) :=
      (hcount (by rw [hok]; decide)).trans ((if_neg (not_not_intro hok)).trans ((if_neg fun h' => hh (hmatch.mp h')).trans
        (if_neg (Nat.not_le.mpr hc))))
    refine ⟨fun hok hh hc hcan hres => ?abandoned, fun hok hh hc hcan => ⟨fun hi => ?waits, fun hi => ?again⟩,
      fun hok h => ⟨fun hcan hres => ?last, fun hcan hn => ?next, fun hcan hn hp hst hres => ?ends⟩,
      fun hok hh hc hs hres => ?expired, fun htime hres => ?timeout, fun hal hres => ?refused⟩
    case abandoned =>
      rw [hleft hok hh hc, if_pos hcan, abandonEntry_eq rfl] at hg hm
      exact endBatch_granted b.next hg hm rfl hd (.inr (by decide : Status.cancelled ≠ .ok)) hres
    case waits =>
      rw [hleft hok hh hc, hcan, if_neg Bool.false_ne_true, if_neg hi] at hg
      exact waits_granted hg rfl (by decide : EntryStep.pollWait ≠ .claiming)
    case again =>
      rw [hleft hok hh hc, hcan, if_neg Bool.false_ne_true, if_pos hi] at hg
      exact head_granted hg rfl
    case last =>
      rw [hdone hok h, entryDone_cancelled (b := polled b r.value) rfl hd hcan] at hg hm
      exact endBatch_granted noStop hg hm rfl hd (.inr (by decide : Status.cancelled ≠ .ok)) hres
    case next =>
      rw [hdone hok h, entryDone_next (b := polled b r.value) rfl hd hcan hn] at hg
      obtain ⟨st, -, hqueue⟩ := head_granted hg rfl
      obtain ⟨htag, hes, hnext, hres, -, -⟩ := begin_record { polled b r.value with next := b.next + 1 } s.now
      exact ⟨_, _, hqueue, hnext, hres, htag, hes⟩
    case ends =>
      rw [hdone hok h, entryDone_last (b := polled b r.value) rfl hd hcan hn] at hg hm
      have h := endBatch_granted noStop hg hm rfl hd (.inl hp) hres
      rw [← hn, ← hst]
      exact h
    case expired =>
      rw [hcount (by rw [hok]; decide), if_neg (not_not_intro hok), if_neg (fun h' => hh (hmatch.mp h')), if_pos hc, if_pos hs,
        entryFault_eq rfl] at hg hm
      exact endBatch_granted b.next hg hm rfl hd (.inr (by decide : Status.expired ≠ .ok)) hres
    case timeout =>
      rw [hcount (by rw [htime]; decide), if_pos (by rw [htime]; decide), entryFault_eq rfl, htime] at hg hm
      exact endBatch_granted b.next hg hm rfl hd (.inr (by decide : Status.timeout ≠ .ok)) hres
    case refused =>
      rw [halign hal, entryFault_eq rfl] at hg hm
      exact endBatch_granted b.next hg hm rfl hd (.inr (by decide : Status.align ≠ .ok)) hres
  case interval =>
    simp only [exec, execPollIntervalExpiry, hq, hs, reachedBy, hw, Option.any_some, hr, decide_true, Bool.true_and, if_true,
      arbitrate_eq_claimed, modBatch_head hq]
  case entry =>
    rw [exec_delayExpiry hq hw hs hr, entryDone_next hq hd hc hn, begin_claims s.now hne]
  case delays =>
    have hn : b.next + 1 < b.entries.length := (List.getElem?_eq_some_iff.mp hen).1
    rw [exec_delayExpiry hq hw hs hr, entryDone_next hq hd hc hn, begin_delay s.now hen hop]
    simp only [hs]
  case answered =>
    have hlast := entryDone_last hq hd hc hn
    have hrep := endBatch_replied (s := { s with queue := { b with next := b.next + 1 } :: rest }) noStop rfl hd (.inl hp) hres
    have honly : QueueOnly s s.entryDone := queueOnly_entryDone s
    have hreports : s.entryDone.link.reports = s.link.reports ++
        .reply 0x94 b.tag .ok (.batch b.entries.length 255 b.results) :: othersOf s := by
      rw [hlast, hrep, ← hn, ← hst]
      rfl
    have htags : s.entryDone.queue.map Batch.tag = rest.map Batch.tag := by
      rw [hlast, hrep]
      exact tags_modHead_begin _ _
    have harb : s.entryDone.arb = s.arb := (congrArg State.arb honly.1 :)
    have hlines : s.entryDone.lines = s.lines := (congrArg State.lines honly.1 :)
    rw [exec_delayExpiry hq hw hs hr, State.claimed]
    by_cases hg : s.entryDone.arb.owner = .none ∧ s.entryDone.anyClaim = true
    · rw [if_pos hg]
      have hgrant := granted_grantPoint s.entryDone
      obtain ⟨more, hm⟩ := more_granted hgrant
      refine ⟨_, more, rfl, (State.calm_trans honly.calm hgrant.calm).apart, hgrant.lines.trans hlines,
        (tags_granted hgrant).trans htags, fun ho => absurd (harb ▸ hg.1) ho, ?_⟩
      rw [hm, hreports, List.append_assoc]
      rfl
    · rw [if_neg hg]
      refine ⟨_, [], rfl, honly.calm.apart, hlines, htags, fun _ => ⟨harb, rfl⟩, ?_⟩
      rw [hreports, List.append_nil]
      rfl
  case early =>
    have hreach : reachedBy b.waitEnd s.now = false := by rw [reachedBy, hw, Option.any_some, hr]
    simp only [exec, execPollIntervalExpiry, execDelayExpiry, hq, hreach, Bool.and_false, Bool.false_eq_true, if_false, and_self]

end Sys2Proof.Proofs.Batches
end

section
/-! PROOFS. Interval timers: expiries (R153, R159) and the ends of the entries of timed runs (R158). -/

open Sys2Proof Sys2Proof.Machine Sys2Proof.Proofs.Trickle Sys2Proof.Proofs.RecordRequests Sys2Proof.Proofs.PassFrame
  Sys2Proof.Proofs.Grants Sys2Proof.Proofs.Batches

namespace Sys2Proof.Proofs.Timed

/-! ### Expiries -/

/-- The timer's record after an expiry that finds no run of its batch in the lane (R153). -/
def expired (t : Timer) : Timer :=
  { t with
    fired := true, expiries := if t.expiries < 255 then t.expiries + 1 else 255, due := false
    counter := match t.mode with
      | .periodic => t.holding
      | .oneShot => 0
    gate := match t.mode with
      | .periodic => true
      | .oneShot => false }

theorem expire_eq {t : Timer} (hg : t.gate = true) (run : RunState) :
    t.expire run = { expired t with overrun := t.overrun || (t.batch.isSome && run ≠ .absent) } := by
  unfold Timer.expire expired
  rw [hg]
  rfl

theorem expire_alone {t : Timer} (hg : t.gate = true) {run : RunState} (h : t.batch = none ∨ run = .absent) :
    t.expire run = expired t := by
  have ho : (t.overrun || (t.batch.isSome && decide (run ≠ .absent))) = t.overrun := by
    obtain h | h := h <;> simp [h]
  rw [expire_eq hg, ho]
  rfl

theorem expire_overrun {t : Timer} (hg : t.gate = true) {run : RunState} (hb : t.batch ≠ none) (hr : run ≠ .absent) :
    t.expire run = { expired t with overrun := true } := by
  have ho : (t.overrun || (t.batch.isSome && decide (run ≠ .absent))) = true := by
    rw [Option.isSome_iff_ne_none.mpr hb, decide_eq_true hr, Bool.true_and, Bool.or_true]
  rw [expire_eq hg, ho]

theorem set_set_same {α : Type} {n : Nat} (v : Vector α n) (i : Fin n) (x y : α) : (v.set i x).set i y = v.set i y := by
  refine vector_ext fun j => ?_
  rw [getElem_set_fin, getElem_set_fin, getElem_set_fin]
  split <;> rfl

section
variable {s : State} {i : TimerId}

/-- With no batch the timer's notice is produced, if notify is yes. -/
theorem exec_timerExpiry_plain (hg : s.timers[i].gate = true) (hd : s.timers[i].due = true) (hb : s.timers[i].batch = none) :
    exec (.timerExpiry i) s = .next { s with
      timers := s.timers.set i (if s.timers[i].notify = true then (expired s.timers[i]).produce s.now none else expired s.timers[i]) } := by
  have hcond : (s.timers[i].gate && s.timers[i].due) = true := by rw [hg, hd]; rfl
  have hbatch : (expired s.timers[i]).batch = none := hb
  have hnotify : (expired s.timers[i]).notify = s.timers[i].notify := rfl
  simp only [exec, execTimerExpiry, if_pos hcond, State.modTimer, getElem_set_same, expire_alone hg (.inl hb), hbatch, hnotify]
  split
  · rw [set_set_same]
  · rfl

/-- With one a run joins the lane, unless one is still there. -/
theorem exec_timerExpiry_run (hg : s.timers[i].gate = true) (hd : s.timers[i].due = true) (hb : s.timers[i].batch ≠ none) :
    exec (.timerExpiry i) s = .next (if s.runState i = .absent
      then State.claimed { s with
        timers := s.timers.set i (expired s.timers[i]), lane := s.lane ++ [{ timer := i, expiry := s.now }] }
      else { s with timers := s.timers.set i { expired s.timers[i] with overrun := true } }) := by
  have hcond : (s.timers[i].gate && s.timers[i].due) = true := by rw [hg, hd]; rfl
  obtain ⟨es, hes⟩ := Option.ne_none_iff_exists'.mp hb
  have hbatch (run : RunState) : (s.timers[i].expire run).batch = some es := hes
  simp only [exec, execTimerExpiry, if_pos hcond, State.modTimer, getElem_set_same, hbatch]
  by_cases hr : s.runState i = .absent
  · rw [if_pos hr, if_pos hr, arbitrate_eq_claimed, expire_alone hg (.inr hr)]
  · rw [if_neg hr, if_neg hr, expire_overrun hg hb hr]

end

/-- Settles O50: an expiry by the timer's batch and the run of it in the lane. -/
theorem timerExpiriesQueueARun : Obligations.TimerExpiriesQueueARun := by
  refine fun s i => ⟨fun h => ?idle, fun hg hd => ⟨fun hb hn => ?silent, fun hb hn hh => ?produced, fun n hb hn hh => ?replaced,
    fun hb hr => ?overrun, fun hb hr => ?queued⟩⟩
  case idle =>
    have hcond : ¬ (s.timers[i].gate && s.timers[i].due) = true := by
      obtain h | h := h <;> simp [h, -Fin.getElem_fin]
    simp only [exec, execTimerExpiry, if_neg hcond]
  case silent =>
    rw [exec_timerExpiry_plain hg hd hb, hn, if_neg Bool.false_ne_true]
    rfl
  case produced =>
    rw [exec_timerExpiry_plain hg hd hb, if_pos hn, Timer.produce]
    have hheld : (expired s.timers[i]).heldNotice = none := hh
    rw [hheld]
    rfl
  case replaced =>
    rw [exec_timerExpiry_plain hg hd hb, if_pos hn, Timer.produce]
    have hheld : (expired s.timers[i]).heldNotice = some n := hh
    rw [hheld]
    rfl
  case overrun =>
    rw [exec_timerExpiry_run hg hd hb, if_neg hr]
    rfl
  case queued =>
    rw [exec_timerExpiry_run hg hd hb, if_pos hr]
    rfl

/-! ### Runs -/

/-- The run whose entry has ended, its value with the results. -/
def valued (r : Run) (op : Op) (v : Half) : Run :=
  { r with results := if op.isWrite = true then r.results else r.results ++ [.word v] }

/-- The head run ends: it leaves the lane, with its timer's notice where that is to be produced (R158, R159). -/
theorem endRun_eq {s : State} {r : Run} {rest : List Run} (hl : s.lane = r :: rest) (hd : r.discard = false) (stop : Nat) :
    s.endRun stop = { s with
      lane := rest
      timers := if s.timers[r.timer].notify = true
        then s.timers.set r.timer (s.timers[r.timer].produce r.expiry (some ⟨r.status, r.done, stop, r.results⟩))
        else s.timers } := by
  rw [State.endRun, hl]
  simp only [hd, Bool.not_false, Bool.true_and]
  split <;> rfl

theorem endRun_frame (stop : Nat) (s : State) : (s.endRun stop).lines = s.lines ∧ (s.endRun stop).lastClocks = s.lastClocks := by
  unfold State.endRun
  split
  · exact ⟨rfl, rfl⟩
  · dsimp only
    split <;> exact ⟨rfl, rfl⟩

theorem modRun_head {s : State} {r : Run} {rest : List Run} (hl : s.lane = r :: rest) (f : Run → Run) :
    s.modRun f = { s with lane := f r :: rest } := by
  rw [State.modRun, hl]
  rfl

/-- An entry that ended OK moves its run on, the last one ends it; any other ends it at its index (R158). -/
theorem finishRunEntry_eq {s : State} {r : Run} {rest : List Run} (hl : s.lane = r :: rest) (hd : r.discard = false) (op : Op)
    (x : AccessEnd) :
    s.finishRunEntry op x =
      let v := valued r op x.value
      if x.status = .ok then
        let u : State := { s with lane := { v with done := r.done + 1, next := r.next + 1, step := .claiming } :: rest }
        if r.next + 1 < (s.timers[r.timer].batch.getD []).length then u else u.endRun noStop
      else State.endRun r.next { s with lane := { v with status := x.status } :: rest } := by
  have hd' : (r.discard = true) = False := by rw [hd]; exact eq_false Bool.false_ne_true
  cases hw : op.isWrite with
  | true =>
    simp only [State.finishRunEntry, hw, if_true, hl, hd', if_false, modRun_head hl, valued]
  | false =>
    have hc : (false = true) = False := eq_false Bool.false_ne_true
    simp only [State.finishRunEntry, hw, hc, if_false, modRun_head hl, hd', valued]
    rfl

theorem exec_timedEntryEnd {s : State} {i : TimerId} {a : Access} {r : Run} {rest : List Run} {es : List RawEntry} {en : RawEntry}
    {op : Op} {e : BusEnd} {x : AccessEnd} (hf : s.inFlight = .access a) (ho : s.arb.owner = .timed i) (horp : s.orphan = false)
    (hl : s.lane = r :: rest) (ht : r.timer = i) (hb : s.timers[i].batch = some es) (hen : es[r.next]? = some en)
    (hop : opOf en.op = some op) (hx : s.accessEnd a e = some x) :
    exec (.timedEntryEnd e) s = .next ((s.cycleDone x.clocks).finishRunEntry op x).grantPoint := by
  subst ht
  have hentry : s.lane.head?.bind s.runEntry = some (en, op) := by
    rw [hl, List.head?_cons, Option.bind_some, State.runEntry, hb, Option.getD_some, hen]
    simp only [hop, Option.map_some]
  simp only [exec, execTimedEntryEnd, hf, ho, hx, horp, hentry, Bool.false_eq_true, if_false]

/-- The timers of the runs left in the lane after a grant. -/
theorem timers_granted {s t : State} (h : Granted s t) : t.lane.map Run.timer = s.lane.map Run.timer := by
  obtain hl | ⟨r, rest, hs, -, ht⟩ := h.lane
  · rw [hl]
  · rw [ht, hs]
    rfl

/-- Settles O51: the end of the entry, then of the run, then the grant. -/
theorem timedEntriesEnd : Obligations.TimedEntriesEnd := by
  intro s i a r rest es en op e x hf ho horp hl ht hb hen hop hx hd results ends
  subst ht
  have hresults : (valued r op x.value).results = results := by
    refine if_congr ?_ rfl rfl
    cases op <;> simp [Op.isWrite]
  have hfin := finishRunEntry_eq (s := s.cycleDone x.clocks) hl hd op x
  have hlength : ((s.cycleDone x.clocks).timers[r.timer].batch.getD []).length = es.length :=
    congrArg (fun b => (Option.getD b []).length) hb
  rw [hlength] at hfin
  have hg := granted_grantPoint ((s.cycleDone x.clocks).finishRunEntry op x)
  have hframe : ((s.cycleDone x.clocks).finishRunEntry op x).lines = s.lines ∧
      ((s.cycleDone x.clocks).finishRunEntry op x).lastClocks = x.clocks.getD s.lastClocks := by
    rw [hfin]
    by_cases hok : x.status = .ok
    · simp only [if_pos hok]
      split
      · exact ⟨rfl, rfl⟩
      · exact endRun_frame _ _
    · simp only [if_neg hok]
      exact endRun_frame _ _
  refine ⟨_, exec_timedEntryEnd hf ho horp hl rfl hb hen hop hx, hg.lines.trans hframe.1, hg.clocks.trans hframe.2, ?_⟩
  have hends {u : Run} {stop : Nat} {t : State} (hu : u.discard = false) (htm : u.timer = r.timer) (hex : u.expiry = r.expiry)
      (hres : u.results = results) (hgr : Granted (State.endRun stop { s.cycleDone x.clocks with lane := u :: rest }) t) :
      ends u.status u.done stop t := by
    obtain ⟨tm, ex, nx, st, rs, dn, sts, dc⟩ := u
    dsimp only at hu htm hex hres
    subst htm hex hres
    rw [endRun_eq (s := { s.cycleDone x.clocks with lane := _ :: rest }) (rest := rest) rfl hu stop] at hgr
    refine ⟨timers_granted hgr, ?_⟩
    refine State.Calm.apart (State.calm_trans (State.calm_of_eq rfl rfl ⟨[], (List.append_nil _).symm⟩ rfl rfl rfl) hgr.calm)
  rw [hfin] at hg ⊢
  generalize State.grantPoint _ = t at hg ⊢
  refine ⟨fun hok hn => ?next, fun hok hn hst => ?last, fun hno => ?stops⟩
  case next =>
    rw [if_pos hok, if_pos hn] at hg
    refine ⟨State.Calm.apart (State.calm_trans (State.calm_of_eq rfl rfl ⟨[], (List.append_nil _).symm⟩ rfl rfl rfl) hg.calm), ?_⟩
    obtain hlane | ⟨r', rest', hs, -, hlane⟩ := hg.lane
    · exact ⟨_, _, hlane, rfl, rfl, rfl, rfl, hresults⟩
    · cases hs
      exact ⟨_, _, hlane, rfl, rfl, rfl, rfl, hresults⟩
  case last =>
    rw [if_pos hok, if_neg (by omega)] at hg
    rw [← hst]
    exact hends (u := { valued r op x.value with done := r.done + 1, next := r.next + 1, step := .claiming }) hd rfl rfl hresults hg
  case stops =>
    rw [if_neg hno] at hg
    exact hends (u := { valued r op x.value with status := x.status }) hd rfl rfl hresults hg

end Sys2Proof.Proofs.Timed
end

section
/-! PROOFS. The ROM census: its start and stop (R69, R74, R75) and its reads (R70 to R73). -/

open Sys2Proof Sys2Proof.Machine Sys2Proof.Proofs.MapLaws Sys2Proof.Proofs.LinkRequests Sys2Proof.Proofs.Claimants
  Sys2Proof.Proofs.RecordRequests Sys2Proof.Proofs.PassFrame Sys2Proof.Proofs.Grants Sys2Proof.Proofs.Refresh
  Sys2Proof.Proofs.Batches

namespace Sys2Proof.Proofs.CensusReads

/-! ### The census's claimants -/

/-- The first claimant but for the census. -/
def otherClaimant (s : State) : Option Claimant := { s with census := {} }.firstClaimant

/-- The census's notices come last (R167). -/
theorem firstClaimant_census (s : State) : s.firstClaimant = (otherClaimant s).or
    (if s.census.heldFind.isSome then some .censusFind else if s.census.endReady then some .censusEnd else none) := by
  unfold otherClaimant State.firstClaimant
  dsimp only
  split
  · rfl
  split
  · rfl
  split
  · rfl
  split
  · rfl
  split
  · rfl
  split
  · rfl
  split
  · rfl
  split <;> rfl

theorem otherClaimant_ne (s : State) : otherClaimant s ≠ some .censusFind ∧ otherClaimant s ≠ some .censusEnd := by
  constructor <;> intro h
  · have hp := (firstClaimant_eq_some_iff.mp h).1
    cases hp
  · have hp := (firstClaimant_eq_some_iff.mp h).1
    cases hp

/-- A finding held is the first claimant where there is no other. -/
theorem firstClaimant_find_iff (s : State) :
    s.firstClaimant = some .censusFind ↔ otherClaimant s = none ∧ s.census.heldFind.isSome = true := by
  rw [firstClaimant_census]
  cases ho : otherClaimant s with
  | some k =>
    have hne := (otherClaimant_ne s).1
    rw [ho] at hne
    simpa using hne
  | none =>
    rw [Option.none_or]
    cases s.census.heldFind.isSome <;> cases s.census.endReady <;> simp

theorem firstClaimant_end_iff (s : State) :
    s.firstClaimant = some .censusEnd ↔ otherClaimant s = none ∧ s.census.endReady = true := by
  rw [firstClaimant_census]
  cases ho : otherClaimant s with
  | some k =>
    have hne := (otherClaimant_ne s).2
    rw [ho] at hne
    simpa using hne
  | none =>
    rw [Option.none_or]
    cases hf : s.census.heldFind <;> cases he : s.census.endReady <;> simp_all [Census.endReady]

/-- A census that holds no notice leaves the first claimant to the others. -/
theorem firstClaimant_other {s : State} (hf : s.census.heldFind = none) (hs : s.census.state ≠ .ending) :
    s.firstClaimant = otherClaimant s := by
  have he : s.census.endReady = false := by simp [Census.endReady, hs]
  rw [firstClaimant_census, hf, he]
  cases otherClaimant s <;> rfl

/-! ### The end of the census (R74) -/

/-- The notice is offered at once. -/
theorem offerCensus_eq (s : State) : s.offerCensus =
    if s.link.canAdmit = true ∧ s.firstClaimant = some .censusEnd then s.admitCensusEnd else s := by
  unfold State.offerCensus
  by_cases hc : s.link.canAdmit = true
  · rw [if_pos hc]
    split
    · next h => rw [if_pos ⟨hc, h⟩]
    · next h => rw [if_neg fun h' => h h'.2]
  · rw [if_neg hc, if_neg fun h => hc h.1]

/-- The census is IDLE, its notice placed and the stops answered behind it, each with its reservation. -/
theorem admitCensusEnd_placed {s : State} (h : s.census.stopWaiters.length ≤ s.link.reservations) :
    s.admitCensusEnd = { s with
      census := { s.census with state := .idle, stopWaiters := [] }
      link := { s.link with
        reservations := s.link.reservations - s.census.stopWaiters.length
        reports := s.link.reports ++
          .notice (.censusEnd s.census.findings s.census.bytesRead s.census.timedOut s.census.reason) ::
            s.census.stopWaiters.map fun tag => .reply 0x96 tag .ok .empty } } := by
  rw [State.admitCensusEnd]
  dsimp only
  rw [each_reply_placed _ kCensusStop (fun tag => tag) .ok (fun _ => .empty) _ (by exact h)]
  simp only [State.notice, State.modCensus, State.modLink, List.append_assoc, List.singleton_append]

/-- The census and the records alone have changed, by records placed. -/
def CensusOnly (s t : State) : Prop :=
  t = { s with census := t.census, link := t.link } ∧ ∃ more, t.link.reports = s.link.reports ++ more

theorem censusOnly_refl (s : State) : CensusOnly s s := ⟨rfl, [], (List.append_nil _).symm⟩

theorem censusOnly_after {s t u : State} (h' : CensusOnly t u) (h : CensusOnly s t) : CensusOnly s u := by
  obtain ⟨he', m', hm'⟩ := h'
  obtain ⟨he, m, hm⟩ := h
  refine ⟨?_, m ++ m', by rw [hm', hm, List.append_assoc]⟩
  rw [he', he]

theorem censusOnly_modCensus (f : Census → Census) (s : State) : CensusOnly s (s.modCensus f) :=
  ⟨rfl, [], (List.append_nil _).symm⟩

theorem admitCensusEnd_only (s : State) : CensusOnly s s.admitCensusEnd ∧
    s.admitCensusEnd.census = { s.census with state := .idle, stopWaiters := [] } := by
  have hcalm := State.calm_each (fun (tag : Nat) (t : State) => t.reply kCensusStop tag .ok .empty)
    (fun _ u => u.calm_reply _ _ _ _) s.census.stopWaiters
    ((s.notice (.censusEnd s.census.findings s.census.bytesRead s.census.timedOut s.census.reason)).modCensus
      fun c => { c with state := .idle, stopWaiters := [] })
  have heq := each_reply_eq s.census.stopWaiters kCensusStop (fun tag => tag) .ok (fun _ => .empty)
    ((s.notice (.censusEnd s.census.findings s.census.bytesRead s.census.timedOut s.census.reason)).modCensus
      fun c => { c with state := .idle, stopWaiters := [] })
  refine ⟨censusOnly_after (t := s.notice (.censusEnd s.census.findings s.census.bytesRead s.census.timedOut s.census.reason))
    (censusOnly_after (t := State.modCensus _ fun c => { c with state := .idle, stopWaiters := [] }) ⟨?_, hcalm.2.2.1⟩
      (censusOnly_modCensus _ _)) ⟨rfl, _, rfl⟩, ?_⟩
  · rw [State.admitCensusEnd]
    rw [heq]
  · rw [State.admitCensusEnd]
    rw [heq]
    rfl

/-! ### Requests -/

theorem startOk {first past : Nat} (hf : first % 0x800 = 0) (hp : past % 0x800 = 0) (hlt : first < past) (hle : past ≤ 0x100000) :
    ¬ (first % 0x800 ≠ 0 || past % 0x800 ≠ 0 || past ≤ first || censusTop < past) = true := by
  have htop : censusTop = 0x100000 := rfl
  simp only [Bool.or_eq_true, decide_eq_true_eq, htop]
  omega

/-- A stop of a census in progress: the tag waits, the census is stopped where it stands, and its notice is offered (R75). -/
theorem serveCensusStop_running {s : State} {h : Hdr} (hs : s.census.state ≠ .idle) : serveCensusStop h s =
    (State.stopCensus { s with census := { s.census with stopWaiters := s.census.stopWaiters ++ [h.tag] } }).offerCensus := by
  unfold serveCensusStop
  split
  · next hi => exact absurd hi hs
  · rfl

theorem stopCensus_reading {s : State} (hs : s.census.state = .scanning) (hr : s.censusReading = true) :
    s.stopCensus = { s with census := { s.census with reason := some .stopped } } := by
  unfold State.stopCensus
  rw [hs]
  exact if_pos hr

theorem stopCensus_ends {s : State} {why : Option CensusReason}
    (h : s.census.state = .ending ∧ why = s.census.reason ∨ s.census.state = .paused ∧ why = some .stopped ∨
      s.census.state = .scanning ∧ s.censusReading = false ∧ why = some .stopped) :
    s.stopCensus = { s with census := { s.census with reason := why, state := .ending } } := by
  unfold State.stopCensus
  obtain ⟨hs, rfl⟩ | ⟨hs, rfl⟩ | ⟨hs, hr, rfl⟩ := h
  · rw [hs]
    show s = { s with census := { s.census with reason := s.census.reason, state := .ending } }
    rw [← hs]
  · rw [hs]
    rfl
  · rw [hs]
    exact if_neg (by rw [hr]; exact Bool.false_ne_true)

/-- Settles O31: the start's checks, and the stop by the census's state. -/
theorem censusStartsAndStops : Obligations.CensusStartsAndStops := by
  refine fun s h hs => ⟨fun first past hbad => ?range, fun first past hf hp hlt hle => ⟨fun hb => ?busy, fun hidle => ?starts⟩,
    fun hidle => ?idle, fun hsc ho horp => ?reading, fun why hwhy => ?stopped⟩
  case range =>
    rw [exec_served (c := .censusStart h first past) rfl hs]
    have hcond : (first % 0x800 ≠ 0 || past % 0x800 ≠ 0 || past ≤ first || censusTop < past) = true := by
      simp only [Bool.or_eq_true, decide_eq_true_eq, or_assoc]
      exact hbad
    rw [route, serveCensusStart, if_pos hcond]
    exact congrArg _ (reply_of_taken rfl _ _ _ _)
  case busy =>
    rw [exec_served (c := .censusStart h first past) rfl hs, route, serveCensusStart, if_neg (startOk hf hp hlt hle), if_pos hb]
    exact congrArg _ (reply_of_taken rfl _ _ _ _)
  case starts =>
    rw [exec_served (c := .censusStart h first past) rfl hs, route, serveCensusStart, if_neg (startOk hf hp hlt hle),
      if_neg (not_not_intro hidle), arbitrate_eq_claimed]
    exact congrArg (fun t => Host.Outcome.next (State.claimed t)) (reply_of_taken rfl _ _ _ _)
  case idle =>
    rw [exec_served (c := .censusStop h) rfl hs, route, serveCensusStop, hidle]
    exact congrArg _ (reply_of_taken rfl _ _ _ _)
  case reading =>
    rw [exec_served (c := .censusStop h) rfl hs, route, serveCensusStop_running (by exact fun hi => nomatch hsc.symm.trans hi),
      stopCensus_reading (by exact hsc) (by simp [State.censusReading, ho, horp])]
    rw [offerCensus_eq, if_neg]
    intro hadm
    have he := ((firstClaimant_end_iff _).mp hadm.2).2
    have hsc' : s.census.state = .ending := of_decide_eq_true (Bool.and_eq_true_iff.mp he).1
    exact nomatch hsc.symm.trans hsc'
  case stopped =>
    intro waiting admits
    have hne : s.census.state ≠ .idle := by
      intro hi
      obtain ⟨h', -⟩ | ⟨h', -⟩ | ⟨h', -⟩ := hwhy <;> exact nomatch hi.symm.trans h'
    have hexec : exec (.censusStop h) s = .next waiting.offerCensus := by
      rw [exec_served (c := .censusStop h) rfl hs, route, serveCensusStop_running (by exact hne), stopCensus_ends (why := why)]
      obtain h' | h' | ⟨hsc, hno, hw⟩ := hwhy
      · exact .inl h'
      · exact .inr (.inl h')
      · refine .inr (.inr ⟨hsc, ?_, hw⟩)
        rw [State.censusReading, Bool.and_eq_false_iff]
        by_cases ho : s.arb.owner = .census
        · have horp : s.orphan = true := by simpa [ho] using hno
          exact .inr (congrArg not horp)
        · exact .inl (decide_eq_false ho)
    refine ⟨fun hf => ?_, fun hno => ?_, fun hadm hle => ?_⟩
    · rw [hexec, offerCensus_eq, if_neg]
      intro hadm
      have he := ((firstClaimant_end_iff _).mp hadm.2).2
      have hf' : s.census.heldFind.isNone = true := (Bool.and_eq_true_iff.mp he).2
      exact hf (Option.isNone_iff_eq_none.mp hf')
    · rw [hexec, offerCensus_eq, if_neg hno]
    · have hlen : waiting.census.stopWaiters.length ≤ waiting.link.reservations := by
        have h1 : waiting.census.stopWaiters.length = s.census.stopWaiters.length + 1 := List.length_append
        have h2 : waiting.link.reservations = s.link.reservations + 1 := rfl
        omega
      rw [hexec, offerCensus_eq, if_pos hadm, admitCensusEnd_placed hlen]
      have hres : waiting.link.reservations - waiting.census.stopWaiters.length =
          s.link.reservations - s.census.stopWaiters.length := by
        have h1 : waiting.census.stopWaiters.length = s.census.stopWaiters.length + 1 := List.length_append
        have h2 : waiting.link.reservations = s.link.reservations + 1 := rfl
        omega
      rw [hres]
      rfl

/-! ### What follows the byte read (R73, R74) -/

/-- The finding is offered, then the end of the scan. -/
def settled (v : State) : State := (v.offerFinding.modCensus Census.afterRead).offerCensus

/-- A notice of the census is placed at once (R73, R74). -/
def Admits (v : State) : Prop := v.link.canAdmit = true ∧ otherClaimant v = none

/-- A finding just made is placed where there is room and no other claimant. -/
theorem offerFinding_some {v : State} {f : Finding} (hf : v.census.heldFind = some f) :
    (Admits v → v.offerFinding = { v with
      link := { v.link with reports := v.link.reports ++ [.notice (.censusFind f)] }
      census := { v.census with heldFind := none } }) ∧
    (¬ Admits v → v.offerFinding = v) := by
  have hcond : (v.link.canAdmit && v.firstClaimant = some .censusFind) = true ↔ Admits v := by
    rw [Bool.and_eq_true, decide_eq_true_eq, firstClaimant_find_iff, hf, Admits]
    simp
  rw [State.offerFinding]
  constructor
  · intro hadm
    rw [if_pos (hcond.mpr hadm), hf]
    rfl
  · intro hno
    rw [if_neg fun h => hno (hcond.mp h)]

theorem offerFinding_none {v : State} (hf : v.census.heldFind = none) : v.offerFinding = v := by
  have hcond : ¬ (v.link.canAdmit && v.firstClaimant = some .censusFind) = true := by
    rw [Bool.and_eq_true, decide_eq_true_eq, firstClaimant_find_iff, hf]
    simp
  rw [State.offerFinding, if_neg hcond]

/-- A scan that is over: its notice is placed at once, or held. -/
theorem offerCensus_over {v : State} (hf : v.census.heldFind = none) (hs : v.census.state = .ending) :
    CensusOnly v v.offerCensus ∧
    (¬ Admits v → v.offerCensus = v) ∧
    (Admits v → v.offerCensus.census = { v.census with state := .idle, stopWaiters := [] } ∧
      (v.census.stopWaiters.length ≤ v.link.reservations → v.offerCensus.link.reports = v.link.reports ++
        .notice (.censusEnd v.census.findings v.census.bytesRead v.census.timedOut v.census.reason) ::
          v.census.stopWaiters.map fun tag => .reply 0x96 tag .ok .empty)) := by
  have hcond : (v.link.canAdmit = true ∧ v.firstClaimant = some .censusEnd) ↔ Admits v := by
    rw [firstClaimant_end_iff, Admits, Census.endReady, hs, hf]
    simp
  rw [offerCensus_eq]
  by_cases hadm : Admits v
  · rw [if_pos (hcond.mpr hadm)]
    obtain ⟨honly, hcen⟩ := admitCensusEnd_only v
    exact ⟨honly, fun hno => absurd hadm hno, fun _ => ⟨hcen, fun hle => by rw [admitCensusEnd_placed hle]⟩⟩
  · rw [if_neg fun h => hadm (hcond.mp h)]
    exact ⟨censusOnly_refl v, fun _ => rfl, fun h => absurd h hadm⟩

/-- One that is not over offers nothing. -/
theorem offerCensus_on {v : State} (h : v.census.state ≠ .ending ∨ v.census.heldFind ≠ none) : v.offerCensus = v := by
  rw [offerCensus_eq, if_neg]
  rintro ⟨-, hc⟩
  have he := ((firstClaimant_end_iff _).mp hc).2
  rw [Census.endReady, Bool.and_eq_true, decide_eq_true_eq, Option.isNone_iff_eq_none] at he
  exact h.elim (fun h => h he.1) fun h => h he.2

theorem afterRead_over {c : Census} {why : CensusReason} (h : c.reason = some why) :
    c.afterRead = { c with state := .ending } := by
  obtain ⟨⟩ := c
  cases h
  rfl

theorem afterRead_on {c : Census} (h : c.reason = none) :
    c.afterRead = if c.heldFind.isSome then { c with state := .paused } else c := by
  rw [Census.afterRead, h]
  exact if_neg Bool.false_ne_true

section
variable {v : State}

/-- No finding, and the scan goes on. -/
theorem settled_on (hf : v.census.heldFind = none) (hr : v.census.reason = none) (hs : v.census.state ≠ .ending) :
    settled v = v := by
  have ha : v.modCensus Census.afterRead = v := by
    rw [State.modCensus, afterRead_on hr, hf]
    rfl
  rw [settled, offerFinding_none hf, ha, offerCensus_on (.inl hs)]

/-- No finding, and the scan is over. -/
theorem settled_over (hf : v.census.heldFind = none) {why : CensusReason} (hr : v.census.reason = some why) :
    settled v = State.offerCensus { v with census := { v.census with state := .ending } } := by
  rw [settled, offerFinding_none hf, State.modCensus, afterRead_over hr]

/-- A finding that is held: the census pauses, or is over. -/
theorem settled_held {f : Finding} (hf : v.census.heldFind = some f) (hadm : ¬ Admits v) :
    settled v = { v with census := { v.census with state := if v.census.reason = none then .paused else .ending } } := by
  have hheld (st : CensusState) : ({ v with census := { v.census with state := st } } : State).offerCensus =
      { v with census := { v.census with state := st } } := offerCensus_on (.inr fun h => nomatch hf.symm.trans h)
  rw [settled, (offerFinding_some hf).2 hadm, State.modCensus]
  by_cases hr : v.census.reason = none
  · rw [afterRead_on hr, if_pos (by rw [hf]; rfl), if_pos hr, hheld]
  · obtain ⟨why, hwhy⟩ := Option.ne_none_iff_exists'.mp hr
    rw [afterRead_over hwhy, if_neg hr, hheld]

/-- A finding that is placed, and the scan goes on. -/
theorem settled_placed {f : Finding} (hf : v.census.heldFind = some f) (hadm : Admits v) (hr : v.census.reason = none)
    (hs : v.census.state ≠ .ending) :
    settled v = { v with
      link := { v.link with reports := v.link.reports ++ [.notice (.censusFind f)] }
      census := { v.census with heldFind := none } } := by
  rw [settled, (offerFinding_some hf).1 hadm, State.modCensus, afterRead_on (by exact hr)]
  exact offerCensus_on (.inl hs)

/-- A finding that is placed, and the scan is over. -/
theorem settled_placed_over {f : Finding} (hf : v.census.heldFind = some f) (hadm : Admits v) {why : CensusReason}
    (hr : v.census.reason = some why) :
    settled v = State.offerCensus { v with
      link := { v.link with reports := v.link.reports ++ [.notice (.censusFind f)] }
      census := { v.census with heldFind := none, state := .ending } } := by
  rw [settled, (offerFinding_some hf).1 hadm, State.modCensus, afterRead_over (by exact hr)]

/-- Whatever is placed or held, the census keeps what its read made of it. -/
theorem settled_frame (hs : v.census.reason = none → v.census.state ≠ .ending) : CensusOnly v (settled v) ∧
    ∃ st ws hf, (settled v).census = { v.census with state := st, stopWaiters := ws, heldFind := hf } := by
  have hover (u : State) (hf : u.census.heldFind = none) (hs : u.census.state = .ending) : CensusOnly u u.offerCensus ∧
      ∃ st ws, u.offerCensus.census = { u.census with state := st, stopWaiters := ws } := by
    obtain ⟨honly, hno, hyes⟩ := offerCensus_over hf hs
    by_cases hadm : Admits u
    · exact ⟨honly, _, _, (hyes hadm).1⟩
    · rw [hno hadm]
      exact ⟨censusOnly_refl u, _, _, rfl⟩
  cases hf : v.census.heldFind with
  | none =>
    cases hr : v.census.reason with
    | none =>
      rw [settled_on hf hr (hs hr)]
      exact ⟨censusOnly_refl v, _, _, _, rfl⟩
    | some why =>
      obtain ⟨honly, st, ws, hc⟩ := hover { v with census := { v.census with state := .ending } } hf rfl
      rw [settled_over hf hr]
      exact ⟨censusOnly_after honly ⟨rfl, [], (List.append_nil _).symm⟩, st, ws, _, hc⟩
  | some f =>
    by_cases hadm : Admits v
    · cases hr : v.census.reason with
      | none =>
        rw [settled_placed hf hadm hr (hs hr)]
        exact ⟨⟨rfl, _, rfl⟩, _, _, _, rfl⟩
      | some why =>
        obtain ⟨honly, st, ws, hc⟩ := hover { v with
          link := { v.link with reports := v.link.reports ++ [.notice (.censusFind f)] }
          census := { v.census with heldFind := none, state := .ending } } rfl rfl
        rw [settled_placed_over hf hadm hr]
        exact ⟨censusOnly_after honly ⟨rfl, _, rfl⟩, st, ws, _, hc⟩
    · rw [settled_held hf hadm]
      exact ⟨⟨rfl, [], (List.append_nil _).symm⟩, _, _, _, rfl⟩

end

/-! ### The state after the read and the grant behind it -/

/-- What the scan's end leaves (R74): the census ENDING with its stops waiting, or IDLE with its notice placed and they answered. -/
def Ended (v t : State) (why : CensusReason) : Prop :=
  t.census.reason = some why ∧
  (¬ Admits v → t.census.state = .ending ∧ t.census.stopWaiters = v.census.stopWaiters) ∧
  (Admits v → t.census.state = .idle ∧ t.census.stopWaiters = [] ∧
    (v.census.stopWaiters.length ≤ v.link.reservations → ∃ more : List Report, t.link.reports = v.link.reports ++
      .notice (.censusEnd v.census.findings v.census.bytesRead v.census.timedOut (some why)) ::
        ((v.census.stopWaiters.map fun tag => .reply 0x96 tag .ok .empty) ++ more)))

section
variable {v t : State} (hcen : t.census = (settled v).census) (hrep : ∃ more, t.link.reports = (settled v).link.reports ++ more)
include hcen

theorem census_on (hf : v.census.heldFind = none) (hr : v.census.reason = none) (hs : v.census.state ≠ .ending) :
    t.census = v.census := by
  rw [hcen, settled_on hf hr hs]

/-- Without a finding none is held. -/
theorem heldFind_none (hf : v.census.heldFind = none) (hs : v.census.reason = none → v.census.state ≠ .ending) :
    t.census.heldFind = none := by
  rw [hcen]
  cases hr : v.census.reason with
  | none =>
    rw [settled_on hf hr (hs hr)]
    exact hf
  | some why =>
    obtain ⟨-, hno, hyes⟩ := offerCensus_over (v := { v with census := { v.census with state := .ending } }) hf rfl
    rw [settled_over hf hr]
    by_cases hadm : Admits v
    · rw [(hyes hadm).1]
      exact hf
    · rw [hno hadm]
      exact hf

include hrep in
theorem ended_of (hf : v.census.heldFind = none) {why : CensusReason} (hr : v.census.reason = some why) : Ended v t why := by
  rw [settled_over hf hr] at hcen hrep
  obtain ⟨-, hno, hyes⟩ := offerCensus_over (v := { v with census := { v.census with state := .ending } }) hf rfl
  by_cases hadm : Admits v
  · obtain ⟨hc, hp⟩ := hyes hadm
    rw [hc] at hcen
    refine ⟨by rw [hcen]; exact hr, fun h => absurd hadm h, fun _ => ⟨by rw [hcen], by rw [hcen], fun hle => ?_⟩⟩
    obtain ⟨more, hm⟩ := hrep
    refine ⟨more, ?_⟩
    rw [hm, hp hle, ← hr, List.append_assoc]
    rfl
  · rw [hno hadm] at hcen
    exact ⟨by rw [hcen]; exact hr, fun _ => ⟨by rw [hcen], by rw [hcen]⟩, fun h => absurd h hadm⟩

/-- Once a reason is set the scan is over. -/
theorem state_over {why : CensusReason} (hr : v.census.reason = some why) :
    t.census.state = .ending ∨ t.census.state = .idle := by
  have hover (u : State) (hf : u.census.heldFind = none) (hs : u.census.state = .ending) :
      u.offerCensus.census.state = .ending ∨ u.offerCensus.census.state = .idle := by
    obtain ⟨-, hno, hyes⟩ := offerCensus_over hf hs
    by_cases hadm : Admits u
    · exact .inr (by rw [(hyes hadm).1])
    · exact .inl (by rw [hno hadm, hs])
  rw [hcen]
  cases hf : v.census.heldFind with
  | none =>
    rw [settled_over hf hr]
    exact hover _ hf rfl
  | some f =>
    by_cases hadm : Admits v
    · rw [settled_placed_over hf hadm hr]
      exact hover _ rfl rfl
    · rw [settled_held hf hadm]
      exact .inl (if_neg (by rw [hr]; simp))

include hrep in
/-- A finding placed. -/
theorem found_placed {f : Finding} (hf : v.census.heldFind = some f) (hadm : Admits v)
    (hs : v.census.reason = none → v.census.state ≠ .ending) :
    t.census.heldFind = none ∧ (v.census.reason = none → t.census.state = v.census.state) ∧
      ∃ more : List Report, t.link.reports = v.link.reports ++ .notice (.censusFind f) :: more := by
  obtain ⟨more, hm⟩ := hrep
  by_cases hr : v.census.reason = none
  · rw [settled_placed hf hadm hr (hs hr)] at hcen hm
    exact ⟨by rw [hcen], fun _ => by rw [hcen], more, by rw [hm, List.append_assoc]; rfl⟩
  · obtain ⟨why, hwhy⟩ := Option.ne_none_iff_exists'.mp hr
    rw [settled_placed_over hf hadm hwhy] at hcen hm
    obtain ⟨⟨-, more', hm'⟩, hno, hyes⟩ := offerCensus_over (v := { v with
      link := { v.link with reports := v.link.reports ++ [.notice (.censusFind f)] }
      census := { v.census with heldFind := none, state := .ending } }) rfl rfl
    refine ⟨?_, fun h => absurd h hr, more' ++ more, ?_⟩
    · rw [hcen]
      by_cases ha : Admits { v with
        link := { v.link with reports := v.link.reports ++ [.notice (.censusFind f)] }
        census := { v.census with heldFind := none, state := .ending } }
      · rw [(hyes ha).1]
      · rw [hno ha]
    · rw [hm, hm', List.append_assoc, List.append_assoc]
      rfl

/-- A finding held. -/
theorem found_held {f : Finding} (hf : v.census.heldFind = some f) (hadm : ¬ Admits v) :
    t.census.heldFind = some f ∧ t.census.state = if v.census.reason = none then .paused else .ending := by
  rw [hcen, settled_held hf hadm]
  exact ⟨hf, rfl⟩

end

/-! ### The byte read (R71, R72) -/

/-- The probe moves on; past the range the scan is over. -/
theorem nextProbe_eq (c : Census) (step : Nat) : c.nextProbe step = { c with
    probe := c.probe + step, pos := c.probe + step, phase := .signature
    state := if c.past ≤ c.probe + step then .ending else c.state
    reason := if c.past ≤ c.probe + step then some (c.reason.getD .done) else c.reason } := by
  unfold Census.nextProbe
  by_cases h : c.past ≤ c.probe + step
  · simp only [h, if_true]
    rfl
  · simp only [h, if_false]

/-- A read is counted before its byte is taken. -/
def countedRead (k : Census) (lost : Nat) : Census := { k with bytesRead := k.bytesRead + 1, timedOut := k.timedOut + lost }

theorem readEnd_eq (k : Census) (b : Byte) (st : Status) :
    k.readEnd b (decide (st = .timeout)) = (countedRead k (if st = .timeout then 1 else 0)).takeByte b := by
  by_cases h : st = .timeout <;> simp [Census.readEnd, countedRead, h]

section
variable {c : Census} {b : Byte}

theorem takeByte_first (hp : c.phase = .signature) (h : c.pos = c.probe) : c.takeByte b = { c with sig := b, pos := c.probe + 1 } := by
  rw [Census.takeByte, hp]
  exact if_pos h

theorem takeByte_signature (hp : c.phase = .signature) (h : c.pos = c.probe + 1) (hs : c.sig = 0x55) (hb : b = 0xAA) :
    c.takeByte b = { c with sum := 0xFF, phase := .length, pos := c.probe + 2 } := by
  rw [Census.takeByte, hp]
  exact (if_neg (by omega)).trans (if_pos (by rw [hs, hb]; decide))

theorem takeByte_noRom (hp : c.phase = .signature) (h : c.pos = c.probe + 1) (hs : ¬ (c.sig = 0x55 ∧ b = 0xAA)) :
    c.takeByte b = c.nextProbe 0x800 := by
  rw [Census.takeByte, hp]
  refine (if_neg (by omega)).trans (if_neg ?_)
  rwa [Bool.and_eq_true, decide_eq_true_eq, decide_eq_true_eq]

theorem takeByte_length (hp : c.phase = .length) (hb : b ≠ 0) :
    c.takeByte b = { c with len := b.toNat, sum := c.sum + b, phase := .body, pos := c.probe + 3 } := by
  rw [Census.takeByte, hp]
  exact if_neg hb

theorem takeByte_zero (hp : c.phase = .length) (hb : b = 0) : c.takeByte b = Census.nextProbe { c with
    len := 0, findings := c.findings + 1, heldFind := some ⟨c.probe, 0, c.sum, .invalid⟩ } 0x800 := by
  have hsum : c.sum + b = c.sum := by rw [hb]; exact BitVec.add_zero _
  have hlen : b.toNat = 0 := by rw [hb]; rfl
  rw [Census.takeByte, hp]
  dsimp only
  rw [if_pos hb, hsum, hlen]
  rfl

theorem takeByte_body (hp : c.phase = .body) (hl : c.pos + 1 ≠ c.probe + c.len * 512) (ht : c.pos + 1 ≠ 0x100000) :
    c.takeByte b = { c with sum := c.sum + b, pos := c.pos + 1 } := by
  rw [Census.takeByte, hp]
  exact (if_neg hl).trans (if_neg ht)

theorem takeByte_last (hp : c.phase = .body) (hl : c.pos + 1 = c.probe + c.len * 512) :
    c.takeByte b = Census.nextProbe { c with
      sum := c.sum + b, pos := c.pos + 1, findings := c.findings + 1
      heldFind := some ⟨c.probe, c.len, c.sum + b, if c.sum + b = 0 then .valid else .invalid⟩ } (romStep c.len) := by
  rw [Census.takeByte, hp]
  exact if_pos hl

theorem takeByte_top (hp : c.phase = .body) (hl : c.pos + 1 ≠ c.probe + c.len * 512) (ht : c.pos + 1 = 0x100000) :
    c.takeByte b = Census.nextProbe { c with
      sum := c.sum + b, pos := c.pos + 1, findings := c.findings + 1
      heldFind := some ⟨c.probe, c.len, c.sum + b, .truncated⟩ } (romStep c.len) := by
  rw [Census.takeByte, hp]
  exact (if_neg hl).trans (if_pos ht)

end

/-- What no byte changes; and a scan that gives no reason is where it was. -/
structure SameScan (c d : Census) : Prop where
  counts : d.bytesRead = c.bytesRead ∧ d.timedOut = c.timedOut
  range : d.first = c.first ∧ d.past = c.past
  marks : d.stopWaiters = c.stopWaiters ∧ d.abandon = c.abandon
  state : d.reason = none → d.state = c.state

theorem sameScan_nextProbe (c : Census) (step : Nat) : SameScan c (c.nextProbe step) := by
  rw [nextProbe_eq]
  refine ⟨⟨rfl, rfl⟩, ⟨rfl, rfl⟩, ⟨rfl, rfl⟩, fun h => ?_⟩
  dsimp only at h ⊢
  by_cases hp : c.past ≤ c.probe + step
  · rw [if_pos hp] at h
    cases h
  · rw [if_neg hp]

theorem sameScan_takeByte (c : Census) (b : Byte) : SameScan c (c.takeByte b) := by
  have hown {d : Census} (hc : d.bytesRead = c.bytesRead ∧ d.timedOut = c.timedOut) (hr : d.first = c.first ∧ d.past = c.past)
      (hm : d.stopWaiters = c.stopWaiters ∧ d.abandon = c.abandon) (hs : d.state = c.state) : SameScan c d := ⟨hc, hr, hm, fun _ => hs⟩
  unfold Census.takeByte
  split
  · split
    · exact hown ⟨rfl, rfl⟩ ⟨rfl, rfl⟩ ⟨rfl, rfl⟩ rfl
    · split
      · exact hown ⟨rfl, rfl⟩ ⟨rfl, rfl⟩ ⟨rfl, rfl⟩ rfl
      · exact sameScan_nextProbe c _
  · dsimp only
    split
    · obtain ⟨hc, hr, hm, hs⟩ := sameScan_nextProbe
        { c with len := b.toNat, sum := c.sum + b, findings := c.findings + 1, heldFind := some ⟨c.probe, b.toNat, c.sum + b, .invalid⟩ } 0x800
      exact ⟨hc, hr, hm, hs⟩
    · exact hown ⟨rfl, rfl⟩ ⟨rfl, rfl⟩ ⟨rfl, rfl⟩ rfl
  · dsimp only
    have hfind (v : Validity) : SameScan c (Census.find { c with sum := c.sum + b, pos := c.pos + 1 } (c.sum + b) v (romStep c.len)) := by
      obtain ⟨hc, hr, hm, hs⟩ := sameScan_nextProbe { c with
        sum := c.sum + b, pos := c.pos + 1, findings := c.findings + 1, heldFind := some ⟨c.probe, c.len, c.sum + b, v⟩ } (romStep c.len)
      exact ⟨hc, hr, hm, hs⟩
    split
    · exact hfind _
    · split
      · exact hfind _
      · exact hown ⟨rfl, rfl⟩ ⟨rfl, rfl⟩ ⟨rfl, rfl⟩ rfl

/-- The end of a census read: the byte is taken, its finding and the end of the scan offered, and the bus granted. -/
theorem exec_censusReadEnd {s : State} {a : Access} {e : BusEnd} {r : AccessEnd} (hf : s.inFlight = .access a)
    (ho : s.arb.owner = .census) (horp : s.orphan = false) (hr : s.accessEnd a e = some r) (hab : s.census.abandon = false) :
    exec (.censusReadEnd e) s = .next (settled { s.cycleDone r.clocks with
      census := (countedRead s.census (if r.status = .timeout then 1 else 0)).takeByte (lowByte r.value) }).grantPoint := by
  have habandon : ((countedRead s.census (if r.status = .timeout then 1 else 0)).takeByte (lowByte r.value)).abandon = false :=
    (sameScan_takeByte _ _).marks.2.trans hab
  have hread : (s.cycleDone r.clocks).modCensus (fun c => c.readEnd (lowByte r.value) (decide (r.status = .timeout))) =
      { s.cycleDone r.clocks with
        census := (countedRead s.census (if r.status = .timeout then 1 else 0)).takeByte (lowByte r.value) } := by
    rw [State.modCensus, readEnd_eq]
    rfl
  have hcond : ({ s.cycleDone r.clocks with
      census := (countedRead s.census (if r.status = .timeout then 1 else 0)).takeByte (lowByte r.value) } : State).census.abandon = true ↔
        False := by rw [habandon]; exact iff_false_intro Bool.false_ne_true
  simp only [exec, execCensusReadEnd, hf, ho, hr, horp, Bool.false_eq_true, if_false, hread, if_neg hcond.mp]
  rfl

theorem calm_settled {s v : State} {clocks : Option Nat} {c : Census} (hv : v = { s.cycleDone clocks with census := c })
    (h : CensusOnly v (settled v)) : State.Calm { s with census := (settled v).census } (settled v) := by
  subst hv
  exact State.calm_of_eq (congrArg State.kept h.1 :) (congrArg State.chans h.1 :) h.2 (congrArg State.store h.1 :)
    (congrArg State.storeWaits h.1 :) (congrArg State.regions h.1 :)

/-- Settles O32: each phase's byte, then what follows the read. -/
theorem censusReadsAreTaken : Obligations.CensusReadsAreTaken := by
  intro s a e r hf ho horp hplan hr hsc hreason habandon hheld b k lost admits
  have hexec := exec_censusReadEnd hf ho horp hr habandon
  obtain ⟨⟨hbytes, hlost⟩, ⟨hfirst, hpast⟩, ⟨hstops, -⟩, hstate⟩ := sameScan_takeByte (countedRead k lost) b
  have hv : ∃ v : State, v = { s.cycleDone r.clocks with census := (countedRead k lost).takeByte b } := ⟨_, rfl⟩
  obtain ⟨v, hv⟩ := hv
  have hexec' : exec (.censusReadEnd e) s = .next (settled v).grantPoint := by rw [hv]; exact hexec
  have hvc : v.census = (countedRead k lost).takeByte b := by rw [hv]
  have hadm : Admits v ↔ admits := by
    have hother : s.firstClaimant = otherClaimant s := firstClaimant_other hheld (by rw [hsc]; decide)
    show _ ↔ s.link.canAdmit = true ∧ s.firstClaimant = none
    rw [hother, hv]
    exact .rfl
  have hon : v.census.reason = none → v.census.state = .scanning := by
    intro h
    rw [hvc] at h ⊢
    exact (hstate h).trans hsc
  have hon' : v.census.reason = none → v.census.state ≠ .ending := fun h => by rw [hon h]; decide
  obtain ⟨honly, st, ws, hfd, hframe⟩ := settled_frame (v := v) hon'
  have hg := granted_grantPoint (settled v)
  have hcen : (settled v).grantPoint.census = (settled v).census := (congrArg (fun q => q.2.1) hg.calm.1 :)
  have hrep := hg.calm.2.2.1
  have hlines : (settled v).grantPoint.lines = s.lines := by
    rw [hg.lines, honly.1, hv]
    rfl
  have hapart : State.Apart { s with census := (settled v).grantPoint.census } (settled v).grantPoint := by
    rw [hcen]
    exact (State.calm_trans (calm_settled hv honly) hg.calm).apart
  have hlink : v.link = s.link := by rw [hv]; rfl
  generalize (settled v).grantPoint = t at hexec' hcen hrep hlines hapart
  have hframe' : t.census = { v.census with state := st, stopWaiters := ws, heldFind := hfd } := hcen.trans hframe
  refine ⟨t, hexec', hapart, hlines, by rw [hframe', hvc]; exact hbytes, by rw [hframe', hvc]; exact hlost,
    by rw [hframe', hvc]; exact hfirst, by rw [hframe', hvc]; exact hpast, ?_⟩
  intro ended unfinished moves finds goesOn
  have hended {why : CensusReason} (hh : v.census.heldFind = none) (hw : v.census.reason = some why)
      (hfs : v.census.findings = k.findings) : ended why := by
    obtain ⟨hrs, hno, hyes⟩ := ended_of hcen hrep hh hw
    have hw' : v.census.stopWaiters = k.stopWaiters := by rw [hvc]; exact hstops
    have hb' : v.census.bytesRead = k.bytesRead + 1 := by rw [hvc]; exact hbytes
    have hl' : v.census.timedOut = k.timedOut + lost := by rw [hvc]; exact hlost
    rw [hadm, hw'] at hno
    rw [hadm, hw', hlink, hb', hl', hfs] at hyes
    exact ⟨hrs, hno, hyes⟩
  have hgoes (hh : v.census.heldFind = none) (hfs : v.census.findings = k.findings) (hp : v.census.probe = k.probe)
      (hrs : v.census.reason = k.reason) : goesOn := by
    refine ⟨⟨by rw [hframe']; exact hfs, ?_, fun hst => hended hh (hrs.trans hst) hfs⟩, by rw [hframe']; exact hp,
      by rw [hframe']; exact hrs, fun hnone => ?_⟩
    · exact heldFind_none hcen hh hon'
    · rw [census_on hcen hh (hrs.trans hnone) (hon' (hrs.trans hnone))]
      exact hon (hrs.trans hnone)
  have hmoves {step : Nat} {c1 : Census} (hc1 : v.census = c1.nextProbe step) (hp : c1.probe = k.probe) (hps : c1.past = k.past)
      (hrs : c1.reason = k.reason) : moves step := by
    rw [nextProbe_eq, hp, hps, hrs] at hc1
    refine ⟨by rw [hframe', hc1], by rw [hframe', hc1], by rw [hframe', hc1], fun hle => ?_, fun hlt => ?_⟩
    · have hsome : v.census.reason = some (k.reason.getD .done) := by rw [hc1]; exact if_pos hle
      exact ⟨by rw [hframe']; exact hsome, state_over hcen hsome⟩
    · rw [hframe', hc1]
      exact if_neg (Nat.not_le.mpr hlt)
  have hfinds {step : Nat} {c1 : Census} {sum : Byte} {len : Nat} {val : Validity} (hc1 : v.census = c1.nextProbe step)
      (hp : c1.probe = k.probe) (hps : c1.past = k.past) (hrs : c1.reason = k.reason) (hfs : c1.findings = k.findings + 1)
      (hfi : c1.heldFind = some ⟨k.probe, len, sum, val⟩) : finds sum len val step := by
    have hm := hmoves hc1 hp hps hrs
    rw [nextProbe_eq, hp, hps, hrs] at hc1
    have hfv : v.census.heldFind = some ⟨k.probe, len, sum, val⟩ := by rw [hc1]; exact hfi
    have hnone : v.census.reason = none ↔ k.reason = none ∧ k.probe + step < k.past := by
      have hrv : v.census.reason = if k.past ≤ k.probe + step then some (k.reason.getD .done) else k.reason := by rw [hc1]
      rw [hrv]
      by_cases hle : k.past ≤ k.probe + step
      · simp [hle]
      · rw [if_neg hle]
        exact (and_iff_left (Nat.not_le.mp hle)).symm
    refine ⟨by rw [hframe', hc1]; exact hfs, hm, fun ha => ?_, fun hna => ?_⟩
    · obtain ⟨hh, hst, more, hmore⟩ := found_placed hcen hrep hfv (hadm.mpr ha) hon'
      refine ⟨hh, fun hn hlt => ?_, fun hs' => ?_, more, by rw [hmore, hlink]⟩
      · rw [hst (hnone.mpr ⟨hn, hlt⟩)]
        exact hon (hnone.mpr ⟨hn, hlt⟩)
      · obtain ⟨why, hwhy⟩ := Option.ne_none_iff_exists'.mp (fun h => nomatch hs'.symm.trans (hnone.mp h).1)
        exact state_over hcen hwhy
    · obtain ⟨hh, hst⟩ := found_held hcen hfv (fun h => hna (hadm.mp h))
      refine ⟨hh, hst.trans ?_⟩
      exact if_congr hnone rfl rfl
  refine ⟨fun hp hpos => ?first, fun hp hpos hs hb => ?signature, fun hp hpos hno => ?noRom, fun hp hb => ?length,
    fun hp hb => ?zero, fun hp hl ht => ?body, fun hp hl => ?last, fun hp hl ht => ?top⟩
  case first =>
    have hv1 := hvc.trans (takeByte_first hp hpos)
    exact ⟨hgoes (by rw [hv1]; exact hheld) (by rw [hv1]; rfl) (by rw [hv1]; rfl) (by rw [hv1]; rfl),
      by rw [hframe', hv1], by rw [hframe', hv1]; rfl, by rw [hframe', hv1]; exact hp⟩
  case signature =>
    have hv1 := hvc.trans (takeByte_signature hp hpos hs hb)
    exact ⟨hgoes (by rw [hv1]; exact hheld) (by rw [hv1]; rfl) (by rw [hv1]; rfl) (by rw [hv1]; rfl),
      by rw [hframe', hv1], by rw [hframe', hv1], by rw [hframe', hv1]; rfl⟩
  case noRom =>
    have hv1 := hvc.trans (takeByte_noRom hp hpos hno)
    have hv2 := hv1.trans (nextProbe_eq _ _)
    have hh : v.census.heldFind = none := by rw [hv2]; exact hheld
    have hfs : v.census.findings = k.findings := by rw [hv2]; rfl
    have hrs : v.census.reason = if k.past ≤ k.probe + 0x800 then some (k.reason.getD .done) else k.reason := by rw [hv2]; rfl
    refine ⟨⟨by rw [hframe']; exact hfs, heldFind_none hcen hh hon', fun hst => hended hh ?_ hfs⟩, hmoves hv1 rfl rfl rfl,
      fun hnone hle => hended hh ?_ hfs, fun hnone hlt => ?_⟩
    · rw [hrs, hst]
      split <;> rfl
    · rw [hrs, if_pos hle, hnone]
      rfl
    · have hn : v.census.reason = none := by rw [hrs, if_neg (Nat.not_le.mpr hlt), hnone]
      rw [census_on hcen hh hn (hon' hn)]
      exact hon hn
  case length =>
    have hv1 := hvc.trans (takeByte_length hp hb)
    exact ⟨hgoes (by rw [hv1]; exact hheld) (by rw [hv1]; rfl) (by rw [hv1]; rfl) (by rw [hv1]; rfl),
      by rw [hframe', hv1], by rw [hframe', hv1]; rfl, by rw [hframe', hv1], by rw [hframe', hv1]; rfl⟩
  case zero => exact hfinds (hvc.trans (takeByte_zero hp hb)) rfl rfl rfl rfl rfl
  case body =>
    have hv1 := hvc.trans (takeByte_body hp hl ht)
    exact ⟨hgoes (by rw [hv1]; exact hheld) (by rw [hv1]; rfl) (by rw [hv1]; rfl) (by rw [hv1]; rfl),
      by rw [hframe', hv1]; rfl, by rw [hframe', hv1]; rfl, by rw [hframe', hv1]; exact hp⟩
  case last => exact hfinds (hvc.trans (takeByte_last hp hl)) rfl rfl rfl rfl rfl
  case top => exact hfinds (hvc.trans (takeByte_top hp hl ht)) rfl rfl rfl rfl rfl

end Sys2Proof.Proofs.CensusReads
end

section
/-! PROOFS. How a pass begins, by a trigger or a demand (R126, R130, R133), what it leaves alone, and the notice the relay forms of its
lines (R141 to R143). -/

open Sys2Proof Sys2Proof.Machine Sys2Proof.Proofs.MapLaws Sys2Proof.Proofs.PassLaws Sys2Proof.Proofs.Laws Sys2Proof.Proofs.Trickle
  Sys2Proof.Proofs.PassFrame Sys2Proof.Proofs.Grants

namespace Sys2Proof.Proofs.Demands

/-! ### The beginning of a pass -/

/-- A region's entry but for its pass and the requests that wait for it. -/
def SameEntry (g h : Region) : Prop :=
  h = { g with ship := { g.ship with running := h.ship.running, waiters := h.ship.waiters }, flushWaiters := h.flushWaiters }

theorem sameEntry_trans {g h k : Region} (h1 : SameEntry g h) (h2 : SameEntry h k) : SameEntry g k := by
  rw [SameEntry] at h1 h2 ⊢
  rw [h2, h1]

/-- Every entry of the region table is the same but for its pass. -/
def SameMap (s t : State) : Prop := ∀ r : RegionId, SameEntry s.regions[r] t.regions[r]

theorem sameMap_refl (s : State) : SameMap s s := fun _ => rfl

theorem sameMap_after {s t u : State} (h' : SameMap t u) (h : SameMap s t) : SameMap s u := fun r => sameEntry_trans (h r) (h' r)

theorem SameMap.mirror {s t : State} (h : SameMap s t) (a : Nat) : t.mirrorAt a = s.mirrorAt a := by
  have hr (r : RegionId) : (t.regions[r].isMirror && t.regions[r].fields.contains a) =
      (s.regions[r].isMirror && s.regions[r].fields.contains a) := by
    rw [h r]
    rfl
  simp only [State.mirrorAt, hr]

theorem SameMap.entries {s t : State} (h : SameMap s t) (r : RegionId) : t.regions[r].ship.entries = s.regions[r].ship.entries := by
  rw [h r]

theorem SameMap.cond {s t : State} (h : SameMap s t) (r : RegionId) : t.regions[r].cond = s.regions[r].cond := by
  rw [h r]

/-- A region that is not DROPPING stays when its pass ends. -/
theorem regions_endPass_kept {id : RegionId} {s : State} (hd : s.regions[id].cond ≠ .dropping) :
    ∃ ws : List Nat, (s.endPass id).regions = s.regions.set id { s.regions[id] with
      ship := { s.regions[id].ship with running := false, waiters := {} }, flushWaiters := ws } := by
  have hr : (toldBlocks id s).regions = s.regions.set id
      { s.regions[id] with ship := { s.regions[id].ship with running := false, waiters := {} } } :=
    (congrArg State.regions (toldBlocks_eq id s) :)
  rw [endPass_eq_told]
  split
  · unfold State.mapPassEnded
    dsimp only
    have hcond : ((toldBlocks id s).modRegion id fun g => { g with flushWaiters := [] }).regions[id].cond = s.regions[id].cond := by
      rw [State.regions_modRegion, if_pos rfl, hr]
      exact (congrArg Region.cond (getElem_set_same _ _ _) :)
    rw [if_neg]
    · rw [each_replyNow_eq]
      refine ⟨[], ?_⟩
      simp only [State.modRegion, hr, getElem_set_same, Vector.set_set]
    · rw [hr, getElem_set_same]
      exact hd
  · exact ⟨_, hr⟩

/-- A pass that begins with bytes queued joins the fill line. -/
theorem beginPass_queued {id : RegionId} {s : State} (he : s.regions[id].ship.entries ≠ []) :
    s.beginPass id = { s with
      regions := s.regions.set id { s.regions[id] with ship := { s.regions[id].ship with running := true } }
      fillLine := s.fillLine ++ [id] } := by
  have he' : (s.modShip id fun q => { q with running := true }).regions[id].ship.entries.isEmpty = false := by
    rw [State.modShip, State.regions_modRegion, if_pos rfl]
    simpa using he
  rw [State.beginPass, he']
  rfl

/-- One that begins with none ends at once. -/
theorem beginPass_empty {id : RegionId} {s : State} (he : s.regions[id].ship.entries = []) :
    s.beginPass id = (s.modShip id fun q => { q with running := true }).endPass id := by
  have he' : (s.modShip id fun q => { q with running := true }).regions[id].ship.entries.isEmpty = true := by
    rw [State.modShip, State.regions_modRegion, if_pos rfl]
    simpa using he
  rw [State.beginPass, he']
  rfl

/-- What the beginning of a pass on an IDLE region makes of the region table. -/
theorem regions_beginPass {id : RegionId} {s : State} (hd : s.regions[id].cond ≠ .dropping) :
    SameMap s (s.beginPass id) ∧ (∀ r : RegionId, r ≠ id → (s.beginPass id).regions[r] = s.regions[r]) ∧
      ((s.beginPass id).regions[id].ship.running = true ↔ s.regions[id].ship.entries ≠ []) := by
  by_cases he : s.regions[id].ship.entries = []
  · have hd' : (s.modShip id fun q => { q with running := true }).regions[id].cond ≠ .dropping := by
      rw [regions_modShip, if_pos rfl]
      exact hd
    obtain ⟨ws, hw⟩ := regions_endPass_kept hd'
    rw [beginPass_empty he]
    have hreg (r : RegionId) : ((s.modShip id fun q => { q with running := true }).endPass id).regions[r] =
        if r = id then { s.regions[id] with
          ship := { s.regions[id].ship with running := false, waiters := {} }, flushWaiters := ws } else s.regions[r] := by
      rw [hw, getElem_set_fin, regions_modShip, if_pos rfl]
      split
      · rfl
      · next hr => rw [regions_modShip, if_neg hr]
    refine ⟨fun r => ?_, fun r hr => (hreg r).trans (if_neg hr), ?_⟩
    · by_cases hr : r = id
      · subst hr
        rw [hreg r, if_pos rfl]
        rfl
      · rw [hreg r, if_neg hr]
        rfl
    · rw [hreg id, if_pos rfl]
      simp [-Fin.getElem_fin, he]
  · rw [beginPass_queued he]
    have hreg (r : RegionId) := getElem_set_fin s.regions id r
      { s.regions[id] with ship := { s.regions[id].ship with running := true } }
    refine ⟨fun r => ?_, fun r hr => (hreg r).trans (if_neg hr), ?_⟩
    · by_cases hr : r = id
      · subst hr
        show SameEntry _ (Vector.set _ _ _)[r]
        rw [hreg r, if_pos rfl]
        rfl
      · show SameEntry _ (Vector.set _ _ _)[r]
        rw [hreg r, if_neg hr]
        rfl
    · exact ⟨fun _ => he, fun _ => (congrArg (fun g => g.ship.running) ((hreg id).trans (if_pos rfl)) :)⟩

/-- The fill line and the relay after the beginning of a pass: for the relay, unless it awaits it, nothing has happened. -/
theorem fillLine_beginPass (id : RegionId) (s : State) :
    (s.beginPass id).fillLine = s.fillLine ++ if s.regions[id].ship.entries = [] then [] else [id] := by
  by_cases he : s.regions[id].ship.entries = []
  · rw [beginPass_empty he, fillLine_endPass, if_pos he, List.append_nil]
    rfl
  · rw [beginPass_queued he, if_neg he]

theorem setRemove_of_not_mem {n : Nat} {x : Fin n} {xs : List (Fin n)} (h : x ∉ xs) : setRemove x xs = xs := by
  unfold setRemove
  exact List.filter_eq_self.mpr fun y hy => by simpa using fun he : y = x => h (he ▸ hy)

theorem relay_beginPass {id : RegionId} {s : State} (hr : id ∉ s.relay.awaited) (hh : HandOk s) :
    (s.beginPass id).relay = s.relay := by
  by_cases he : s.regions[id].ship.entries = []
  · have hhand : ((s.relay.hand = .flushing : Bool) && s.relay.awaited.isEmpty) = false := by
      by_cases hf : s.relay.hand = .flushing
      · have := hh.mp hf
        simpa [hf] using this
      · simp [hf]
    rw [beginPass_empty he, relay_endPass]
    split
    · show ({ s.relay with
          awaited := setRemove id s.relay.awaited
          hand := if s.relay.hand = .flushing && (setRemove id s.relay.awaited).isEmpty then .claiming else s.relay.hand } : Relay) = _
      rw [setRemove_of_not_mem hr, hhand]
      rfl
    · rfl
  · rw [beginPass_queued he]

/-! ### Demands and triggers -/

/-- A state that later passes, of which the relay awaits none, have left as it was for the relay: its record and lines, the passes
that run, those whose end they tell it, and the regions in the fill line. -/
structure Ahead (s t : State) : Prop where
  relay : t.relay = s.relay
  lines : t.lines = s.lines
  runs : ∀ r : RegionId, s.regions[r].ship.running = true → t.regions[r].ship.running = true ∧
    (s.regions[r].ship.waiters.relay = true → t.regions[r].ship.waiters.relay = true)
  line : ∀ r : RegionId, r ∈ s.fillLine → r ∈ t.fillLine

theorem Ahead.refl (s : State) : Ahead s s := ⟨rfl, rfl, fun _ h => ⟨h, id⟩, fun _ h => h⟩

theorem Ahead.after {s t u : State} (h' : Ahead t u) (h : Ahead s t) : Ahead s u where
  relay := h'.relay.trans h.relay
  lines := h'.lines.trans h.lines
  runs r hr := ⟨(h'.runs r (h.runs r hr).1).1, fun hw => (h'.runs r (h.runs r hr).1).2 ((h.runs r hr).2 hw)⟩
  line r hr := h'.line r (h.line r hr)

theorem Ahead.of_eq {s t : State} (hr : t.relay = s.relay) (hl : t.lines = s.lines) (hg : t.regions = s.regions)
    (hf : t.fillLine = s.fillLine) : Ahead s t :=
  ⟨hr, hl, fun r h => by rw [hg]; exact ⟨h, id⟩, fun r h => by rw [hf]; exact h⟩

theorem Ahead.ite {p : Prop} [Decidable p] {s t u : State} (h : p → Ahead s t) (h' : ¬p → Ahead s u) :
    Ahead s (if p then t else u) := by
  split
  · next hp => exact h hp
  · next hp => exact h' hp

theorem ahead_modShip (id : RegionId) (f : ShipQueue → ShipQueue) (s : State)
    (hr : (f s.regions[id].ship).running = s.regions[id].ship.running)
    (hw : s.regions[id].ship.waiters.relay = true → (f s.regions[id].ship).waiters.relay = true) : Ahead s (s.modShip id f) := by
  refine ⟨rfl, rfl, fun r h => ?_, fun _ h => h⟩
  rw [regions_modShip]
  by_cases hid : r = id
  · subst hid
    rw [if_pos rfl]
    exact ⟨hr.trans h, hw⟩
  · rw [if_neg hid]
    exact ⟨h, fun h => h⟩

/-- A pass begins on an IDLE region that the relay does not await. -/
theorem ahead_beginPass {id : RegionId} {s : State} (hrun : s.regions[id].ship.running = false)
    (hd : s.regions[id].cond ≠ .dropping) (ha : id ∉ s.relay.awaited) (hh : HandOk s) : Ahead s (s.beginPass id) := by
  obtain ⟨-, hother, -⟩ := regions_beginPass hd
  refine ⟨relay_beginPass ha hh, (passed_beginPass id s).lines, fun r hr => ?_, fun r hr => ?_⟩
  · have hne : r ≠ id := fun h => by
      subst h
      rw [hrun] at hr
      cases hr
    rw [hother r hne]
    exact ⟨hr, fun h => h⟩
  · rw [fillLine_beginPass]
    exact List.mem_append_left _ hr

/-- An IDLE region is not DROPPING, and the relay does not await it. -/
theorem idle_of_passesOk {s : State} (h : PassesOk s) {id : RegionId} (hr : s.regions[id].ship.running = false) :
    s.regions[id].cond ≠ .dropping ∧ id ∉ s.relay.awaited := by
  have hrun := ((passesOk_iff s).mp h).1
  exact ⟨fun hd => hrun.not_awaits hr .map (.inl hd), hrun.not_awaits hr .relay⟩

theorem ahead_trigger (id : RegionId) {s : State} (h : PassesOk s) : Ahead s (s.trigger id) := by
  refine .ite (fun hc => ?_) fun _ => .refl s
  rw [Bool.and_eq_true, Bool.not_eq_true'] at hc
  obtain ⟨hd, ha⟩ := idle_of_passesOk h hc.2
  exact ahead_beginPass hc.2 hd ha ((passesOk_iff s).mp h).2

theorem sameMap_modShip (id : RegionId) (f : ShipQueue → ShipQueue) (s : State)
    (hf : f s.regions[id].ship =
      { s.regions[id].ship with running := (f s.regions[id].ship).running, waiters := (f s.regions[id].ship).waiters }) :
    SameMap s (s.modShip id f) := by
  intro r
  rw [regions_modShip]
  by_cases hid : r = id
  · subst hid
    rw [if_pos rfl, hf]
    rfl
  · rw [if_neg hid]
    rfl

/-- A demand on a region that is IDLE and not DROPPING, or whose pass runs. -/
theorem ahead_demand (id : RegionId) (d : Demander) {s : State} (hh : HandOk s)
    (hi : s.regions[id].ship.running = false → s.regions[id].cond ≠ .dropping ∧ id ∉ s.relay.awaited) : Ahead s (s.demand id d) := by
  have hw : Ahead s (s.modShip id fun q => { q with waiters := q.waiters.add d }) := by
    refine ahead_modShip id _ s rfl fun hr => ?_
    cases d
    · exact hr
    · rfl
    · exact hr
  refine .after (.ite (fun _ => .refl _) fun hrun => ?_) hw
  have hrun' : (s.modShip id fun q => { q with waiters := q.waiters.add d }).regions[id].ship.running = false := by simpa using hrun
  have hrs : s.regions[id].ship.running = false := by
    rw [regions_modShip, if_pos rfl] at hrun'
    exact hrun'
  obtain ⟨hd, ha⟩ := hi hrs
  refine ahead_beginPass hrun' ?_ ha hh
  rw [regions_modShip, if_pos rfl]
  exact hd

theorem sameMap_demand (id : RegionId) (d : Demander) {s : State}
    (hi : s.regions[id].ship.running = false → s.regions[id].cond ≠ .dropping) : SameMap s (s.demand id d) := by
  have hw : SameMap s (s.modShip id fun q => { q with waiters := q.waiters.add d }) := sameMap_modShip id _ s rfl
  unfold State.demand
  dsimp only
  split
  · exact hw
  · next hrun =>
    have hrun' : (s.modShip id fun q => { q with waiters := q.waiters.add d }).regions[id].ship.running = false := by simpa using hrun
    rw [regions_modShip, if_pos rfl] at hrun'
    refine sameMap_after (regions_beginPass ?_).1 hw
    rw [regions_modShip, if_pos rfl]
    exact hi hrun'

/-! ### The demands of a notice's lines (R143) -/

/-- The MIRROR region that holds the last_system_address of the channel a line is linked to. -/
def linkedRegion (s : State) (l : LineId) : Option RegionId :=
  s.lines[l].linked.bind fun c => s.mirrorAt s.chans[c].lastSystemAddress

theorem linkedRegion_eq_some {s : State} {l : LineId} {id : RegionId} :
    linkedRegion s l = some id ↔ ∃ c : ChanId, s.lines[l].linked = some c ∧ s.mirrorAt s.chans[c].lastSystemAddress = some id :=
  Option.bind_eq_some_iff

theorem linkedRegion_congr {s t : State} (hm : SameMap s t) (hl : t.lines = s.lines)
    (hc : ∀ c : ChanId, t.chans[c].lastSystemAddress = s.chans[c].lastSystemAddress) (l : LineId) :
    linkedRegion t l = linkedRegion s l := by
  simp only [linkedRegion, hl, hc, hm.mirror]

theorem demandLinked_none {s : State} {l : LineId} (h : linkedRegion s l = none) : s.demandLinked l = s := by
  unfold State.demandLinked
  unfold linkedRegion at h
  split
  · rfl
  · next c hc =>
    rw [hc, Option.bind_some] at h
    rw [h]

theorem demandLinked_some {s : State} {l : LineId} {id : RegionId} (h : linkedRegion s l = some id) :
    s.demandLinked l = (s.modRelay fun r => { r with awaited := setInsert id r.awaited }).demand id .relay := by
  obtain ⟨c, hc, hm⟩ := linkedRegion_eq_some.mp h
  simp only [State.demandLinked, hc, hm]

/-- What the demands of lines leave of a state and make of it, in a state in which the laws of the passes hold. -/
structure Linked (ls : List LineId) (s t : State) : Prop where
  law : Running t
  map : SameMap s t
  lines : t.lines = s.lines
  chans : ∀ c : ChanId, bare t.chans[c] = bare s.chans[c]
  runs : ∀ r : RegionId, s.regions[r].ship.running = true → t.regions[r].ship.running = true
  begun : ∀ r : RegionId, t.regions[r].ship.running = true → s.regions[r].ship.running = true ∨ s.regions[r].ship.entries ≠ []
  awaited : ∀ r : RegionId, r ∈ t.relay.awaited ↔ r ∈ s.relay.awaited ∨
    (∃ l ∈ ls, linkedRegion s l = some r) ∧ (s.regions[r].ship.entries ≠ [] ∨ s.regions[r].ship.running = true)

theorem Linked.address {ls : List LineId} {s t : State} (h : Linked ls s t) (c : ChanId) :
    t.chans[c].lastSystemAddress = s.chans[c].lastSystemAddress := (congrArg Chan.lastSystemAddress (h.chans c) :)

theorem linked_nil {s : State} (h : Running s) : Linked [] s s :=
  ⟨h, sameMap_refl s, rfl, fun _ => rfl, fun _ h => h, fun _ h => .inl h, fun r => by simp⟩

/-- One line's demand: its region is awaited where there is something to ship, and otherwise its pass has ended at once. -/
theorem awaited_demandLinked {s : State} {l : LineId} (h : Running s) (r : RegionId) :
    r ∈ (s.demandLinked l).relay.awaited ↔ r ∈ s.relay.awaited ∨
      linkedRegion s l = some r ∧ (s.regions[r].ship.entries ≠ [] ∨ s.regions[r].ship.running = true) := by
  cases hl : linkedRegion s l with
  | none => rw [demandLinked_none hl]; simp
  | some id =>
    rw [demandLinked_some hl]
    have hreg : ((s.modRelay fun r => { r with awaited := setInsert id r.awaited }).modShip id fun q =>
        { q with waiters := q.waiters.add .relay }).regions[id] =
          { s.regions[id] with ship := { s.regions[id].ship with waiters := s.regions[id].ship.waiters.add .relay } } := by
      rw [regions_modShip, if_pos rfl]
      rfl
    unfold State.demand
    dsimp only
    by_cases hrun : s.regions[id].ship.running = true
    · rw [hreg, if_pos hrun]
      show r ∈ setInsert id s.relay.awaited ↔ _
      rw [mem_setInsert, or_comm]
      refine or_congr_right ⟨?_, fun hr => (Option.some.inj hr.1).symm⟩
      rintro rfl
      exact ⟨rfl, .inr hrun⟩
    · rw [hreg, if_neg hrun]
      by_cases he : s.regions[id].ship.entries = []
      · rw [beginPass_empty (by rw [hreg]; exact he), relay_endPass, regions_modShip, if_pos rfl, hreg]
        have hno : id ∉ s.relay.awaited := h.not_awaits (by simpa using hrun) .relay
        show r ∈ setRemove id (setInsert id s.relay.awaited) ↔ _
        rw [mem_setRemove, mem_setInsert]
        constructor
        · rintro ⟨hr | hr, hne⟩
          · exact absurd hr hne
          · exact .inl hr
        · rintro (hr | ⟨hr, hq⟩)
          · exact ⟨.inr hr, fun heq => hno (heq ▸ hr)⟩
          · cases hr
            exact absurd he (hq.resolve_right hrun)
      · rw [beginPass_queued (by rw [hreg]; exact he)]
        show r ∈ setInsert id s.relay.awaited ↔ _
        rw [mem_setInsert, or_comm]
        refine or_congr_right ⟨?_, fun hr => (Option.some.inj hr.1).symm⟩
        rintro rfl
        exact ⟨rfl, .inl he⟩

/-- Which passes run after a demand. -/
theorem running_of_demand (id : RegionId) (d : Demander) {s : State}
    (hi : s.regions[id].ship.running = false → s.regions[id].cond ≠ .dropping) (r : RegionId) :
    (s.demand id d).regions[r].ship.running = true ↔
      s.regions[r].ship.running = true ∨ r = id ∧ s.regions[r].ship.entries ≠ [] := by
  have hreg (r : RegionId) := regions_modShip s id r fun q => { q with waiters := q.waiters.add d }
  have hid : (s.modShip id fun q => { q with waiters := q.waiters.add d }).regions[id] =
      { s.regions[id] with ship := { s.regions[id].ship with waiters := s.regions[id].ship.waiters.add d } } :=
    (hreg id).trans (if_pos rfl)
  unfold State.demand
  dsimp only
  by_cases hrun : s.regions[id].ship.running = true
  · rw [if_pos (by rw [hid]; exact hrun), hreg]
    by_cases hr : r = id
    · subst hr
      rw [if_pos rfl]
      simp [-Fin.getElem_fin, hrun]
    · rw [if_neg hr]
      simp [hr]
  · rw [if_neg (by rw [hid]; exact hrun)]
    obtain ⟨-, hother, hbegun⟩ := regions_beginPass
      (s := s.modShip id fun q => { q with waiters := q.waiters.add d }) (id := id) (by rw [hid]; exact hi (by simpa using hrun))
    by_cases hr : r = id
    · subst hr
      rw [hbegun, hid]
      simp [-Fin.getElem_fin, hrun]
    · rw [hother r hr, hreg, if_neg hr]
      simp [hr]

/-- The demands of several lines, one after another. -/
theorem linked_each (ls : List LineId) {s : State} (h : Running s) : Linked ls s (s.each ls State.demandLinked) := by
  induction ls generalizing s with
  | nil => exact linked_nil h
  | cons l ls ih =>
    have hlaw := running_demandLinked l h
    have hstep : SameMap s (s.demandLinked l) ∧ (s.demandLinked l).lines = s.lines ∧
        (∀ c : ChanId, bare (s.demandLinked l).chans[c] = bare s.chans[c]) ∧
        (∀ r : RegionId, (s.demandLinked l).regions[r].ship.running = true ↔
          s.regions[r].ship.running = true ∨ linkedRegion s l = some r ∧ s.regions[r].ship.entries ≠ []) := by
      cases hl : linkedRegion s l with
      | none =>
        rw [demandLinked_none hl]
        exact ⟨sameMap_refl s, rfl, fun _ => rfl, fun r => by simp⟩
      | some id =>
        rw [demandLinked_some hl]
        have hi (hr : s.regions[id].ship.running = false) : s.regions[id].cond ≠ .dropping :=
          fun hd => h.not_awaits hr .map (.inl hd)
        have hp := passed_demand id .relay (s.modRelay fun r => { r with awaited := setInsert id r.awaited })
        refine ⟨sameMap_demand id .relay (s := s.modRelay _) hi, hp.lines, hp.chans, fun r => ?_⟩
        rw [running_of_demand id .relay (s := s.modRelay _) hi r]
        simp only [Option.some.injEq, eq_comm (a := r)]
        rfl
    obtain ⟨hmap, hlines, hchans, hrun⟩ := hstep
    obtain ⟨hlaw', hmap', hlines', hchans', hruns', hbegun', hawaited'⟩ := ih hlaw
    have haddr (c : ChanId) : (s.demandLinked l).chans[c].lastSystemAddress = s.chans[c].lastSystemAddress :=
      (congrArg Chan.lastSystemAddress (hchans c) :)
    rw [State.each_cons]
    refine ⟨hlaw', sameMap_after hmap' hmap, hlines'.trans hlines, fun c => (hchans' c).trans (hchans c),
      fun r hr => hruns' r ((hrun r).mpr (.inl hr)), fun r hr => ?_, fun r => ?_⟩
    · obtain hr | hr := hbegun' r hr
      · obtain hr | hr := (hrun r).mp hr
        · exact .inl hr
        · exact .inr hr.2
      · exact .inr (hmap.entries r ▸ hr)
    · rw [hawaited', awaited_demandLinked h, hmap.entries, hrun]
      simp only [linkedRegion_congr hmap hlines haddr, List.mem_cons, exists_eq_or_imp]
      grind

/-! ### The notice (R143) -/

/-- The relay's record but for its hand and what it awaits. -/
def SameRelay (a b : Relay) : Prop := b = { a with hand := b.hand, awaited := b.awaited }

theorem sameRelay_trans {a b c : Relay} (h : SameRelay a b) (h' : SameRelay b c) : SameRelay a c := by
  rw [SameRelay] at h h' ⊢
  rw [h', h]

theorem sameRelay_demandLinked (l : LineId) (s : State) : SameRelay s.relay (s.demandLinked l).relay := by
  have hend (id : RegionId) (t : State) : SameRelay t.relay (t.endPass id).relay := by
    rw [relay_endPass]
    split <;> rfl
  cases hl : linkedRegion s l with
  | none => rw [demandLinked_none hl]; rfl
  | some id =>
    rw [demandLinked_some hl]
    refine sameRelay_trans (b := { s.relay with awaited := setInsert id s.relay.awaited }) rfl ?_
    unfold State.demand State.beginPass
    dsimp only
    split
    · rfl
    · split
      · exact hend _ _
      · rfl

theorem sameRelay_each (ls : List LineId) (s : State) : SameRelay s.relay (s.each ls State.demandLinked).relay := by
  induction ls generalizing s with
  | nil => rfl
  | cons l ls ih => exact sameRelay_trans (sameRelay_demandLinked l s) (ih _)

theorem lines_demandLinked (l : LineId) (s : State) : (s.demandLinked l).lines = s.lines := by
  cases hl : linkedRegion s l with
  | none => rw [demandLinked_none hl]
  | some id =>
    rw [demandLinked_some hl]
    exact (passed_demand id .relay _).lines

theorem lines_each (ls : List LineId) (s : State) : (s.each ls State.demandLinked).lines = s.lines := by
  induction ls generalizing s with
  | nil => rfl
  | cons l ls ih => exact (ih _).trans (lines_demandLinked l s)

/-- The lines of a notice are chosen. -/
def chosenIn (ls : List LineId) (s : State) : State := s.each ls fun l t => t.modLine l fun r => { r with chosen := true }

theorem chosenIn_eq (ls : List LineId) (s : State) : chosenIn ls s = { s with lines := (chosenIn ls s).lines } := by
  unfold chosenIn
  induction ls generalizing s with
  | nil => rfl
  | cons l ls ih => rw [State.each_cons, ih]; rfl

theorem lines_chosenIn (ls : List LineId) (s : State) (l : LineId) :
    (chosenIn ls s).lines[l] = if l ∈ ls then { s.lines[l] with chosen := true } else s.lines[l] := by
  unfold chosenIn
  induction ls generalizing s with
  | nil => rfl
  | cons k ls ih =>
    have hk : (s.modLine k fun r => { r with chosen := true }).lines[l] =
        if l = k then { s.lines[l] with chosen := true } else s.lines[l] := by
      rw [State.modLine]
      refine (getElem_set_fin _ _ _ _).trans ?_
      split
      · next h => rw [h]
      · rfl
    rw [State.each_cons, ih, hk]
    by_cases hl : l ∈ ls <;> by_cases hlk : l = k <;> simp [-Fin.getElem_fin, hl, hlk]

/-- The state in which the demands of a notice are made. -/
def noticeStart (ls : List LineId) (o : Origin) (s : State) : State := (chosenIn ls s).modRelay fun r => { r with origin := o }

theorem formNotice_eq (ls : List LineId) (o : Origin) (s : State) :
    s.formNotice ls o = ((noticeStart ls o s).each ls State.demandLinked).modRelay fun r =>
      { r with hand := if r.awaited.isEmpty then .claiming else .flushing } := rfl

theorem relay_formNotice (ls : List LineId) (o : Origin) (s : State) :
    SameRelay { s.relay with origin := o } (s.formNotice ls o).relay := by
  rw [formNotice_eq]
  refine sameRelay_trans (sameRelay_trans (b := (noticeStart ls o s).relay) ?_ (sameRelay_each ls _)) rfl
  rw [noticeStart, State.modRelay_relay, chosenIn_eq]
  rfl

theorem lines_formNotice (ls : List LineId) (o : Origin) (s : State) (l : LineId) :
    (s.formNotice ls o).lines[l] = if l ∈ ls then { s.lines[l] with chosen := true } else s.lines[l] := by
  rw [← lines_chosenIn, formNotice_eq]
  exact congrArg (fun ls : Vector Line 11 => ls[l]) (lines_each ls (noticeStart ls o s))

/-- A state that passes begun meanwhile, of regions with bytes queued, have left as it was for the relay's check. -/
structure Before (u v : State) : Prop where
  lines : v.lines = u.lines
  address : ∀ c : ChanId, v.chans[c].lastSystemAddress = u.chans[c].lastSystemAddress
  mirror : ∀ a : Nat, v.mirrorAt a = u.mirrorAt a
  entries : ∀ r : RegionId, v.regions[r].ship.entries = u.regions[r].ship.entries
  runs : ∀ r : RegionId, u.regions[r].ship.running = true → v.regions[r].ship.running = true
  begun : ∀ r : RegionId, v.regions[r].ship.running = true → u.regions[r].ship.running = true ∨ u.regions[r].ship.entries ≠ []
  awaited : v.relay.awaited = u.relay.awaited
  law : PassesOk u → Running v

/-- A notice formed in such a state (R143). -/
theorem noticeFormed_of {u v t : State} {ls : List LineId} {o : Origin} (hb : Before u v)
    (haw : PassesOk u → u.relay.awaited = []) (ha : Ahead (v.formNotice ls o) t) : u.NoticeFormed ls o t := by
  have hhand : (v.formNotice ls o).relay.hand =
      if (v.formNotice ls o).relay.awaited.isEmpty then .claiming else .flushing := rfl
  unfold State.NoticeFormed
  intro owed
  refine ⟨?_, ?_, fun l => ?_, fun hnone hempty => ?_, fun hp => ?_⟩
  · rw [ha.relay]
    exact (congrArg Relay.origin (relay_formNotice ls o v) :)
  · rw [ha.relay, hhand]
    split
    · exact .inr rfl
    · exact .inl rfl
  · rw [ha.lines, lines_formNotice, hb.lines]
  · have hsame : (noticeStart ls o v).each ls State.demandLinked = noticeStart ls o v := by
      have hl (l : LineId) (hl : l ∈ ls) : (noticeStart ls o v).lines[l].linked = none := by
        refine Eq.trans ?_ (hnone l hl)
        have h : (noticeStart ls o v).lines[l] = _ := lines_chosenIn ls v l
        rw [h, if_pos hl, hb.lines]
      clear hhand ha hnone hb
      generalize noticeStart ls o v = w at hl
      induction ls with
      | nil => rfl
      | cons l ls ih =>
        have hw : w.demandLinked l = w := demandLinked_none (by rw [linkedRegion, hl l List.mem_cons_self]; rfl)
        rw [State.each_cons, hw]
        exact ih fun k hk => hl k (List.mem_cons_of_mem _ hk)
    rw [ha.relay, formNotice_eq, hsame]
    have hawait : (noticeStart ls o v).relay.awaited = [] := by
      rw [noticeStart, chosenIn_eq]
      exact hb.awaited.trans hempty
    show (if (noticeStart ls o v).relay.awaited.isEmpty then Hand.claiming else .flushing) = _
    rw [hawait]
    rfl
  · have hstart : noticeStart ls o v = { v with lines := (chosenIn ls v).lines, relay := { v.relay with origin := o } } := by
      rw [noticeStart, chosenIn_eq]
      rfl
    have hrun : Running (noticeStart ls o v) := by
      rw [hstart]
      exact (hb.law hp).of_eq rfl rfl (fun _ _ h => h) fun _ h => h
    have hlinked := linked_each ls hrun
    have hregion (l : LineId) : linkedRegion (noticeStart ls o v) l = linkedRegion u l := by
      have hline : (noticeStart ls o v).lines[l].linked = u.lines[l].linked := by
        have h : (noticeStart ls o v).lines[l] = _ := lines_chosenIn ls v l
        rw [h, hb.lines]
        split <;> rfl
      have hmirror (a : Nat) : (noticeStart ls o v).mirrorAt a = u.mirrorAt a := by
        rw [← hb.mirror, hstart]
        rfl
      have haddr (c : ChanId) : (noticeStart ls o v).chans[c].lastSystemAddress = u.chans[c].lastSystemAddress := by
        rw [← hb.address, hstart]
      simp only [linkedRegion, hline, haddr, hmirror]
    have hregs : (noticeStart ls o v).regions = v.regions := by rw [hstart]
    have howed (id : RegionId) : id ∈ (v.formNotice ls o).relay.awaited ↔ owed id := by
      have h := hlinked.awaited id
      have hnil : (noticeStart ls o v).relay.awaited = [] := by
        rw [hstart]
        exact hb.awaited.trans (haw hp)
      rw [hnil, hregs, hb.entries] at h
      simp only [List.not_mem_nil, false_or, hregion, linkedRegion_eq_some] at h
      refine h.trans (and_congr_right fun _ => ?_)
      constructor
      · exact fun h' => h'.elim .inl fun hr => (hb.begun id hr).symm
      · exact fun h' => h'.elim .inl fun hr => .inr (hb.runs id hr)
    have hpt : PassesOk (v.formNotice ls o) := passesOk_formNotice ls o (hb.law hp)
    have hrunt := ((passesOk_iff _).mp hpt).1
    refine ⟨fun id => by rw [ha.relay]; exact howed id, fun id hid => ?_, ?_⟩
    · obtain ⟨hr, htold⟩ := hrunt.waits .relay id ((howed id).mpr hid)
      obtain ⟨hrt, hwt⟩ := ha.runs id hr
      exact ⟨hrt, hwt htold, fun _ => ha.line id ((hrunt.line id).mpr hr)⟩
    · rw [ha.relay, hpt.hand]
      constructor
      · intro hne
        obtain ⟨id, hid⟩ := List.exists_mem_of_ne_nil _ hne
        exact ⟨id, (howed id).mp hid⟩
      · rintro ⟨id, hid⟩
        exact List.ne_nil_of_mem ((howed id).mpr hid)

/-! ### The check (R141, R142) -/

theorem eligibleLines_congr {s t : State} (h : t.lines = s.lines) : t.eligibleLines = s.eligibleLines := by
  simp only [State.eligibleLines, h]

section
variable {s : State}

theorem relayCheck_still (h : s.relay.hand ≠ .empty ∨ s.eligibleLines = []) : s.relayCheck = s := by
  unfold State.relayCheck
  by_cases hh : s.relay.hand ≠ .empty
  · rw [if_pos hh]
  · rw [if_neg hh, h.resolve_left hh]

theorem relayCheck_perLine (hh : s.relay.hand = .empty) (hm : s.relay.mode = .perLine) {l : LineId} {rest : List LineId}
    (he : s.eligibleLines = l :: rest) : s.relayCheck = s.formNotice [l] .choice := by
  rw [State.relayCheck, if_neg (not_not_intro hh), hm, he]

/-- The state in which a holdoff's notice is formed. -/
def holdoffOver (s : State) : State := s.modRelay fun r => { r with hand := .empty, holdoffAt := none }

theorem expireHoldoff_eq (s : State) : s.expireHoldoff =
    if s.eligibleLines = [] then holdoffOver s else (holdoffOver s).formNotice s.eligibleLines .holdoff := by
  have he : (holdoffOver s).eligibleLines = s.eligibleLines := rfl
  unfold State.expireHoldoff
  show (match (holdoffOver s).eligibleLines with
    | [] => holdoffOver s
    | ls => (holdoffOver s).formNotice ls .holdoff) = _
  rw [he]
  cases hl : s.eligibleLines with
  | nil => rfl
  | cons l rest => rfl

theorem relayCheck_grouped (hh : s.relay.hand = .empty) (hm : s.relay.mode = .grouped) (he : s.eligibleLines ≠ []) :
    s.relayCheck = if s.relay.holdoff = 0 then (holdoffOver s).formNotice s.eligibleLines .holdoff
      else s.modRelay fun r => { r with hand := .holdoff, holdoffAt := some ⟨s.now, r.holdoff * 10⟩ } := by
  obtain ⟨l, rest, hl⟩ := List.exists_cons_of_ne_nil he
  have hexp : (s.modRelay fun r => { r with hand := .holdoff, holdoffAt := some ⟨s.now, r.holdoff * 10⟩ }).expireHoldoff =
      (holdoffOver s).formNotice s.eligibleLines .holdoff := by
    rw [expireHoldoff_eq]
    exact if_neg he
  rw [← hexp, State.relayCheck, if_neg (not_not_intro hh), hm, hl]
  rfl

end

/-- The check made on such a state leaves what R141 and R142 say. -/
theorem relayChecked_of {u v t : State} (hb : Before u v) (hr : v.relay = u.relay) (hn : v.now = u.now)
    (ha : Ahead v.relayCheck t) : State.RelayChecked u t := by
  have helig : v.eligibleLines = u.eligibleLines := eligibleLines_congr hb.lines
  have hawaits (hh : u.relay.hand = .empty) (hp : PassesOk u) : u.relay.awaited = [] := by
    by_contra hne
    have := hp.hand.mpr hne
    rw [hh] at this
    cases this
  have hover : Before u (holdoffOver v) := ⟨hb.lines, hb.address, hb.mirror, hb.entries, hb.runs, hb.begun, hb.awaited,
    fun hp => (hb.law hp).of_eq rfl rfl (fun _ _ h => h) fun _ h => h⟩
  have hkept : t.relay.mode = u.relay.mode ∧ t.relay.holdoff = u.relay.holdoff := by
    have hsame (ls : List LineId) (o : Origin) (w : State) (hw : w.relay.mode = u.relay.mode ∧ w.relay.holdoff = u.relay.holdoff) :
        (w.formNotice ls o).relay.mode = u.relay.mode ∧ (w.formNotice ls o).relay.holdoff = u.relay.holdoff := by
      have h := relay_formNotice ls o w
      exact ⟨(congrArg Relay.mode h :).trans hw.1, (congrArg Relay.holdoff h :).trans hw.2⟩
    have hv : v.relay.mode = u.relay.mode ∧ v.relay.holdoff = u.relay.holdoff := by rw [hr]; exact ⟨rfl, rfl⟩
    rw [ha.relay]
    by_cases hstill : v.relay.hand ≠ .empty ∨ v.eligibleLines = []
    · rw [relayCheck_still hstill]
      exact hv
    · rw [not_or, not_not] at hstill
      obtain ⟨hh, he⟩ := hstill
      cases hm : v.relay.mode with
      | perLine =>
        obtain ⟨l, rest, hl⟩ := List.exists_cons_of_ne_nil he
        rw [relayCheck_perLine hh hm hl]
        exact hsame _ _ _ hv
      | grouped =>
        rw [relayCheck_grouped hh hm he]
        split
        · exact hsame _ _ _ hv
        · exact hv
  refine ⟨fun h => ?still, fun hh hm l rest hl => ?perLine, fun hh hm he => ⟨fun h0 => ?waits, fun h0 => ?atOnce⟩, hkept⟩
  case still =>
    rw [relayCheck_still (by rw [hr, helig]; exact h)] at ha
    exact ⟨ha.relay.trans hr, ha.lines.trans hb.lines⟩
  case perLine =>
    rw [relayCheck_perLine (by rw [hr]; exact hh) (by rw [hr]; exact hm) (helig.trans hl)] at ha
    refine ⟨noticeFormed_of hb (hawaits hh) ha, ?_⟩
    rw [ha.relay, ← hr]
    exact (congrArg Relay.holdoffAt (relay_formNotice [l] .choice v) :)
  case waits =>
    rw [relayCheck_grouped (by rw [hr]; exact hh) (by rw [hr]; exact hm) (by rw [helig]; exact he),
      if_neg (by rw [hr]; exact h0)] at ha
    refine ⟨ha.lines.trans hb.lines, ha.relay.trans ?_⟩
    rw [State.modRelay_relay, hr, hn]
  case atOnce =>
    rw [relayCheck_grouped (by rw [hr]; exact hh) (by rw [hr]; exact hm) (by rw [helig]; exact he),
      if_pos (by rw [hr]; exact h0), helig] at ha
    refine ⟨noticeFormed_of hover (hawaits hh) ha, ?_⟩
    rw [ha.relay]
    exact (congrArg Relay.holdoffAt (relay_formNotice u.eligibleLines .holdoff (holdoffOver v)) :)

/-- Nothing has come between. -/
theorem before_refl (u : State) : Before u u :=
  ⟨rfl, fun _ => rfl, fun _ => rfl, fun _ => rfl, fun _ h => h, fun _ h => .inl h, rfl, fun h => ((passesOk_iff u).mp h).1⟩

/-- Trickle has been looked at again: it begins passes of regions with bytes queued alone. -/
theorem before_trickleUpdate (u : State) : Before u u.trickleUpdate := by
  obtain ⟨rs, heq, hrs⟩ := trickleUpdate_eq u
  have hreg (r : RegionId) : u.trickleUpdate.regions[r] = trickled u r := by
    rw [heq]
    exact hrs r
  refine ⟨by rw [heq], fun c => by rw [heq], fun a => ?_, fun r => ?_, fun r hr => ?_, fun r hr => ?_, by rw [heq], fun hp => ?_⟩
  · simp only [State.mirrorAt, hreg]
    rfl
  · rw [hreg]
    rfl
  · rw [hreg]
    show (u.regions[r].ship.running || begins u r) = true
    rw [hr]
    rfl
  · rw [hreg] at hr
    have hr' : (u.regions[r].ship.running || begins u r) = true := hr
    rw [Bool.or_eq_true] at hr'
    refine hr'.imp id fun hbeg => ?_
    simp only [begins, Bool.and_eq_true, Bool.not_eq_true', List.isEmpty_eq_false_iff] at hbeg
    exact hbeg.1.2
  · exact ((passesOk_iff _).mp ((keeps_trickleUpdate u).passes hp)).1

end Sys2Proof.Proofs.Demands
end

section
/-! PROOFS. The shared request and interrupt lines (R12 to R14): what a change of their levels makes of the channels (R78 to R81), of
a master (R48) and of the relay (R140 to R143), and what stays. -/

open Sys2Proof Sys2Proof.Machine Sys2Proof.Proofs.MapLaws Sys2Proof.Proofs.PassLaws Sys2Proof.Proofs.Laws Sys2Proof.Proofs.Trickle
  Sys2Proof.Proofs.RecordRequests Sys2Proof.Proofs.PassFrame Sys2Proof.Proofs.Grants Sys2Proof.Proofs.Demands

namespace Sys2Proof.Proofs.SharedLines

/-! ### Requests (R78 to R81) -/

/-- The channel follows its request line as `Chan.asked` says. -/
theorem asked_eq (ch : Chan) (owns level : Bool) : ch.asked owns level =
    if level = ch.request then ch
    else if owns && ch.state = .serving then { ch with request := level } else ch.requestChange level := by
  unfold Chan.asked Chan.requestChange
  by_cases hl : ch.request = level
  · rw [if_pos hl, if_pos hl.symm]
  · rw [if_neg hl, if_neg (Ne.symm hl)]
    cases level with
    | true =>
      rw [if_pos rfl]
      cases ch.state <;> cases owns <;> simp
    | false =>
      rw [if_neg Bool.false_ne_true]
      cases hs : ch.state with
      | masked => simp
      | ready => simp
      | serving =>
        cases owns with
        | true => simp
        | false => cases ch.service <;> cases ch.blockOpen <;> cases ch.maskPending <;> simp

theorem request_asked (ch : Chan) (owns level : Bool) : (ch.asked owns level).request = level := by
  unfold Chan.asked
  split
  · next h => exact h
  · split
    · next h => exact h.symm
    · next h =>
      have hf : level = false := by simpa using h
      rw [hf]
      split
      · rfl
      · split <;> rfl

/-- What a change of the passes a channel awaits has to do with it. -/
theorem bare_asked (ch : Chan) (owns level : Bool) : bare (ch.asked owns level) = (bare ch).asked owns level := by
  unfold Chan.asked bare
  dsimp only
  split
  · rfl
  · split
    · rfl
    · split
      · rfl
      · split <;> rfl

theorem syncRequest_eq (c : ChanId) (s : State) : s.syncRequest c = { s with
    chans := s.chans.set c (s.chans[c].asked (s.arb.owner.isChan c) (s.requestLevel c)) } := by
  unfold State.syncRequest
  dsimp only
  rw [asked_eq]
  by_cases h : s.requestLevel c = s.chans[c].request
  · rw [if_pos h, if_pos h]
    have hset : s.chans.set c s.chans[c] = s.chans := Vector.set_getElem_self _
    rw [hset]
  · rw [if_neg h, if_neg h]
    split <;> rfl

/-- Every channel follows its line. -/
theorem each_syncRequest_eq (cs : List ChanId) (hn : cs.Nodup) (s : State) :
    ∃ chs : Vector Chan 7, s.each cs State.syncRequest = { s with chans := chs } ∧
      ∀ d : ChanId, chs[d] = if d ∈ cs then s.chans[d].asked (s.arb.owner.isChan d) (s.requestLevel d) else s.chans[d] := by
  induction cs generalizing s with
  | nil => exact ⟨s.chans, rfl, fun d => by simp⟩
  | cons c cs ih =>
    rw [List.nodup_cons] at hn
    obtain ⟨hc, hn⟩ := hn
    obtain ⟨chs, heq, hchs⟩ := ih hn (s.syncRequest c)
    refine ⟨chs, ?_, fun d => ?_⟩
    · rw [State.each_cons, heq, syncRequest_eq]
    · have hset (d : ChanId) : (s.syncRequest c).chans[d] =
          if d = c then s.chans[c].asked (s.arb.owner.isChan c) (s.requestLevel c) else s.chans[d] := by
        rw [syncRequest_eq]
        exact getElem_set_fin _ _ _ _
      have harb : (s.syncRequest c).arb = s.arb := by rw [syncRequest_eq]
      have hlevel (d : ChanId) : (s.syncRequest c).requestLevel d = s.requestLevel d := by rw [syncRequest_eq]; rfl
      rw [hchs d, hset, harb, hlevel]
      by_cases hd : d = c
      · subst hd
        rw [if_neg hc, if_pos rfl, if_pos List.mem_cons_self]
      · rw [if_neg hd]
        by_cases hm : d ∈ cs
        · rw [if_pos hm, if_pos (List.mem_cons_of_mem _ hm)]
        · rw [if_neg hm, if_neg (by simp [hd, hm])]

/-- The state in which every channel has followed its line. -/
def followed (s : State) : State :=
  { s with chans := Vector.ofFn fun d => s.chans[d].asked (s.arb.owner.isChan d) (s.requestLevel d) }

theorem chans_followed (s : State) (d : ChanId) :
    (followed s).chans[d] = s.chans[d].asked (s.arb.owner.isChan d) (s.requestLevel d) := by
  unfold followed
  simp

theorem each_syncRequest_followed (s : State) : s.each (List.finRange 7) State.syncRequest = followed s := by
  obtain ⟨chs, heq, hchs⟩ := each_syncRequest_eq (List.finRange 7) (List.nodup_finRange 7) s
  have hc : chs = (followed s).chans :=
    vector_ext fun d => ((hchs d).trans (if_pos (List.mem_finRange d))).trans (chans_followed s d).symm
  rw [heq, hc]
  rfl

theorem followed_eq (s : State) : followed s = { s with chans := (followed s).chans } := rfl

/-- A master whose request is no longer asserted releases the bus. -/
def released (u : State) : State :=
  match u.arb.owner with
  | .dma c true => if u.chans[c].request then u else u.masterRelease c
  | _ => u

theorem released_stay {u : State} (h : ∀ c : ChanId, u.arb.owner = .dma c true → u.chans[c].request = true) : released u = u := by
  unfold released
  split
  · next c hc => rw [h c hc, if_pos rfl]
  · rfl

theorem released_master {u : State} {c : ChanId} (ho : u.arb.owner = .dma c true) (h : u.chans[c].request = false) :
    released u = u.masterRelease c := by
  have hr : ¬ u.chans[c].request = true := by rw [h]; exact Bool.false_ne_true
  unfold released
  rw [ho]
  exact if_neg hr

theorem syncRequests_eq (s : State) : s.syncRequests = (released (followed s)).arbitrate := by
  rw [← each_syncRequest_followed]
  unfold State.syncRequests
  generalize s.each (List.finRange 7) State.syncRequest = u
  rfl

/-- With a master whose request is asserted, or none, the bus stays as it is, but for a claim on an idle one. -/
theorem syncRequests_stay {s : State} (h : ∀ c : ChanId, s.arb.owner = .dma c true → s.requestLevel c = true) :
    s.syncRequests = (followed s).arbitrate := by
  have harb : (followed s).arb = s.arb := by rw [followed_eq]
  rw [syncRequests_eq, released_stay]
  intro c hc
  rw [chans_followed, request_asked]
  exact h c (harb ▸ hc)

/-- A master whose request has fallen releases the bus (R48). -/
theorem syncRequests_release {s : State} {c : ChanId} (ho : s.arb.owner = .dma c true) (h : s.requestLevel c = false) :
    s.syncRequests = ((followed s).masterRelease c).arbitrate := by
  have harb : (followed s).arb.owner = .dma c true := by rw [followed_eq]; exact ho
  rw [syncRequests_eq, released_master harb (by rw [chans_followed, request_asked, h])]

/-- The levels (R12). -/
theorem requestLevel_iff (s : State) (c : ChanId) :
    s.requestLevel c = true ↔ ∃ j : SlotId, s.slots[j].closed = true ∧ c ∈ s.drives[j].requests := by
  simp only [State.requestLevel, State.connected, List.any_eq_true, List.mem_finRange, true_and, Bool.and_eq_true,
    List.contains_iff_mem]

theorem lineLevel_iff (s : State) (l : LineId) :
    s.lineLevel l = true ↔ ∃ j : SlotId, s.slots[j].closed = true ∧ l ∈ s.drives[j].lines := by
  simp only [State.lineLevel, State.connected, List.any_eq_true, List.mem_finRange, true_and, Bool.and_eq_true,
    List.contains_iff_mem]

/-- A slot's card asserts its requests anew. -/
def withRequests (i : SlotId) (rs : List ChanId) (s : State) : State :=
  { s with drives := s.drives.set i { s.drives[i] with requests := rs } }

theorem requestLevel_withRequests (i : SlotId) (rs : List ChanId) (s : State) (c : ChanId) :
    (withRequests i rs s).requestLevel c = true ↔ (s.slots[i].closed = true ∧ c ∈ rs) ∨
      ∃ j : SlotId, j ≠ i ∧ s.slots[j].closed = true ∧ c ∈ s.drives[j].requests := by
  have hdrive (j : SlotId) : (withRequests i rs s).drives[j].requests = if j = i then rs else s.drives[j].requests := by
    have h : (withRequests i rs s).drives[j] = _ := getElem_set_fin s.drives i j _
    rw [h]
    split <;> rfl
  rw [requestLevel_iff]
  constructor
  · rintro ⟨j, hj, hc⟩
    rw [hdrive] at hc
    by_cases hji : j = i
    · subst hji
      rw [if_pos rfl] at hc
      exact .inl ⟨hj, hc⟩
    · rw [if_neg hji] at hc
      exact .inr ⟨j, hji, hj, hc⟩
  · rintro (⟨hi, hc⟩ | ⟨j, hji, hj, hc⟩)
    · exact ⟨i, hi, by rw [hdrive, if_pos rfl]; exact hc⟩
    · exact ⟨j, hj, by rw [hdrive, if_neg hji]; exact hc⟩

theorem requestLevel_split (i : SlotId) (s : State) (c : ChanId) :
    s.requestLevel c = true ↔ (s.slots[i].closed = true ∧ c ∈ s.drives[i].requests) ∨
      ∃ j : SlotId, j ≠ i ∧ s.slots[j].closed = true ∧ c ∈ s.drives[j].requests := by
  rw [requestLevel_iff]
  constructor
  · rintro ⟨j, hj, hc⟩
    by_cases hji : j = i
    · subst hji
      exact .inl ⟨hj, hc⟩
    · exact .inr ⟨j, hji, hj, hc⟩
  · rintro (⟨hi, hc⟩ | ⟨j, -, hj, hc⟩)
    · exact ⟨i, hi, hc⟩
    · exact ⟨j, hj, hc⟩

/-- A channel the card neither raises nor drops keeps its level. -/
theorem requestLevel_other {i : SlotId} {rs : List ChanId} {s : State} {c : ChanId}
    (h : c ∈ rs ↔ c ∈ s.drives[i].requests) : (withRequests i rs s).requestLevel c = s.requestLevel c := by
  rw [Bool.eq_iff_iff, requestLevel_withRequests, requestLevel_split i, h]

theorem followed_of {s : State} {chs : Vector Chan 7}
    (h : ∀ d : ChanId, chs[d] = s.chans[d].asked (s.arb.owner.isChan d) (s.requestLevel d)) : followed s = { s with chans := chs } := by
  rw [followed_eq]
  have hc : (followed s).chans = chs := vector_ext fun d => (chans_followed s d).trans (h d).symm
  rw [hc]

theorem asked_same (ch : Chan) (owns : Bool) : ch.asked owns ch.request = ch := if_pos rfl

/-- One channel's level has changed, and no other's. -/
theorem followed_one {s : State} {c : ChanId} {ch : Chan} (hc : s.chans[c].asked (s.arb.owner.isChan c) (s.requestLevel c) = ch)
    (ho : ∀ d : ChanId, d ≠ c → s.requestLevel d = s.chans[d].request) :
    followed s = { s with chans := s.chans.set c ch } := by
  refine followed_of fun d => ?_
  rw [getElem_set_fin]
  by_cases hd : d = c
  · subst hd
    rw [if_pos rfl, hc]
  · rw [if_neg hd, ho d hd, asked_same]

theorem exec_requestLevelChange (i : SlotId) (c : ChanId) (on : Bool) (s : State) :
    exec (.requestLevelChange i c on) s = .next (withRequests i (setMember c on s.drives[i].requests) s).syncRequests := rfl

/-- Settles O36: the channel named follows its line, and no other level has changed. -/
theorem requestsMoveWaitingChannels : Obligations.RequestsMoveWaitingChannels := by
  intro s i c hlevels hnomaster howner
  have hstay (rs : List ChanId) : (withRequests i rs s).syncRequests = (followed (withRequests i rs s)).claimed := by
    rw [← arbitrate_eq_claimed]
    refine syncRequests_stay fun d hd => ?_
    have hd' : s.arb.owner = .dma d true := hd
    rw [hd'] at hnomaster
    cases hnomaster
  have hinsert (d : ChanId) (hd : d ≠ c) : d ∈ setInsert c s.drives[i].requests ↔ d ∈ s.drives[i].requests := by
    rw [mem_setInsert, or_iff_right hd]
  have hremove (d : ChanId) (hd : d ≠ c) : d ∈ setRemove c s.drives[i].requests ↔ d ∈ s.drives[i].requests := by
    rw [mem_setRemove, and_iff_left hd]
  have howns (rs : List ChanId) : (withRequests i rs s).arb.owner.isChan c = false := howner
  refine ⟨fun hclosed hreq hst => ?rise, fun hreq hst hsv hothers => ?fall, fun hopen => ?isolated⟩
  case rise =>
    have hup : (withRequests i (setInsert c s.drives[i].requests) s).requestLevel c = true :=
      (requestLevel_withRequests _ _ _ _).mpr (.inl ⟨hclosed, (mem_setInsert _ _ _).mpr (.inl rfl)⟩)
    have hasked : s.chans[c].asked false true = { s.chans[c] with request := true, state := .serving } := by
      rw [Chan.asked, if_neg (by rw [hreq]; exact Bool.false_ne_true), if_pos rfl, if_pos hst]
    rw [exec_requestLevelChange]
    show Host.Outcome.next (withRequests i (setInsert c s.drives[i].requests) s).syncRequests = _
    rw [hstay, followed_one (c := c) (ch := { s.chans[c] with request := true, state := .serving })
      (by rw [hup, howns]; exact hasked) fun d hd => (requestLevel_other (hinsert d hd)).trans (hlevels d)]
    rfl
  case fall =>
    have hdown : (withRequests i (setRemove c s.drives[i].requests) s).requestLevel c = false := by
      rw [Bool.eq_false_iff, Ne, requestLevel_withRequests]
      rintro (⟨-, hc⟩ | ⟨j, hji, hj, hc⟩)
      · exact ((mem_setRemove _ _ _).mp hc).2 rfl
      · exact hothers j hji hj hc
    have hasked : s.chans[c].asked false false = { s.chans[c] with request := false, state := .ready } := by
      rw [Chan.asked, if_neg (by rw [hreq]; decide), if_neg Bool.false_ne_true, if_neg, if_neg]
      · rintro ⟨hcas, -⟩
        obtain h | h := hsv <;> rw [h] at hcas <;> cases hcas
      · rintro (hne | hf | ⟨hb, -⟩)
        · exact hne hst
        · cases hf
        · obtain h | h := hsv <;> rw [h] at hb <;> cases hb
    rw [exec_requestLevelChange]
    show Host.Outcome.next (withRequests i (setRemove c s.drives[i].requests) s).syncRequests = _
    rw [hstay, followed_one (c := c) (ch := { s.chans[c] with request := false, state := .ready })
      (by rw [hdown, howns]; exact hasked) fun d hd => (requestLevel_other (hremove d hd)).trans (hlevels d)]
    rfl
  case isolated =>
    have hsame (d : ChanId) : (withRequests i (setInsert c s.drives[i].requests) s).requestLevel d = s.chans[d].request := by
      rw [← hlevels d, Bool.eq_iff_iff, requestLevel_withRequests, requestLevel_split i, hopen]
      simp
    rw [exec_requestLevelChange]
    show Host.Outcome.next (withRequests i (setInsert c s.drives[i].requests) s).syncRequests = _
    rw [hstay, followed_of (chs := s.chans) fun d => by rw [hsame]; exact (asked_same _ _).symm]
    rfl

/-! ### What grants, masks and releases leave for the relay -/

theorem handOk_of_eq {s t : State} (h : HandOk s) (ha : t.relay = s.relay) : HandOk t := by
  rw [HandOk, ha]
  exact h

theorem ahead_addCause (c : ChanId) (k : Cause) {s : State} (h : PassesOk s) : Ahead s (s.addCause c k) := by
  unfold State.addCause
  dsimp only
  split
  · exact .of_eq rfl rfl rfl rfl
  · next id _ =>
    refine .after (ahead_demand id (.chan c) ?_ fun hr => ?_) (.of_eq rfl rfl rfl rfl)
    · exact handOk_of_eq ((passesOk_iff s).mp h).2 rfl
    · exact idle_of_passesOk h hr

theorem ahead_maskChan (c : ChanId) (r : MaskReason) (s : State) : Ahead s (s.maskChan c r) := by
  rw [maskChan_eq]
  exact .of_eq rfl rfl rfl rfl

theorem ahead_startTransfer (c : ChanId) {s : State} (h : PassesOk s) : Ahead s (s.startTransfer c).1 := by
  cases hl : s.lookup c s.chans[c].kind (s.chans[c].presentAddress c) with
  | target tg =>
    rw [startTransfer_target hl]
    exact .of_eq rfl rfl rfl rfl
  | fault d =>
    rw [startTransfer_fault hl]
    exact .after (ahead_maskChan c _ _) (ahead_addCause c _ h)

/-- A channel's new context awaits what the old one did. -/
theorem awaited_set {chs : Vector Chan 7} {c d : ChanId} {ch : Chan} (h : ch.awaitedRegions = chs[c].awaitedRegions) {r : RegionId}
    (hr : r ∈ (chs.set c ch)[d].awaitedRegions) : r ∈ chs[d].awaitedRegions := by
  rw [getElem_set_fin] at hr
  by_cases hd : d = c
  · subst hd
    rwa [if_pos rfl, h] at hr
  · rwa [if_neg hd] at hr

theorem ahead_grant (n : Nat) {s : State} (h : PassesOk s) : Ahead s (s.grant n) := by
  induction n generalizing s with
  | zero => exact .of_eq rfl rfl rfl rfl
  | succ n ih =>
    cases hp : s.pick.1 with
    | none => rw [grant_none n hp]; exact .of_eq rfl rfl rfl rfl
    | some k =>
      cases k with
      | refresh => rw [grant_refresh n hp]; exact .of_eq rfl rfl rfl rfl
      | timed i =>
        rw [grant_timed n hp]
        unfold State.grantTimed
        split
        · split <;> exact .of_eq rfl rfl rfl rfl
        · exact .of_eq rfl rfl rfl rfl
      | link =>
        rw [grant_link n hp]
        unfold State.grantLink
        split
        · split <;> exact .of_eq rfl rfl rfl rfl
        · exact .of_eq rfl rfl rfl rfl
      | census => rw [grant_census n hp]; exact .of_eq rfl rfl rfl rfl
      | dma c =>
        by_cases hc : s.chans[c].service = .cascade
        · rw [grant_master n hp hc]
          exact .of_eq rfl rfl rfl rfl
        · rw [grant_transfer n hp hc]
          have htenure : Ahead s (tenure c s) := by
            rw [tenure_eq]
            exact .of_eq rfl rfl rfl rfl
          have hlaw : PassesOk (tenure c s) := by
            rw [tenure_eq]
            exact Keeps.passes (s := s) (.of_view rfl fun d r hd => awaited_set (by rfl) hd) h
          refine .after (.ite (fun _ => .refl _) fun _ => ih ((keeps_startTransfer c _).passes hlaw))
            (.after (ahead_startTransfer c hlaw) htenure)

theorem ahead_arbitrate {s : State} (h : PassesOk s) : Ahead s s.arbitrate := .ite (fun _ => ahead_grant 8 h) fun _ => .refl s

theorem ahead_each_trigger (ids : List RegionId) {s : State} (h : PassesOk s) : Ahead s (s.each ids State.trigger) := by
  induction ids generalizing s with
  | nil => exact .refl s
  | cons id ids ih => exact .after (ih ((keeps_trigger id s).passes h)) (ahead_trigger id h)

theorem ahead_handOn {s : State} (h : PassesOk s) : Ahead s s.handOn :=
  .after (ahead_each_trigger _ (s := { s with written := [], free := s.free + 1 })
    ((Keeps.of_view rfl fun _ _ h => h : Keeps s { s with written := [], free := s.free + 1 }).passes h)) (.of_eq rfl rfl rfl rfl)

/-- The master's channel as its release leaves it (R48, R81). -/
def releasedChan (ch : Chan) : Chan :=
  if ch.maskPending.isSome = true then { ch with state := .masked, maskReason := ch.maskPending, maskPending := none }
  else { ch with state := .ready }

theorem masterRelease_eq (c : ChanId) (s : State) : s.masterRelease c =
    (State.handOn { s with chans := s.chans.set c (releasedChan s.chans[c]) }).grantPoint := by
  unfold State.masterRelease releasedChan
  split
  · next r hr =>
    rw [if_pos (by rw [hr]; rfl), hr]
    rfl
  · next hn =>
    rw [if_neg (by rw [hn]; exact Bool.false_ne_true)]
    rfl

theorem keeps_released (c : ChanId) (s : State) : Keeps s { s with chans := s.chans.set c (releasedChan s.chans[c]) } := by
  refine .of_view rfl fun d r hd => awaited_set ?_ hd
  unfold releasedChan
  split <;> rfl

theorem ahead_masterRelease (c : ChanId) {s : State} (h : PassesOk s) : Ahead s (s.masterRelease c) := by
  have h0 := (keeps_released c s).passes h
  rw [masterRelease_eq]
  exact .after (ahead_grant 8 ((keeps_handOn _).passes h0)) (.after (ahead_handOn h0) (.of_eq rfl rfl rfl rfl))

theorem passesOk_followed {s : State} (h : PassesOk s) : PassesOk (followed s) := by
  rw [← each_syncRequest_followed]
  exact (Keeps.each _ keeps_syncRequest (List.finRange 7) s).passes h

theorem ahead_syncRequests {s : State} (h : PassesOk s) : Ahead s s.syncRequests := by
  have hf := passesOk_followed h
  have hfol : Ahead s (followed s) := by
    rw [followed_eq]
    exact .of_eq rfl rfl rfl rfl
  by_cases hrel : ∃ c : ChanId, s.arb.owner = .dma c true ∧ s.requestLevel c = false
  · obtain ⟨c, ho, hc⟩ := hrel
    rw [syncRequests_release ho hc]
    exact .after (ahead_arbitrate ((keeps_masterRelease c _).passes hf)) (.after (ahead_masterRelease c hf) hfol)
  · rw [syncRequests_stay fun c hc => by simpa using fun hno => hrel ⟨c, hc, hno⟩]
    exact .after (ahead_arbitrate hf) hfol

/-! ### Interrupt lines (R140) -/

/-- A rise is an edge, a fall a change of level alone. -/
theorem setLevel_eq (r : Line) (now : Time) (level : Bool) : r.setLevel now level =
    if level = true ∧ r.level = false then
      if r.pending = true then { r with level := true, merged := true } else { r with level := true, pending := true, edgeTime := now }
    else { r with level := level } := by
  unfold Line.setLevel
  cases level <;> cases r.level <;> simp

theorem setLevel_same {r : Line} {now : Time} {level : Bool} (h : level = r.level) : r.setLevel now level = r := by
  subst h
  rw [setLevel_eq, if_neg]
  rintro ⟨h1, h2⟩
  rw [h1] at h2
  cases h2

theorem syncLine_eq (l : LineId) (s : State) :
    s.syncLine l = { s with lines := s.lines.set l (s.lines[l].setLevel s.now (s.lineLevel l)) } := rfl

/-- Every line follows its level. -/
theorem each_syncLine_eq (ls : List LineId) (hn : ls.Nodup) (s : State) :
    ∃ us : Vector Line 11, s.each ls State.syncLine = { s with lines := us } ∧
      ∀ l : LineId, us[l] = if l ∈ ls then s.lines[l].setLevel s.now (s.lineLevel l) else s.lines[l] := by
  induction ls generalizing s with
  | nil => exact ⟨s.lines, rfl, fun l => by simp⟩
  | cons k ls ih =>
    rw [List.nodup_cons] at hn
    obtain ⟨hk, hn⟩ := hn
    obtain ⟨us, heq, hus⟩ := ih hn (s.syncLine k)
    refine ⟨us, ?_, fun l => ?_⟩
    · rw [State.each_cons, heq, syncLine_eq]
    · have hset : (s.syncLine k).lines[l] = if l = k then s.lines[k].setLevel s.now (s.lineLevel k) else s.lines[l] :=
        getElem_set_fin _ _ _ _
      have hlevel : (s.syncLine k).lineLevel l = s.lineLevel l := rfl
      have hnow : (s.syncLine k).now = s.now := rfl
      rw [hus l, hset, hlevel, hnow]
      by_cases hl : l = k
      · subst hl
        rw [if_neg hk, if_pos rfl, if_pos List.mem_cons_self]
      · rw [if_neg hl]
        by_cases hm : l ∈ ls
        · rw [if_pos hm, if_pos (List.mem_cons_of_mem _ hm)]
        · rw [if_neg hm, if_neg (by simp [hl, hm])]

/-- The lines after their levels are followed. -/
def latched (s : State) : Vector Line 11 := (s.each (List.finRange 11) State.syncLine).lines

theorem each_syncLine_latched (s : State) : s.each (List.finRange 11) State.syncLine = { s with lines := latched s } := by
  obtain ⟨us, heq, -⟩ := each_syncLine_eq (List.finRange 11) (List.nodup_finRange 11) s
  unfold latched
  rw [heq]

theorem getElem_latched (s : State) (l : LineId) : (latched s)[l] = s.lines[l].setLevel s.now (s.lineLevel l) := by
  obtain ⟨us, heq, hus⟩ := each_syncLine_eq (List.finRange 11) (List.nodup_finRange 11) s
  unfold latched
  rw [heq]
  exact (hus l).trans (if_pos (List.mem_finRange l))

theorem syncLines_eq (s : State) : s.syncLines = (State.trickleUpdate { s with lines := latched s }).relayCheck := by
  rw [← each_syncLine_latched]
  rfl

/-- What the relay's check leaves of a state. -/
structure Checked (s t : State) : Prop where
  outer : t.outer = s.outer
  chans : ∀ c : ChanId, bare t.chans[c] = bare s.chans[c]
  calm : s.Calm t
  lines : ∀ l : LineId, { t.lines[l] with chosen := false } = { s.lines[l] with chosen := false }

theorem Checked.refl (s : State) : Checked s s := ⟨rfl, fun _ => rfl, s.calm_refl, fun _ => rfl⟩

theorem Checked.after {s t u : State} (h' : Checked t u) (h : Checked s t) : Checked s u :=
  ⟨h'.outer.trans h.outer, fun c => (h'.chans c).trans (h.chans c), State.calm_trans h.calm h'.calm,
    fun l => (h'.lines l).trans (h.lines l)⟩

theorem chans_demandLinked (l : LineId) (s : State) (c : ChanId) : bare (s.demandLinked l).chans[c] = bare s.chans[c] := by
  cases hl : linkedRegion s l with
  | none => rw [demandLinked_none hl]
  | some id =>
    rw [demandLinked_some hl]
    exact (passed_demand id .relay _).chans c

theorem checked_formNotice (ls : List LineId) (o : Origin) (s : State) : Checked s (s.formNotice ls o) := by
  refine ⟨by simp, fun c => ?_, s.calm_formNotice ls o, fun l => ?_⟩
  · have heach (ls : List LineId) (t : State) : bare (t.each ls State.demandLinked).chans[c] = bare t.chans[c] := by
      induction ls generalizing t with
      | nil => rfl
      | cons l ls ih => exact (ih _).trans (chans_demandLinked l t c)
    rw [formNotice_eq]
    refine (heach ls _).trans ?_
    rw [noticeStart, chosenIn_eq]
    rfl
  · rw [lines_formNotice]
    split <;> rfl

theorem checked_relayCheck (s : State) : Checked s s.relayCheck := by
  have hover : Checked s (holdoffOver s) := ⟨rfl, fun _ => rfl, s.calm_modRelay _, fun _ => rfl⟩
  by_cases hstill : s.relay.hand ≠ .empty ∨ s.eligibleLines = []
  · rw [relayCheck_still hstill]
    exact .refl s
  · rw [not_or, not_not] at hstill
    obtain ⟨hh, he⟩ := hstill
    cases hm : s.relay.mode with
    | perLine =>
      obtain ⟨l, rest, hl⟩ := List.exists_cons_of_ne_nil he
      rw [relayCheck_perLine hh hm hl]
      exact checked_formNotice _ _ s
    | grouped =>
      rw [relayCheck_grouped hh hm he]
      split
      · exact (checked_formNotice _ _ _).after hover
      · exact ⟨rfl, fun _ => rfl, s.calm_modRelay _, fun _ => rfl⟩

theorem checked_trickleUpdate (s : State) : Checked s s.trickleUpdate :=
  have h := passed_trickleUpdate s
  ⟨h.outer, h.chans, h.calm, fun l => by rw [h.lines]⟩

/-- The lines follow their levels; trickle and the relay's check leave them so, but for the choice. -/
theorem checked_syncLines (s : State) : Checked { s with lines := latched s } s.syncLines := by
  rw [syncLines_eq]
  exact (checked_relayCheck _).after (checked_trickleUpdate _)

/-- The relay's check after a change of levels (R140 to R142). -/
theorem relayChecked_syncLines {s u t : State} (hl : u.lines = latched s) (hu : ∀ c : ChanId, s.chans[c] = u.chans[c])
    (hr : s.regions = u.regions) (hrl : s.relay = u.relay) (hf : s.fillLine = u.fillLine) (hn : s.now = u.now)
    (ha : Ahead s.syncLines t) : State.RelayChecked u t := by
  rw [syncLines_eq] at ha
  have hb := before_trickleUpdate { s with lines := latched s }
  have hframe := trickleUpdate_frame { s with lines := latched s }
  refine relayChecked_of (v := State.trickleUpdate { s with lines := latched s }) ⟨hb.lines.trans hl.symm,
    fun c => (hb.address c).trans (congrArg Chan.lastSystemAddress (hu c)), fun a => (hb.mirror a).trans ?_,
    fun r => (hb.entries r).trans ?_, fun r h => hb.runs r ?_, fun r h => ?_, hb.awaited.trans (congrArg Relay.awaited hrl),
    fun hp => hb.law ?_⟩ ?_ ?_ ha
  · simp only [State.mirrorAt, hr]
  · exact congrArg (fun g : Vector Region 16 => g[r].ship.entries) hr
  · show s.regions[r].ship.running = true
    rw [hr]
    exact h
  · have := hb.begun r h
    rwa [show ({ s with lines := latched s } : State).regions = u.regions from hr] at this
  · refine passesOk_of (fun h => h.of_eq hf hr (fun c r hm => ?_) fun r hm => ?_) (fun hh => handOk_of_eq hh hrl) hp
    · rw [← hu c]
      exact hm
    · rw [← hrl]
      exact hm
  · rw [hframe]
    exact hrl
  · rw [hframe]
    exact hn

/-! ### A change of the isolation switches (R13, R14) -/

/-- A state whose switches may have changed: the slots, the sample clock and the records alone are others. -/
def Switched (s u : State) : Prop := u = { s with slots := u.slots, sampleAt := u.sampleAt, link := u.link }

theorem connectedSlots_iff (s u : State) :
    u.connectedSlots = s.connectedSlots ↔ ∀ j : SlotId, u.slots[j].closed = s.slots[j].closed := by
  have hmem (s : State) (j : SlotId) : j ∈ s.connectedSlots ↔ s.slots[j].closed = true := by
    simp [-Fin.getElem_fin, State.connectedSlots, State.connected]
  constructor
  · intro h j
    rw [Bool.eq_iff_iff, ← hmem, ← hmem, h]
  · intro h
    unfold State.connectedSlots
    refine List.filter_congr fun j _ => ?_
    exact h j

theorem Switched.drives {s u : State} (h : Switched s u) : u.drives = s.drives := by
  rw [Switched] at h
  rw [h]

theorem lineLevel_switched {s u : State} (h : Switched s u) (l : LineId) :
    u.lineLevel l = decide (∃ j : SlotId, u.slots[j].closed = true ∧ l ∈ s.drives[j].lines) := by
  rw [Bool.eq_iff_iff, lineLevel_iff, decide_eq_true_eq, h.drives]

/-- The end of a master's tenure: the channel's context, the bus and the set of written regions. -/
theorem masterRelease_facts (c : ChanId) (s : State) :
    Granted (State.handOn { s with chans := s.chans.set c (releasedChan s.chans[c]) }) (s.masterRelease c) ∧
      Passed { s with chans := s.chans.set c (releasedChan s.chans[c]), written := [], free := s.free + 1 }
        (State.handOn { s with chans := s.chans.set c (releasedChan s.chans[c]) }) ∧
      (State.handOn { s with chans := s.chans.set c (releasedChan s.chans[c]) }).written = [] := by
  rw [masterRelease_eq]
  refine ⟨granted_grantPoint _, Passed.each _ passed_trigger _ _, ?_⟩
  have heach (ids : List RegionId) (t : State) (ht : t.written = []) : (t.each ids State.trigger).written = [] := by
    induction ids generalizing t with
    | nil => exact ht
    | cons id ids ih => exact ih _ (written_trigger id ht)
  exact heach _ _ rfl

theorem granted_arbitrate (s : State) : s.arbitrate = s ∨ Granted s s.arbitrate := by
  unfold State.arbitrate
  split
  · exact .inr (granted_grantPoint s)
  · exact .inl rfl

theorem request_arbitrate (s : State) (c : ChanId) : s.arbitrate.chans[c].request = s.chans[c].request := by
  obtain h | h := granted_arbitrate s
  · rw [h]
  · exact h.request c

theorem request_masterRelease (c d : ChanId) (s : State) : (s.masterRelease c).chans[d].request = s.chans[d].request := by
  obtain ⟨hg, hp, -⟩ := masterRelease_facts c s
  rw [hg.request d]
  refine (congrArg Chan.request (hp.chans d) :).trans ?_
  show (s.chans.set c (releasedChan s.chans[c]))[d].request = _
  rw [getElem_set_fin]
  split
  · next h =>
    subst h
    unfold releasedChan
    split <;> rfl
  · rfl

/-- Every channel's request stands as its line does. -/
theorem request_syncRequests (s : State) (c : ChanId) : s.syncRequests.chans[c].request = s.requestLevel c := by
  by_cases hrel : ∃ d : ChanId, s.arb.owner = .dma d true ∧ s.requestLevel d = false
  · obtain ⟨d, ho, hd⟩ := hrel
    rw [syncRequests_release ho hd, request_arbitrate, request_masterRelease, chans_followed, request_asked]
  · rw [syncRequests_stay fun d hd => by simpa using fun hno => hrel ⟨d, hd, hno⟩, request_arbitrate, chans_followed, request_asked]

theorem lines_syncRequests (s : State) : s.syncRequests.lines = s.lines := by
  have harb (t : State) : t.arbitrate.lines = t.lines := by
    obtain h | h := granted_arbitrate t
    · rw [h]
    · exact h.lines
  have hfol : (followed s).lines = s.lines := by rw [followed_eq]
  by_cases hrel : ∃ d : ChanId, s.arb.owner = .dma d true ∧ s.requestLevel d = false
  · obtain ⟨d, ho, hd⟩ := hrel
    obtain ⟨hg, hp, -⟩ := masterRelease_facts d (followed s)
    rw [syncRequests_release ho hd, harb, hg.lines, hp.lines]
    exact hfol
  · rw [syncRequests_stay fun d hd => by simpa using fun hno => hrel ⟨d, hd, hno⟩, harb, hfol]

/-- A master that has released the bus (R48, R81, R121). -/
structure Released (ch : Chan) (c : ChanId) (t : State) : Prop where
  owner : t.arb.owner.isChan c = false
  written : t.written = []
  ready : ch.maskPending = none → t.chans[c].state = .ready
  masked : ∀ r : MaskReason, ch.maskPending = some r →
    t.chans[c].state = .masked ∧ t.chans[c].maskReason = some r ∧ t.chans[c].maskPending = none

/-- The fall of a master's request (R48, R81). -/
theorem released_syncRequests {s : State} {c : ChanId} (ho : s.arb.owner = .dma c true)
    (h : s.requestLevel c = false) : Released s.chans[c] c s.syncRequests := by
  obtain ⟨hg, hp, hw⟩ := masterRelease_facts c (followed s)
  rw [syncRequests_release ho h]
  generalize (followed s).masterRelease c = m at hg
  have hfol : (followed s).chans[c] = s.chans[c].asked true false := by
    have hown : s.arb.owner.isChan c = true := by rw [ho]; exact decide_eq_true rfl
    rw [chans_followed, h, hown]
  have hasked : (followed s).chans[c].maskPending = s.chans[c].maskPending := by
    rw [hfol, Chan.asked]
    split
    · rfl
    · rw [if_neg Bool.false_ne_true, if_pos (.inr (.inl rfl))]
  have hrel : bare (State.handOn { followed s with chans := (followed s).chans.set c (releasedChan (followed s).chans[c]) }).chans[c] =
      bare (releasedChan (followed s).chans[c]) := by
    rw [hp.chans c]
    exact congrArg bare (getElem_set_same _ _ _)
  generalize State.handOn { followed s with chans := (followed s).chans.set c (releasedChan (followed s).chans[c]) } = k at hg hw hrel
  have hkstate : k.chans[c].state = (releasedChan (followed s).chans[c]).state := (congrArg Chan.state hrel :)
  have hnot : k.chans[c].state ≠ .serving := by
    rw [hkstate, releasedChan]
    split <;> simp
  obtain ⟨hbm, hom⟩ := hg.waiting c hnot
  have hmnot : m.chans[c].state ≠ .serving := by
    have : m.chans[c].state = k.chans[c].state := (congrArg Chan.state hbm :)
    rw [this]
    exact hnot
  have hfinal : bare m.arbitrate.chans[c] = bare (releasedChan (followed s).chans[c]) ∧ m.arbitrate.arb.owner.isChan c = false ∧
      m.arbitrate.written = [] := by
    obtain ha | ha := granted_arbitrate m
    · rw [ha]
      exact ⟨hbm.trans hrel, hom, hg.written hw⟩
    · obtain ⟨hb', ho'⟩ := ha.waiting c hmnot
      exact ⟨hb'.trans (hbm.trans hrel), ho', ha.written (hg.written hw)⟩
  obtain ⟨hb, hown, hwr⟩ := hfinal
  refine ⟨hown, hwr, fun hnone => ?_, fun r hr => ?_⟩
  · refine (congrArg Chan.state hb :).trans ?_
    show (releasedChan (followed s).chans[c]).state = _
    rw [releasedChan, hasked, hnone]
    rfl
  · have hval : releasedChan (followed s).chans[c] =
        { (followed s).chans[c] with state := .masked, maskReason := some r, maskPending := none } := by
      rw [releasedChan, hasked, hr]
      rfl
    rw [hval] at hb
    exact ⟨(congrArg Chan.state hb :), (congrArg Chan.maskReason hb :), (congrArg Chan.maskPending hb :)⟩

/-- The levels and the cycle on the bus after a change of the switches; the lines and the relay have followed. -/
def linesFollowed (u was : State) : State := (u.noteSwitches was).syncLines

theorem syncShared_eq (u was : State) : u.syncShared was = (linesFollowed u was).syncRequests := rfl

/-- What stands in the state whose lines have followed. -/
structure LinesFollowed (s u was t : State) : Prop where
  slots : t.slots = u.slots
  drives : t.drives = s.drives
  arb : t.arb = s.arb
  queue : t.queue = s.queue
  lane : t.lane = s.lane
  inFlight : t.inFlight = (u.noteSwitches was).inFlight
  chans : ∀ c : ChanId, bare t.chans[c] = bare s.chans[c]
  lines : ∀ l : LineId, { t.lines[l] with chosen := false } =
    { s.lines[l].setLevel s.now (decide (∃ j : SlotId, u.slots[j].closed = true ∧ l ∈ s.drives[j].lines)) with chosen := false }

theorem noteSwitches_switched {s u : State} (h : Switched s u) (was : State) : ∃ f : InFlight, f = (u.noteSwitches was).inFlight ∧
    u.noteSwitches was = { s with slots := u.slots, sampleAt := u.sampleAt, link := u.link, inFlight := f } := by
  refine ⟨_, rfl, ?_⟩
  rw [State.noteSwitches_eq]
  generalize (u.noteSwitches was).inFlight = f
  rw [Switched] at h
  rw [h]

theorem latched_switched {s u : State} (h : Switched s u) (was : State) (l : LineId) : (latched (u.noteSwitches was))[l] =
    s.lines[l].setLevel s.now (decide (∃ j : SlotId, u.slots[j].closed = true ∧ l ∈ s.drives[j].lines)) := by
  obtain ⟨f, -, hn⟩ := noteSwitches_switched h was
  rw [getElem_latched, ← lineLevel_switched h l, hn]
  have hdrives := h.drives
  have hlevel : State.lineLevel { s with slots := u.slots, sampleAt := u.sampleAt, link := u.link, inFlight := f } l =
      u.lineLevel l := by
    rw [Bool.eq_iff_iff, lineLevel_iff, lineLevel_iff, hdrives]
  rw [hlevel]

theorem linesFollowed_facts {s u : State} (h : Switched s u) (was : State) : LinesFollowed s u was (linesFollowed u was) := by
  have hck : Checked { u.noteSwitches was with lines := latched (u.noteSwitches was) } (linesFollowed u was) := checked_syncLines _
  have hl := latched_switched h was
  obtain ⟨f, hf, hn⟩ := noteSwitches_switched h was
  generalize latched (u.noteSwitches was) = us at hck hl
  rw [hn] at hck
  generalize linesFollowed u was = w at hck
  obtain ⟨ho, hc, -, hls⟩ := hck
  refine ⟨(State.slots_of_outer ho :), (congrArg (fun o => o.1.2.2.2.1) ho :), (State.arb_of_outer ho :),
    (State.queue_of_outer ho :), (congrArg (fun o => o.1.2.2.2.2.2.2.2.2.1) ho :),
    (congrArg (fun o => o.2.1) ho :).trans hf, hc, fun l => (hls l).trans ?_⟩
  rw [← hl]

/-- The channels follow the levels that the connected slots make. -/
theorem requestLevel_linesFollowed {s u : State} (h : Switched s u) (was : State) (c : ChanId) :
    (linesFollowed u was).requestLevel c = decide (∃ j : SlotId, u.slots[j].closed = true ∧ c ∈ s.drives[j].requests) := by
  have hw := linesFollowed_facts h was
  rw [Bool.eq_iff_iff, requestLevel_iff, decide_eq_true_eq, hw.slots, hw.drives]

/-- The relay's check stands behind a change of the switches (R140 to R142). -/
theorem relayChecked_switched {s u : State} (h : Switched s u) (was : State) (hp : PassesOk s) {us : Vector Line 11}
    (hus : us = latched (u.noteSwitches was)) {t : State} (ht : t = { u.syncShared was with link := t.link }) :
    State.RelayChecked { s with lines := us } t := by
  have hpw : PassesOk (linesFollowed u was) := by
    refine (keeps_syncLines _).passes ?_
    obtain ⟨f, -, hn⟩ := noteSwitches_switched h was
    rw [hn]
    exact passesOk_of (s := s) (fun hr => hr.of_eq rfl rfl (fun _ _ h => h) fun _ h => h) (fun hh => hh) hp
  have ha : Ahead (linesFollowed u was) t := by
    have hreq := ahead_syncRequests hpw
    rw [← syncShared_eq] at hreq
    generalize u.syncShared was = w at ht hreq
    rw [ht]
    have hlink : Ahead w { w with link := t.link } := .of_eq rfl rfl rfl rfl
    exact hlink.after hreq
  obtain ⟨f, -, hn⟩ := noteSwitches_switched h was
  have hls : linesFollowed u was = (u.noteSwitches was).syncLines := rfl
  rw [hls] at ha
  refine relayChecked_syncLines hus ?_ ?_ ?_ ?_ ?_ ha <;> rw [hn]
  intro c
  rfl

/-- The change that the cycle on the bus sees (R13, R21; log entry 37). -/
def change (s u : State) : List (List SlotId) :=
  if ∀ j : SlotId, u.slots[j].closed = s.slots[j].closed then [] else [(List.finRange 4).filter fun j => s.slots[j].closed]

theorem inFlight_noteSwitches {s u was : State} (h : Switched s u) (hw : was.slots = s.slots) :
    (∀ a : Access, s.inFlight = .access a → (u.noteSwitches was).inFlight = .access { a with switched := a.switched ++ change s u }) ∧
    (∀ x : Transfer, s.inFlight = .transfer x →
      (u.noteSwitches was).inFlight = .transfer { x with switched := x.switched ++ change s u }) ∧
    (∀ r : RefreshCycle, s.inFlight = .refresh r → (u.noteSwitches was).inFlight = .refresh r) := by
  have hf : u.inFlight = s.inFlight := by
    rw [Switched] at h
    rw [h]
  have hwas : was.connectedSlots = s.connectedSlots := (connectedSlots_iff s was).mpr fun j => by rw [hw]
  by_cases hsame : u.connectedSlots = s.connectedSlots
  · have hch : change s u = [] := if_pos ((connectedSlots_iff s u).mp hsame)
    rw [State.noteSwitches_of_eq (hsame.trans hwas.symm), hf, hch]
    exact ⟨fun a ha => by rw [ha, List.append_nil], fun x hx => by rw [hx, List.append_nil], fun r hr => hr⟩
  · have hch : change s u = [s.connectedSlots] := if_neg fun hj => hsame ((connectedSlots_iff s u).mpr hj)
    rw [State.noteSwitches_of_ne (fun h' => hsame (h'.trans hwas)), hwas, hch]
    have hadd : ({ u with inFlight := u.inFlight.addChange s.connectedSlots } : State).inFlight =
        s.inFlight.addChange s.connectedSlots := by rw [hf]
    rw [hadd]
    exact ⟨fun a ha => by rw [ha]; rfl, fun x hx => by rw [hx]; rfl, fun r hr => by rw [hr]; rfl⟩

/-- With the bus owned and not released the channels follow, and the bus stays. -/
theorem owned_syncRequests {s : State} (ho : s.arb.owner ≠ .none) (h : ∀ c : ChanId, s.arb.owner = .dma c true → s.requestLevel c = true) :
    s.syncRequests = followed s := by
  have harb : (followed s).arb = s.arb := by rw [followed_eq]
  rw [syncRequests_stay h]
  exact State.arbitrate_owned _ (by rw [harb]; exact ho)

/-- The switches have changed: what follows on the shared lines (R12 to R14). -/
theorem switchesFollowed {s u was : State} (h : Switched s u) (hw : was.slots = s.slots) {t : State}
    (ht : t = { u.syncShared was with link := t.link }) : s.SwitchesFollowed t := by
  have hl := linesFollowed_facts h was
  have hreq := requestLevel_linesFollowed h was
  have hchk (hp : PassesOk s) (us : Vector Line 11) (hus : us = latched (u.noteSwitches was)) :=
    relayChecked_switched h was hp hus ht
  have hlat := latched_switched h was
  obtain ⟨hacc, htra, href⟩ := inFlight_noteSwitches h hw
  have hslots : t.slots = u.slots := by
    have hk := (u.calm_syncShared was).1
    rw [ht]
    exact (congrArg (fun k => k.1.2.1) hk :)
  rw [syncShared_eq] at ht
  generalize linesFollowed u was = w at hl hreq ht
  have hlines := lines_syncRequests w
  have hrequest := request_syncRequests w
  have hstay := owned_syncRequests (s := w)
  have hrelease (c : ChanId) := released_syncRequests (s := w) (c := c)
  generalize w.syncRequests = v at ht hlines hrequest hstay hrelease
  have htv : t.lines = v.lines ∧ t.chans = v.chans ∧ t.arb = v.arb ∧ t.queue = v.queue ∧ t.lane = v.lane ∧
      t.inFlight = v.inFlight ∧ t.written = v.written := by
    rw [ht]
    exact ⟨rfl, rfl, rfl, rfl, rfl, rfl, rfl⟩
  obtain ⟨htl, htc, hta, htq, htn, hti, htw⟩ := htv
  unfold State.SwitchesFollowed
  rw [hslots]
  intro level asks chg
  have hchg : chg = change s u := rfl
  refine ⟨fun us hus => ?lines, fun c => ?request, fun ho hm => ?owned, fun c ho hs hf => ?master⟩
  case lines =>
    have hus' : us = latched (u.noteSwitches was) := by
      refine vector_ext fun l => ?_
      rw [hus l, hlat l, setLevel_eq]
    refine ⟨fun l => ?_, fun hp => hchk hp us hus'⟩
    rw [htl, hlines, hl.lines l, hus', hlat l]
  case request => rw [htc, hrequest, hreq]
  case owned =>
    have hv : v = followed w := hstay (by rw [hl.arb]; exact ho) fun c hc => by
      rw [hreq c]
      exact hm c (by rw [← hl.arb]; exact hc)
    have hchans (c : ChanId) : v.chans[c] = w.chans[c].asked (w.arb.owner.isChan c) (w.requestLevel c) := by
      rw [← chans_followed, hv]
    rw [followed_eq] at hv
    have hin : t.inFlight = (u.noteSwitches was).inFlight := by rw [hti, hv]; exact hl.inFlight
    refine ⟨by rw [hta, hv]; exact hl.arb, by rw [htq, hv]; exact hl.queue, by rw [htn, hv]; exact hl.lane, fun c => ?_,
      fun a ha => ?_, fun x hx => ?_, fun r hr => ?_⟩
    · have hb : bare t.chans[c] = bare (s.chans[c].asked (s.arb.owner.isChan c) (asks c)) := by
        rw [htc, hchans c, bare_asked, hl.chans c, ← bare_asked, hl.arb, hreq c]
      exact hb
    · rw [hin, hacc a ha, hchg]
    · rw [hin, htra x hx, hchg]
    · rw [hin, href r hr]
  case master =>
    obtain ⟨hown, hwr, hready, hmasked⟩ := hrelease c (by rw [hl.arb]; exact ho) ((hreq c).trans hf)
    have hpend : w.chans[c].maskPending = s.chans[c].maskPending := (congrArg Chan.maskPending (hl.chans c) :)
    rw [hpend] at hready hmasked
    rw [hta, htw, htc]
    exact ⟨hown, hwr, hready, hmasked⟩

end Sys2Proof.Proofs.SharedLines
end

section
/-! PROOFS. Slots that are powered and faulted, and the shared lines with them (R2 to R6, R9, R10, R13, R14). -/

open Sys2Proof Sys2Proof.Machine Sys2Proof.Proofs.LinkRequests Sys2Proof.Proofs.Trickle Sys2Proof.Proofs.RecordRequests
  Sys2Proof.Proofs.SharedLines

namespace Sys2Proof.Proofs.SlotSwitches

/-- The shared lines follow a change of the slots, and what no grant, pass or reply touches stays. -/
theorem syncShared_follows {s u was : State} (h : Switched s u) (hw : was.slots = s.slots) (hr : u.link.reports = s.link.reports) :
    State.Apart { s with slots := u.slots, sampleAt := u.sampleAt } (u.syncShared was) ∧ s.SwitchesFollowed (u.syncShared was) := by
  have hcalm : State.Calm { s with slots := u.slots, sampleAt := u.sampleAt } u := by
    rw [Switched] at h
    rw [h]
    exact State.calm_of_eq rfl rfl ⟨[], by rw [List.append_nil]; exact hr⟩ rfl rfl rfl
  have hfollows (t : State) (ht : t = u.syncShared was) : s.SwitchesFollowed t := switchesFollowed h hw (by rw [← ht])
  exact ⟨(State.calm_trans hcalm (u.calm_syncShared was)).apart, hfollows _ rfl⟩

/-! ### SLOT_POWER (R2, R6) -/

theorem servePowerOff_off {h : Hdr} {i : SlotId} {s : State} (hs : s.slots[i].state = .off) :
    servePowerOff h i.val s = s.reply kSlotPower h.tag .ok .empty := by
  rw [servePowerOff, withSlot_val, hs]

theorem servePowerOff_on {h : Hdr} {i : SlotId} {s : State} (hs : s.slots[i].state ≠ .off) :
    servePowerOff h i.val s = ((s.modSlot i Slot.turnOff).syncShared s).reply kSlotPower h.tag .ok .empty := by
  rw [servePowerOff, withSlot_val]
  split
  · next h' => exact absurd h' hs
  · rfl

/-- Settles O17: SLOT_POWER by the slot's state, and what follows on the shared lines. -/
theorem slotPowerTakesTheSlotUpAndDown : Obligations.SlotPowerTakesTheSlotUpAndDown := by
  refine fun s h i hs => ⟨fun value hv => ?on, fun c hc => ?off⟩
  case on =>
    rw [exec_served (c := .slotPowerOn h i.val value) rfl hs]
    show Host.Outcome.next (serveSlotPower h i.val value _) = _
    rw [serveSlotPower, if_neg hv, servePowerOn, withSlot_val]
    dsimp only
    cases hst : s.slots[i].state with
    | off => exact congrArg _ (reply_of_taken rfl _ _ _ _)
    | fault => exact congrArg _ (reply_of_taken rfl _ _ _ _)
    | ramping => exact congrArg _ (reply_of_taken rfl _ _ _ _)
    | held => exact congrArg _ (reply_of_taken rfl _ _ _ _)
    | settling => exact congrArg _ (reply_of_taken rfl _ _ _ _)
    | online => exact congrArg _ (reply_of_taken rfl _ _ _ _)
    | parked => exact congrArg _ (reply_of_taken rfl _ _ _ _)
  case off =>
    have hexec : exec c s = .next (servePowerOff h i.val { s with link := s.link.taken s.now h.more }) := by
      obtain rfl | rfl := hc
      · rw [exec_served (c := .slotPowerOff h i.val) rfl hs]
        rfl
      · rw [exec_served (c := .slotPowerOn h i.val 0) rfl hs]
        rfl
    refine ⟨fun hoff => ?_, fun hon => ?_⟩
    · rw [hexec, servePowerOff_off (by exact hoff)]
      exact congrArg _ (reply_of_taken rfl _ _ _ _)
    · rw [hexec, servePowerOff_on (by exact hon)]
      exact ⟨_, rfl, syncShared_follows (s := s)
        (u := State.modSlot { s with link := s.link.taken s.now h.more } i Slot.turnOff) rfl rfl rfl⟩

/-! ### Bring-up (R3 to R5) -/

/-- Settles O18: each expiry by the slot's state, before and after the deadline. -/
theorem bringUpExpiriesAdvanceTheSlot : Obligations.BringUpExpiriesAdvanceTheSlot := by
  intro s i d hd online
  have hreach : reachedBy s.slots[i].timer s.now = d.reached s.now := by rw [reachedBy, hd, Option.any_some]
  refine ⟨fun hr => ⟨fun hst => ?ramp, fun hst h0 => ?hold, fun hst h0 => ?through, fun hst => ?settle⟩, fun hr => ?early⟩
  case ramp =>
    rw [hr] at hreach
    have hcond : (s.slots[i].state = .ramping && reachedBy s.slots[i].timer s.now) = true := by rw [hst, hreach]; rfl
    have hexec (sl : Slot) (hsl : (if 475 ≤ s.slots[i].v5 then s.slots[i].hold s.now else s.slots[i].trip s.now .railLow none) = sl) :
        exec (.rampExpiry i) s = .next (State.syncShared { s with slots := s.slots.set i sl } s) := by
      simp only [exec, execRampExpiry, if_pos hcond, ← hsl]
      rfl
    by_cases hv : 475 ≤ s.slots[i].v5
    · obtain ⟨ha, hf⟩ := syncShared_follows (s := s) (u := { s with slots := s.slots.set i (s.slots[i].hold s.now) })
        (was := s) rfl rfl rfl
      exact ⟨_, hexec _ (if_pos hv), hf, fun _ => ha, fun hlt => absurd hv (Nat.not_le.mpr hlt)⟩
    · obtain ⟨ha, hf⟩ := syncShared_follows (s := s) (u := { s with slots := s.slots.set i (s.slots[i].trip s.now .railLow none) })
        (was := s) rfl rfl rfl
      exact ⟨_, hexec _ (if_neg hv), hf, fun hle => absurd hle hv, fun _ => ha⟩
  case hold =>
    rw [hr] at hreach
    have hcond : (s.slots[i].state = .held && reachedBy s.slots[i].timer s.now) = true := by rw [hst, hreach]; rfl
    have hsettle : s.slots[i].settle s.now = s.slots[i].enter .settling (some (inMillis s.now s.slots[i].settleTime)) := if_neg h0
    simp only [exec, execHoldExpiry, if_pos hcond, State.modSlot, hsettle]
    rfl
  case through =>
    rw [hr] at hreach
    have hcond : (s.slots[i].state = .held && reachedBy s.slots[i].timer s.now) = true := by rw [hst, hreach]; rfl
    have hsettle : s.slots[i].settle s.now =
        (s.slots[i].enter .settling (some (inMillis s.now s.slots[i].settleTime))).goOnline s.now := if_pos h0
    simp only [exec, execHoldExpiry, if_pos hcond, State.modSlot, hsettle]
    rfl
  case settle =>
    rw [hr] at hreach
    have hcond : (s.slots[i].state = .settling && reachedBy s.slots[i].timer s.now) = true := by rw [hst, hreach]; rfl
    simp only [exec, execSettleExpiry, if_pos hcond]
    rfl
  case early =>
    rw [hr] at hreach
    have hno (st : SlotState) : ¬ (s.slots[i].state = st && reachedBy s.slots[i].timer s.now) = true := by
      rw [hreach, Bool.and_false]
      exact Bool.false_ne_true
    simp only [exec, execRampExpiry, execHoldExpiry, execSettleExpiry, if_neg (hno _), and_self]

/-! ### Samples (R9, R10) -/

theorem sample_unpowered {sl : Slot} (m : Sample) (hp : sl.power = false) :
    sl.sample m = { sl with i5 := min m.i5 1000, i12 := min m.i12 1000, v5 := min m.v5 600 } := by
  have hp' : ¬ sl.power = true := by rw [hp]; exact Bool.false_ne_true
  exact if_neg hp'

/-- The counters of a powered slot: of an overload on either rail and of a low rail, in a row. -/
theorem sample_powered {sl : Slot} (m : Sample) (hp : sl.power = true) :
    sl.sample m = { sl with
      i5 := min m.i5 1000, i12 := min m.i12 1000, v5 := min m.v5 600
      over5 := if sl.limit5 * 10 < min m.i5 1000 then sl.over5 + 1 else 0
      over12 := if sl.limit12 * 10 < min m.i12 1000 then sl.over12 + 1 else 0
      low5 := if sl.closed = true then (if min m.v5 600 < 475 then sl.low5 + 1 else 0) else sl.low5 } := by
  refine (if_pos hp).trans ?_
  simp only [runCount, decide_eq_true_eq]

theorem tripAfter_unpowered {sl : Slot} (now : Time) (hp : sl.power = false) : sl.tripAfter now = sl := by
  rw [Slot.tripAfter, hp]
  rfl

/-- An overload trips before a low rail (R10). -/
theorem tripAfter_powered {sl : Slot} (now : Time) (hp : sl.power = true) : sl.tripAfter now =
    if 5 ≤ sl.over5 ∨ 5 ≤ sl.over12 then
      sl.trip now .overcurrent (some (if 5 ≤ sl.over5 ∧ 5 ≤ sl.over12 then .both else if 5 ≤ sl.over5 then .rail5 else .rail12))
    else if 5 ≤ sl.low5 then sl.trip now .railLow none else sl := by
  rw [Slot.tripAfter, hp, Bool.not_true, if_neg Bool.false_ne_true, Slot.overRail]
  by_cases h5 : 5 ≤ sl.over5 <;> by_cases h12 : 5 ≤ sl.over12 <;> simp [h5, h12]

theorem slots_modSlot (s : State) (i j : SlotId) (f : Slot → Slot) :
    (s.modSlot j f).slots[i] = if i = j then f s.slots[i] else s.slots[i] := by
  refine (getElem_set_fin _ _ _ _).trans ?_
  split
  · next h => rw [h]
  · rfl

/-- The state after the four samples. -/
def sampledAll (m : SlotId → Sample) (s : State) : State :=
  let one (i : SlotId) (t : State) : State := t.modSlot i fun sl => (sl.sample (m i)).tripAfter s.now
  one 3 (one 2 (one 1 (one 0 { s with sampleAt := ⟨s.sampleAt.due, 1000⟩ })))

theorem slots_sampledAll (m : SlotId → Sample) (s : State) (i : SlotId) :
    (sampledAll m s).slots[i] = (s.slots[i].sample (m i)).tripAfter s.now := by
  unfold sampledAll
  dsimp only
  rw [slots_modSlot, slots_modSlot, slots_modSlot, slots_modSlot]
  fin_cases i <;> rfl

theorem apart_slots {u t : State} (h : State.Apart u t) : t.slots = u.slots := (congrArg (fun k => k.1.2.1) h.1 :)

/-- Settles O19: the four samples, each of its own slot, and what follows on the shared lines. -/
theorem samplesCountAndTrip : Obligations.SamplesCountAndTrip := by
  refine fun s m => ⟨fun hr => ?early, fun hr => ?due⟩
  case early => simp only [exec, execSlotSample, hr, Bool.false_eq_true, if_false]
  case due =>
    have hexec : exec (.slotSample (m 0) (m 1) (m 2) (m 3)) s = .next ((sampledAll m s).syncShared s) := by
      simp only [exec, execSlotSample, hr, if_true]
      rfl
    obtain ⟨ha, hf⟩ := syncShared_follows (s := s) (u := sampledAll m s) (was := s) rfl rfl rfl
    have hslots (i : SlotId) : ((sampledAll m s).syncShared s).slots[i] = (s.slots[i].sample (m i)).tripAfter s.now := by
      rw [← slots_sampledAll]
      rw [apart_slots ha]
    have hall : ((sampledAll m s).syncShared s).slots = (sampledAll m s).slots :=
      vector_ext fun i => (hslots i).trans (slots_sampledAll m s i).symm
    rw [← hall] at ha
    refine ⟨_, hexec, ha, hf, fun i => ?_⟩
    rw [hslots i]
    intro a5 a12 av n5 n12 nl tripped
    refine ⟨fun hp => ?_, fun hp h5 h12 hl => ?_, fun hp ho => ?_, fun hp h5 h12 hl => ?_⟩
    · rw [sample_unpowered _ hp]
      exact tripAfter_unpowered _ hp
    · rw [sample_powered _ hp, tripAfter_powered _ (by exact hp)]
      exact (if_neg (not_or.mpr ⟨Nat.not_le.mpr (by exact h5), Nat.not_le.mpr (by exact h12)⟩)).trans (if_neg (Nat.not_le.mpr (by exact hl)))
    · rw [sample_powered _ hp, tripAfter_powered _ (by exact hp)]
      exact if_pos (by exact ho)
    · rw [sample_powered _ hp, tripAfter_powered _ (by exact hp)]
      exact (if_neg (not_or.mpr ⟨Nat.not_le.mpr (by exact h5), Nat.not_le.mpr (by exact h12)⟩)).trans (if_pos (by exact hl))

end Sys2Proof.Proofs.SlotSwitches
end

section
/-! PROOFS. The interrupt relay's commands: levels and edges with the passes that trickle begins (R134, R135, R140), the holdoff
(R142), and the requests INT_SET, LINE_SET and INT_DONE (R144, R146 to R148). -/

open Sys2Proof Sys2Proof.Machine Sys2Proof.Proofs.MapLaws Sys2Proof.Proofs.PassLaws Sys2Proof.Proofs.Laws Sys2Proof.Proofs.Trickle
  Sys2Proof.Proofs.RecordRequests Sys2Proof.Proofs.LinkRequests Sys2Proof.Proofs.PassFrame Sys2Proof.Proofs.Grants Sys2Proof.Proofs.Demands Sys2Proof.Proofs.SharedLines

namespace Sys2Proof.Proofs.RelayRequests

/-! ### Which regions trickle (R134, R135) -/

/-- What trickle looks at beside the region: the channels' kinds and addresses, the lines' links and levels. -/
structure SameTrickle (s t : State) : Prop where
  kind : ∀ c : ChanId, t.chans[c].kind = s.chans[c].kind
  address : ∀ c : ChanId, t.chans[c].lastSystemAddress = s.chans[c].lastSystemAddress
  linked : ∀ l : LineId, t.lines[l].linked = s.lines[l].linked
  level : ∀ l : LineId, t.lines[l].level = s.lines[l].level

theorem sameTrickle_of {s t : State} (hc : ∀ c : ChanId, bare t.chans[c] = bare s.chans[c])
    (hl : ∀ l : LineId, { t.lines[l] with chosen := false } = { s.lines[l] with chosen := false }) : SameTrickle s t :=
  ⟨fun c => (congrArg Chan.kind (hc c) :), fun c => (congrArg Chan.lastSystemAddress (hc c) :),
    fun l => (congrArg Line.linked (hl l) :), fun l => (congrArg Line.level (hl l) :)⟩

theorem isTrickling_of {s t : State} (h : SameTrickle s t) {r : RegionId} (hc : t.regions[r].cond = s.regions[r].cond)
    (hf : t.regions[r].fields = s.regions[r].fields) : t.isTrickling r = s.isTrickling r := by
  simp only [State.isTrickling, State.inTrickle, Region.isMirror, hc, hf, h.kind, h.address, h.linked, h.level]

theorem isTrickling_iff (s : State) (id : RegionId) : s.isTrickling id = true ↔
    s.regions[id].cond ≠ .absent ∧ s.regions[id].fields.kind = .mirror ∧
      ∃ (c : ChanId) (m : LineId), s.chans[c].kind = .fill ∧ s.lines[m].linked = some c ∧ s.lines[m].level = true ∧
        s.regions[id].fields.base ≤ s.chans[c].lastSystemAddress ∧
        s.chans[c].lastSystemAddress < s.regions[id].fields.base + s.regions[id].fields.length := by
  simp only [State.isTrickling, State.inTrickle, Region.isMirror, RegionFields.contains, Bool.and_eq_true, List.any_eq_true,
    List.mem_finRange, true_and, decide_eq_true_eq]
  constructor
  · rintro ⟨⟨hc, hk⟩, c, ⟨hfill, m, hl, hlev⟩, hb, he⟩
    exact ⟨hc, hk, c, m, hfill, hl, hlev, hb, he⟩
  · rintro ⟨hc, hk, c, m, hfill, hl, hlev, hb, he⟩
    exact ⟨⟨hc, hk⟩, c, ⟨hfill, m, hl, hlev⟩, hb, he⟩

/-- Every region's trickling flag stands as R135 says. -/
def Flagged (s : State) : Prop := ∀ r : RegionId, s.regions[r].ship.trickling = s.isTrickling r

theorem Flagged.same {s t : State} (h : Flagged s) (ht : SameTrickle s t) (hm : SameMap s t) : Flagged t := by
  intro r
  have hr : t.regions[r] = _ := hm r
  rw [isTrickling_of ht (by rw [hr]) (by rw [hr]), ← h r, hr]

theorem flagged_trickleUpdate (s : State) : Flagged s.trickleUpdate := by
  obtain ⟨rs, heq, hrs⟩ := trickleUpdate_eq s
  intro r
  have hreg : s.trickleUpdate.regions[r] = trickled s r := by
    rw [heq]
    exact hrs r
  have hp := checked_trickleUpdate s
  rw [isTrickling_of (sameTrickle_of hp.chans hp.lines) (by rw [hreg]; rfl) (by rw [hreg]; rfl), hreg]
  rfl

/-- A region placed over a channel in trickle is trickling at once. -/
theorem flagged_placeRegion {s : State} (h : Flagged s) (id : RegionId) (f : RegionFields) (rs : List PendingReply) :
    Flagged (s.placeRegion id f rs) := by
  intro r
  have hreg : (s.placeRegion id f rs).regions[r] = if r = id then { cond := .active, fields := f, ship :=
        { trickling := (s.modRegion id fun _ => { cond := .active, fields := f }).isTrickling id } } else s.regions[r] := by
    rw [placeRegion_eq]
    exact getElem_set_fin _ _ _ _
  have hst : SameTrickle (s.modRegion id fun _ => { cond := .active, fields := f }) (s.placeRegion id f rs) := by
    rw [placeRegion_eq]
    exact ⟨fun _ => rfl, fun _ => rfl, fun _ => rfl, fun _ => rfl⟩
  have hmod := State.regions_modRegion s id r fun _ => { cond := .active, fields := f }
  by_cases hr : r = id
  · subst hr
    rw [if_pos rfl] at hreg hmod
    rw [isTrickling_of hst (by rw [hreg, hmod]) (by rw [hreg, hmod]), hreg]
  · rw [if_neg hr] at hreg hmod
    have hsame : SameTrickle s (s.modRegion id fun _ => { cond := .active, fields := f }) :=
      ⟨fun _ => rfl, fun _ => rfl, fun _ => rfl, fun _ => rfl⟩
    rw [isTrickling_of hst (by rw [hreg, hmod]) (by rw [hreg, hmod]), isTrickling_of hsame (by rw [hmod]) (by rw [hmod]), hreg]
    exact h r

theorem flagged_removeRegion {s : State} (h : Flagged s) (id : RegionId) : Flagged (s.removeRegion id) := by
  simp only [State.removeRegion]
  split
  · exact flagged_placeRegion (s := { s with written := setRemove id s.written }) h id _ _
  · rw [each_replyNow_eq]
    intro r
    have hmod := State.regions_modRegion { s with written := setRemove id s.written } id r fun _ => {}
    show (State.modRegion { s with written := setRemove id s.written } id fun _ => {}).regions[r].ship.trickling =
      (State.modRegion { s with written := setRemove id s.written } id fun _ => {}).isTrickling r
    have hsame : SameTrickle s (State.modRegion { s with written := setRemove id s.written } id fun _ => {}) :=
      ⟨fun _ => rfl, fun _ => rfl, fun _ => rfl, fun _ => rfl⟩
    by_cases hr : r = id
    · subst hr
      rw [if_pos rfl] at hmod
      rw [State.isTrickling, hmod]
      rfl
    · rw [if_neg hr] at hmod
      rw [isTrickling_of hsame (by rw [hmod]) (by rw [hmod]), hmod]
      exact h r

theorem flagged_endPass {s : State} (h : Flagged s) (id : RegionId) : Flagged (s.endPass id) := by
  have hregs : (toldBlocks id s).regions = s.regions.set id
      { s.regions[id] with ship := { s.regions[id].ship with running := false, waiters := {} } } :=
    (congrArg State.regions (toldBlocks_eq id s) :)
  have htold : Flagged (toldBlocks id s) := by
    refine h.same ⟨fun c => ?_, fun c => ?_, fun l => ?_, fun l => ?_⟩ fun r => ?_
    · rw [chans_toldBlocks]; split <;> rfl
    · rw [chans_toldBlocks]; split <;> rfl
    · rw [toldBlocks_eq]
    · rw [toldBlocks_eq]
    · rw [hregs, getElem_set_fin]
      by_cases hr : r = id
      · subst hr
        rw [if_pos rfl]
        rfl
      · rw [if_neg hr]
        rfl
  rw [endPass_eq_told]
  split
  · have hflush : Flagged (((toldBlocks id s).modRegion id fun g => { g with flushWaiters := [] }).each
        (toldBlocks id s).regions[id].flushWaiters fun tag t => t.replyNow ⟨kRegionFlush, tag, .empty⟩) := by
      rw [each_replyNow_eq]
      refine htold.same ⟨fun _ => rfl, fun _ => rfl, fun _ => rfl, fun _ => rfl⟩ fun r => ?_
      show SameEntry _ ((toldBlocks id s).modRegion id fun g => { g with flushWaiters := [] }).regions[r]
      rw [State.regions_modRegion]
      by_cases hr : r = id
      · subst hr
        rw [if_pos rfl]
        rfl
      · rw [if_neg hr]
        rfl
    unfold State.mapPassEnded
    dsimp only
    split
    · exact flagged_removeRegion hflush id
    · exact hflush
  · exact htold

/-- What demands leave of the regions: their flags stand as they should, a region with bytes queued stays, a pass that runs goes on. -/
structure Shipping (s t : State) : Prop where
  flags : Flagged s → Flagged t
  kept : ∀ r : RegionId, s.regions[r].ship.entries ≠ [] → SameEntry s.regions[r] t.regions[r]
  runs : ∀ r : RegionId, s.regions[r].ship.running = true → t.regions[r].ship.running = true
  line : ∀ r : RegionId, r ∈ s.fillLine → r ∈ t.fillLine

theorem Shipping.refl (s : State) : Shipping s s := ⟨id, fun _ _ => rfl, fun _ h => h, fun _ h => h⟩

theorem Shipping.after {s t u : State} (h' : Shipping t u) (h : Shipping s t) : Shipping s u where
  flags hf := h'.flags (h.flags hf)
  kept r hr := sameEntry_trans (h.kept r hr) (h'.kept r (by rw [h.kept r hr]; exact hr))
  runs r hr := h'.runs r (h.runs r hr)
  line r hr := h'.line r (h.line r hr)

theorem shipping_of_eq {s t : State} (ht : SameTrickle s t) (hr : t.regions = s.regions) (hf : t.fillLine = s.fillLine) :
    Shipping s t := by
  refine ⟨fun h => h.same ht fun r => ?_, fun r _ => ?_, fun r h => ?_, fun r h => ?_⟩
  · rw [hr]; rfl
  · rw [hr]; rfl
  · rw [hr]; exact h
  · rw [hf]; exact h

theorem shipping_demand (id : RegionId) (d : Demander) (s : State) : Shipping s (s.demand id d) := by
  have hpassed := passed_demand id d s
  have htrickle : SameTrickle s (s.demand id d) := sameTrickle_of hpassed.chans fun l => by rw [hpassed.lines]
  have hw : Shipping s (s.modShip id fun q => { q with waiters := q.waiters.add d }) := by
    have hm : SameMap s (s.modShip id fun q => { q with waiters := q.waiters.add d }) := sameMap_modShip id _ s rfl
    refine ⟨fun h => h.same ⟨fun _ => rfl, fun _ => rfl, fun _ => rfl, fun _ => rfl⟩ hm, fun r _ => hm r, fun r h => ?_, fun _ h => h⟩
    rw [regions_modShip]
    by_cases hr : r = id
    · subst hr
      rw [if_pos rfl]
      exact h
    · rwa [if_neg hr]
  unfold State.demand
  dsimp only
  generalize s.modShip id (fun q => { q with waiters := q.waiters.add d }) = w at hw
  split
  · exact hw
  · next hrun =>
    refine .after ?_ hw
    by_cases he : w.regions[id].ship.entries = []
    · have hr1 (r : RegionId) := regions_modShip w id r fun q => { q with running := true }
      have hm : SameMap w (w.modShip id fun q => { q with running := true }) := sameMap_modShip id _ w rfl
      obtain ⟨g, hg, -⟩ := regions_endPass id (w.modShip id fun q => { q with running := true })
      have hother (r : RegionId) (hr : r ≠ id) :
          ((w.modShip id fun q => { q with running := true }).endPass id).regions[r] = w.regions[r] := by
        rw [hg, getElem_set_fin, if_neg hr, hr1, if_neg hr]
      have hst : SameTrickle w (w.modShip id fun q => { q with running := true }) :=
        ⟨fun _ => rfl, fun _ => rfl, fun _ => rfl, fun _ => rfl⟩
      rw [beginPass_empty he]
      refine ⟨fun h => flagged_endPass (h.same hst hm) id, fun r hr => ?_,
        fun r hr => ?_, fun r hr => ?_⟩
      · rw [hother r fun h => hr (h ▸ he)]
        rfl
      · rw [hother r fun h => hrun (h ▸ hr)]
        exact hr
      · rw [fillLine_endPass]
        exact hr
    · have hreg (r : RegionId) : (w.beginPass id).regions[r] = if r = id then
          { w.regions[id] with ship := { w.regions[id].ship with running := true } } else w.regions[r] := by
        rw [beginPass_queued he]
        exact getElem_set_fin _ _ _ _
      have hm : SameMap w (w.beginPass id) := by
        intro r
        rw [hreg r]
        by_cases hr : r = id
        · subst hr
          rw [if_pos rfl]
          rfl
        · rw [if_neg hr]
          rfl
      refine ⟨fun h => h.same ?_ hm, fun r _ => hm r, fun r hr => ?_, fun r hr => ?_⟩
      · rw [beginPass_queued he]
        exact ⟨fun _ => rfl, fun _ => rfl, fun _ => rfl, fun _ => rfl⟩
      · rw [hreg r]
        by_cases hrid : r = id
        · subst hrid
          rw [if_pos rfl]
        · rwa [if_neg hrid]
      · rw [beginPass_queued he]
        exact List.mem_append_left _ hr

theorem shipping_formNotice (ls : List LineId) (o : Origin) (s : State) : Shipping s (s.formNotice ls o) := by
  have hdemand (l : LineId) (s : State) : Shipping s (s.demandLinked l) := by
    cases hl : linkedRegion s l with
    | none => rw [demandLinked_none hl]; exact .refl s
    | some id =>
      rw [demandLinked_some hl]
      exact (shipping_demand id .relay _).after
        (shipping_of_eq (s := s) ⟨fun _ => rfl, fun _ => rfl, fun _ => rfl, fun _ => rfl⟩ rfl rfl)
  have heach (ls : List LineId) (s : State) : Shipping s (s.each ls State.demandLinked) := by
    induction ls generalizing s with
    | nil => exact .refl s
    | cons l ls ih => exact (ih _).after (hdemand l s)
  have hstart : Shipping s (noticeStart ls o s) := by
    rw [noticeStart, chosenIn_eq]
    refine shipping_of_eq ⟨fun _ => rfl, fun _ => rfl, fun l => ?_, fun l => ?_⟩ rfl rfl
    · exact (congrArg Line.linked (lines_chosenIn ls s l) :).trans (by split <;> rfl)
    · exact (congrArg Line.level (lines_chosenIn ls s l) :).trans (by split <;> rfl)
  rw [formNotice_eq]
  have hall := (heach ls (noticeStart ls o s)).after hstart
  generalize (noticeStart ls o s).each ls State.demandLinked = w at hall
  refine Shipping.after (t := w) (shipping_of_eq ?_ rfl rfl) hall
  exact ⟨fun _ => rfl, fun _ => rfl, fun _ => rfl, fun _ => rfl⟩

theorem shipping_relayCheck (s : State) : Shipping s s.relayCheck := by
  have hmod (f : Relay → Relay) : Shipping s (s.modRelay f) :=
    shipping_of_eq ⟨fun _ => rfl, fun _ => rfl, fun _ => rfl, fun _ => rfl⟩ rfl rfl
  by_cases hstill : s.relay.hand ≠ .empty ∨ s.eligibleLines = []
  · rw [relayCheck_still hstill]
    exact .refl s
  · rw [not_or, not_not] at hstill
    obtain ⟨hh, he⟩ := hstill
    cases hm : s.relay.mode with
    | perLine =>
      obtain ⟨l, rest, hl⟩ := List.exists_cons_of_ne_nil he
      rw [relayCheck_perLine hh hm hl]
      exact shipping_formNotice _ _ s
    | grouped =>
      rw [relayCheck_grouped hh hm he]
      split
      · exact (shipping_formNotice _ _ _).after (hmod _)
      · exact hmod _

/-- The regions that trickle after a look at it and the relay's check, and what they ship (R135). -/
theorem trickle_relayCheck (s : State) (id : RegionId) :
    s.trickleUpdate.relayCheck.regions[id].ship.trickling = s.trickleUpdate.relayCheck.isTrickling id ∧
      (s.trickleUpdate.relayCheck.isTrickling id = true → s.regions[id].ship.entries ≠ [] →
        s.trickleUpdate.relayCheck.regions[id].ship.running = true ∧
        (s.regions[id].ship.running = false → id ∈ s.trickleUpdate.relayCheck.fillLine)) := by
  have hs := shipping_relayCheck s.trickleUpdate
  have hc := checked_relayCheck s.trickleUpdate
  have hu := checked_trickleUpdate s
  have hflags := hs.flags (flagged_trickleUpdate s)
  obtain ⟨rs, heq, hrs⟩ := trickleUpdate_eq s
  have hreg : s.trickleUpdate.regions[id] = trickled s id := by
    rw [heq]
    exact hrs id
  have hline : s.trickleUpdate.fillLine = s.fillLine ++ (List.finRange 16).filter (begins s) := by rw [heq]
  clear heq hrs
  generalize s.trickleUpdate = v at *
  generalize v.relayCheck = w at *
  refine ⟨hflags id, fun ht he => ?_⟩
  have hkept := hs.kept id (by rw [hreg]; exact he)
  rw [isTrickling_of ((sameTrickle_of hc.chans hc.lines)) (by rw [hkept]) (by rw [hkept]),
    isTrickling_of (sameTrickle_of hu.chans hu.lines) (by rw [hreg]; rfl) (by rw [hreg]; rfl)] at ht
  have hbegins (hr : s.regions[id].ship.running = false) : begins s id = true := by
    rw [begins, ht, hr, List.isEmpty_eq_false_iff.mpr he]
    rfl
  refine ⟨hs.runs id ?_, fun hr => hs.line id ?_⟩
  · rw [hreg]
    show (s.regions[id].ship.running || begins s id) = true
    by_cases hr : s.regions[id].ship.running = true
    · rw [hr, Bool.true_or]
    · rw [hbegins (by simpa using hr), Bool.or_true]
  · rw [hline]
    exact List.mem_append_right _ (List.mem_filter.mpr ⟨List.mem_finRange id, hbegins hr⟩)

/-! ### INTERRUPT_LEVEL_CHANGE (R140) -/

/-- A slot's card asserts its interrupt lines anew. -/
def withLines (i : SlotId) (ls : List LineId) (s : State) : State :=
  { s with drives := s.drives.set i { s.drives[i] with lines := ls } }

theorem exec_interruptLevelChange (i : SlotId) (l : LineId) (on : Bool) (s : State) :
    exec (.interruptLevelChange i l on) s = .next (withLines i (setMember l on s.drives[i].lines) s).syncLines := rfl

theorem lineLevel_withLines (i : SlotId) (ls : List LineId) (s : State) (l : LineId) :
    (withLines i ls s).lineLevel l = true ↔ (s.slots[i].closed = true ∧ l ∈ ls) ∨
      ∃ j : SlotId, j ≠ i ∧ s.slots[j].closed = true ∧ l ∈ s.drives[j].lines := by
  have hdrive (j : SlotId) : (withLines i ls s).drives[j].lines = if j = i then ls else s.drives[j].lines := by
    have h : (withLines i ls s).drives[j] = _ := getElem_set_fin s.drives i j _
    rw [h]
    split <;> rfl
  rw [lineLevel_iff]
  constructor
  · rintro ⟨j, hj, hl⟩
    rw [hdrive] at hl
    by_cases hji : j = i
    · subst hji
      rw [if_pos rfl] at hl
      exact .inl ⟨hj, hl⟩
    · rw [if_neg hji] at hl
      exact .inr ⟨j, hji, hj, hl⟩
  · rintro (⟨hi, hl⟩ | ⟨j, hji, hj, hl⟩)
    · exact ⟨i, hi, by rw [hdrive, if_pos rfl]; exact hl⟩
    · exact ⟨j, hj, by rw [hdrive, if_neg hji]; exact hl⟩

theorem withLines_same (i : SlotId) (s : State) : withLines i s.drives[i].lines s = s := by
  have h : s.drives.set i s.drives[i] = s.drives := Vector.set_getElem_self _
  unfold withLines
  show ({ s with drives := s.drives.set i s.drives[i] } : State) = s
  rw [h]

/-- A line the card neither raises nor drops keeps its level. -/
theorem lineLevel_other {i : SlotId} {ls : List LineId} {s : State} {l : LineId}
    (h : l ∈ ls ↔ l ∈ s.drives[i].lines) : (withLines i ls s).lineLevel l = s.lineLevel l := by
  have hs := lineLevel_withLines i s.drives[i].lines s l
  rw [withLines_same] at hs
  rw [Bool.eq_iff_iff, lineLevel_withLines, hs, h]

theorem trickle_syncLines (s : State) (id : RegionId) :
    s.syncLines.regions[id].ship.trickling = s.syncLines.isTrickling id ∧
      (s.syncLines.isTrickling id = true → s.regions[id].ship.entries ≠ [] → s.syncLines.regions[id].ship.running = true ∧
        (s.regions[id].ship.running = false → id ∈ s.syncLines.fillLine)) := by
  have h := trickle_relayCheck { s with lines := latched s } id
  have he := syncLines_eq s
  generalize (State.trickleUpdate { s with lines := latched s }).relayCheck = t at h he
  rw [he]
  exact h

/-- What a change of what a card drives on the interrupt lines leaves. -/
structure LevelChanged (s s' : State) (us : Vector Line 11) (t : State) : Prop where
  apart : State.Apart s' t
  arb : t.arb = s.arb
  lines : ∀ m : LineId, { t.lines[m] with chosen := false } = { us[m] with chosen := false }
  shipped : ∀ id : RegionId, (t.regions[id].ship.trickling = true ↔ t.isTrickling id = true) ∧
    (t.isTrickling id = true → s.regions[id].ship.entries ≠ [] → t.regions[id].ship.running = true ∧
      (s.regions[id].ship.running = false → id ∈ t.fillLine))
  checked : State.RelayChecked { s with lines := us } t

theorem levelChanged (i : SlotId) (ls : List LineId) {s : State} {us : Vector Line 11}
    (hus : ∀ l : LineId, us[l] = s.lines[l].setLevel s.now ((withLines i ls s).lineLevel l)) :
    LevelChanged s (withLines i ls s) us (withLines i ls s).syncLines := by
  have harb : (withLines i ls s).arb = s.arb := rfl
  have hregs : (withLines i ls s).regions = s.regions := rfl
  have hlat : us = latched (withLines i ls s) := vector_ext fun l => (hus l).trans (getElem_latched (withLines i ls s) l).symm
  have hck := checked_syncLines (withLines i ls s)
  have hrelay : State.RelayChecked { s with lines := us } (withLines i ls s).syncLines :=
    relayChecked_syncLines (s := withLines i ls s) hlat (fun _ => rfl) rfl rfl rfl rfl (.refl _)
  have htr := trickle_syncLines (withLines i ls s)
  generalize (withLines i ls s).syncLines = t at *
  rw [← hlat] at hck
  clear hlat hus
  generalize withLines i ls s = s' at *
  refine ⟨?_, ?_, hck.lines, fun id => ?_, hrelay⟩
  · exact (State.Calm.apart hck.calm :)
  · exact (State.arb_of_outer hck.outer :).trans harb
  · obtain ⟨hflag, hship⟩ := htr id
    rw [hregs] at hship
    exact ⟨by rw [hflag], hship⟩

theorem raised (i : SlotId) (l : LineId) {s : State} {us : Vector Line 11}
    (hus : ∀ m : LineId, us[m] = s.lines[m].setLevel s.now ((withLines i (setInsert l s.drives[i].lines) s).lineLevel m)) :
    ∃ t : State, exec (.interruptLevelChange i l true) s = .next t ∧
      LevelChanged s (withLines i (setInsert l s.drives[i].lines) s) us t :=
  ⟨_, exec_interruptLevelChange i l true s, levelChanged i _ hus⟩

theorem dropped (i : SlotId) (l : LineId) {s : State} {us : Vector Line 11}
    (hus : ∀ m : LineId, us[m] = s.lines[m].setLevel s.now ((withLines i (setRemove l s.drives[i].lines) s).lineLevel m)) :
    ∃ t : State, exec (.interruptLevelChange i l false) s = .next t ∧
      LevelChanged s (withLines i (setRemove l s.drives[i].lines) s) us t :=
  ⟨_, exec_interruptLevelChange i l false s, levelChanged i _ hus⟩

/-- Settles O46: the rise of a connected card, one that makes no edge, and a fall. -/
theorem edgesAreLatched : Obligations.EdgesAreLatched := by
  intro s i l hlevels trickles shipped
  have hshipped {t s' us} (h : LevelChanged s s' us t) : shipped t := fun id => by
    obtain ⟨hflag, hship⟩ := h.shipped id
    exact ⟨hflag.trans (isTrickling_iff t id), fun htr => hship ((isTrickling_iff t id).mpr htr)⟩
  have hinsert (m : LineId) (hm : m ≠ l) : m ∈ setInsert l s.drives[i].lines ↔ m ∈ s.drives[i].lines := by
    rw [mem_setInsert, or_iff_right hm]
  have hremove (m : LineId) (hm : m ≠ l) : m ∈ setRemove l s.drives[i].lines ↔ m ∈ s.drives[i].lines := by
    rw [mem_setRemove, and_iff_left hm]
  refine ⟨fun hclosed hlow => ?rise, fun hno => ?none, ?fall⟩
  case rise =>
    have hup : (withLines i (setInsert l s.drives[i].lines) s).lineLevel l = true :=
      (lineLevel_withLines _ _ _ _).mpr (.inl ⟨hclosed, (mem_setInsert _ _ _).mpr (.inl rfl)⟩)
    obtain ⟨t, ht, h⟩ := raised i l (s := s) (us := s.lines.set l (if s.lines[l].pending = true
          then { s.lines[l] with level := true, merged := true }
          else { s.lines[l] with level := true, pending := true, edgeTime := s.now })) fun m => by
      rw [getElem_set_fin]
      by_cases hm : m = l
      · subst hm
        rw [if_pos rfl, hup, setLevel_eq]
        exact (if_pos ⟨rfl, hlow⟩).symm
      · rw [if_neg hm, setLevel_same]
        rw [lineLevel_other (hinsert m hm), hlevels]
    refine ⟨t, ht, h.apart, h.arb, ?_⟩
    have hl := h.lines l
    rw [getElem_set_same] at hl
    refine ⟨?_, ?_, ?_, ?_, ?_, fun hp => ?_, fun hp => ?_, fun m hm => ?_, hshipped h, h.checked⟩
    · exact (congrArg Line.level hl :).trans (by split <;> rfl)
    · exact (congrArg Line.pending hl :).trans (by split <;> [assumption; rfl])
    · exact (congrArg Line.masked hl :).trans (by split <;> rfl)
    · exact (congrArg Line.inService hl :).trans (by split <;> rfl)
    · exact (congrArg Line.linked hl :).trans (by split <;> rfl)
    · rw [if_neg (by rw [hp]; exact Bool.false_ne_true)] at hl
      exact ⟨(congrArg Line.edgeTime hl :), (congrArg Line.merged hl :)⟩
    · rw [if_pos hp] at hl
      exact ⟨(congrArg Line.edgeTime hl :), (congrArg Line.merged hl :)⟩
    · have hm' := h.lines m
      rw [getElem_set_fin, if_neg hm] at hm'
      exact hm'
  case none =>
    obtain ⟨t, ht, h⟩ := raised i l (s := s) (us := s.lines) fun m => by
      refine (setLevel_same ?_).symm
      rw [← hlevels m]
      by_cases hm : m = l
      · subst hm
        have hs := lineLevel_withLines i s.drives[i].lines s m
        rw [withLines_same] at hs
        rw [Bool.eq_iff_iff, lineLevel_withLines]
        obtain hopen | hhigh := hno
        · rw [hs, hopen]
          simp
        · rw [hlevels m, hhigh]
          refine iff_of_true ?_ rfl
          obtain ⟨hc, -⟩ | hj := hs.mp ((hlevels m).trans hhigh)
          · exact .inl ⟨hc, (mem_setInsert _ _ _).mpr (.inl rfl)⟩
          · exact .inr hj
      · exact lineLevel_other (hinsert m hm)
    exact ⟨t, ht, h.apart, h.arb, h.lines, hshipped h, h.checked⟩
  case fall =>
    have hdown : (withLines i (setRemove l s.drives[i].lines) s).lineLevel l =
        decide (∃ j : SlotId, j ≠ i ∧ s.slots[j].closed = true ∧ l ∈ s.drives[j].lines) := by
      rw [Bool.eq_iff_iff, lineLevel_withLines, decide_eq_true_eq, or_iff_right]
      exact fun h => ((mem_setRemove _ _ _).mp h.2).2 rfl
    obtain ⟨t, ht, h⟩ := dropped i l (s := s) (us := s.lines.set l { s.lines[l] with
        level := decide (∃ j : SlotId, j ≠ i ∧ s.slots[j].closed = true ∧ l ∈ s.drives[j].lines) }) fun m => by
      rw [getElem_set_fin]
      by_cases hm : m = l
      · subst hm
        rw [if_pos rfl, hdown, setLevel_eq, if_neg]
        rintro ⟨hup, hlow⟩
        have hs := lineLevel_withLines i s.drives[i].lines s m
        rw [withLines_same, hlevels, hlow] at hs
        exact Bool.false_ne_true (hs.mpr (.inr (decide_eq_true_eq.mp hup)))
      · rw [if_neg hm, setLevel_same]
        rw [lineLevel_other (hremove m hm), hlevels]
    refine ⟨t, ht, h.apart, h.arb, hshipped h, fun m => ?_, h.checked⟩
    have hm := h.lines m
    rw [getElem_set_fin] at hm
    exact hm

/-! ### HOLDOFF_EXPIRY (R142) -/

/-- Settles O47: at the deadline the lines then eligible, and before it nothing. -/
theorem holdoffChoosesEveryEligibleLine : Obligations.HoldoffChoosesEveryEligibleLine := by
  intro s d hat hhand
  have hcond : (s.relay.hand = .holdoff && reachedBy s.relay.holdoffAt s.now) = d.reached s.now := by
    rw [hhand, hat]
    rfl
  have hexec (hr : d.reached s.now = true) : exec .holdoffExpiry s = .next s.expireHoldoff := if_pos (hcond.trans hr)
  refine ⟨fun hr he => ?none, fun hr he => ?some, fun hr => ?early⟩
  case none =>
    rw [hexec hr, expireHoldoff_eq, if_pos he]
    rfl
  case some =>
    rw [hexec hr, expireHoldoff_eq, if_neg he]
    have hb : Before s (holdoffOver s) := ⟨rfl, fun _ => rfl, fun _ => rfl, fun _ => rfl, fun _ h => h, fun _ h => .inl h, rfl,
      fun hp => ((passesOk_iff s).mp hp).1.of_eq rfl rfl (fun _ _ h => h) fun _ h => h⟩
    have hformed := noticeFormed_of (ls := s.eligibleLines) (o := .holdoff) hb (fun hp => by
      by_contra hne
      have := hp.hand.mpr hne
      rw [hhand] at this
      cases this) (.refl _)
    have hck := checked_formNotice s.eligibleLines .holdoff (holdoffOver s)
    have hrel := relay_formNotice s.eligibleLines .holdoff (holdoffOver s)
    generalize (holdoffOver s).formNotice s.eligibleLines .holdoff = t at hformed hck hrel
    exact ⟨t, rfl, (State.calm_trans (s.calm_modRelay _) hck.calm).apart, (State.arb_of_outer hck.outer :), hformed,
      (congrArg Relay.holdoffAt hrel :), (congrArg Relay.mode hrel :), (congrArg Relay.holdoff hrel :)⟩
  case early => exact if_neg (by rw [hcond, hr]; exact Bool.false_ne_true)

/-! ### INT_SET, LINE_SET and INT_DONE (R144, R146 to R148) -/

/-- The check looks at nothing of the link unit. -/
theorem before_of_link {u v : State} {l : Link} (h : Before { u with link := l } v) : Before u v :=
  ⟨h.lines, h.address, h.mirror, h.entries, h.runs, h.begun, h.awaited,
    fun hp => h.law ⟨hp.line, hp.mirror, hp.chans, hp.relay, hp.hand, hp.map⟩⟩

/-- A line that is not eligible is left alone by the check. -/
theorem line_of_relayChecked {u t : State} (h : State.RelayChecked u t) {l : LineId} (hl : u.lines[l].eligible = false) :
    t.lines[l] = u.lines[l] := by
  obtain ⟨hstill, hper, hgroup, -⟩ := h
  have hno : l ∉ u.eligibleLines := fun hm => by
    have := (List.mem_filter.mp hm).2
    rw [hl] at this
    cases this
  by_cases hs : u.relay.hand ≠ .empty ∨ u.eligibleLines = []
  · rw [(hstill hs).2]
  · rw [not_or, not_not] at hs
    obtain ⟨hh, he⟩ := hs
    cases hm : u.relay.mode with
    | perLine =>
      obtain ⟨k, rest, hk⟩ := List.exists_cons_of_ne_nil he
      obtain ⟨⟨-, -, hlines, -⟩, -⟩ := hper hh hm k rest hk
      rw [hlines l, if_neg]
      rw [List.mem_singleton]
      rintro rfl
      exact hno (hk ▸ List.mem_cons_self)
    | grouped =>
      obtain ⟨hwait, hform⟩ := hgroup hh hm he
      by_cases h0 : u.relay.holdoff = 0
      · obtain ⟨⟨-, -, hlines, -⟩, -⟩ := hform h0
        rw [hlines l, if_neg hno]
      · rw [(hwait h0).1]

/-- What a request of the relay leaves, its reply placed before the check: `u` is the state with its fields set. -/
structure Answered (s u : State) (r : Report) (t : State) : Prop where
  apart : State.Apart s t
  arb : t.arb = s.arb
  reports : ∃ more : List Report, t.link.reports = s.link.reports ++ r :: more
  checked : State.RelayChecked u t
  lines : ∀ n : LineId, { t.lines[n] with chosen := false } = { u.lines[n] with chosen := false }

theorem relay_trickleUpdate (s : State) : s.trickleUpdate.relay = s.relay := by rw [trickleUpdate_frame]

/-- The check made on a state in which a relay request has been answered. -/
theorem answered_relayCheck {s v : State} {us : Vector Line 11} {rl : Relay} {l : Link} {r : Report}
    (hl : l.reports = s.link.reports ++ [r])
    (hv : Checked { s with lines := us, relay := rl, link := l } v)
    (hb : Before { s with lines := us, relay := rl, link := l } v) (hrel : v.relay = rl) :
    Answered s { s with lines := us, relay := rl } r v.relayCheck := by
  have hck := (checked_relayCheck v).after hv
  have hrc : State.RelayChecked { s with lines := us, relay := rl } v.relayCheck :=
    relayChecked_of (before_of_link hb) hrel (State.now_of_outer hv.outer :) (.refl _)
  have hcalm : State.Calm s { s with lines := us, relay := rl, link := l } :=
    State.calm_of_eq rfl rfl ⟨[r], hl⟩ rfl rfl rfl
  generalize v.relayCheck = t at hck hrc
  obtain ⟨-, -, ⟨more, hmore⟩, -⟩ := hck.calm.apart
  refine ⟨(State.calm_trans hcalm hck.calm).apart, (State.arb_of_outer hck.outer :), ⟨more, ?_⟩, hrc, hck.lines⟩
  rw [hmore, hl, List.append_assoc]
  rfl

/-- The same, where trickle has been looked at before it. -/
theorem answered_trickleUpdate {s u : State} {us : Vector Line 11} {rl : Relay} {l : Link} {r : Report}
    (hl : l.reports = s.link.reports ++ [r]) (hu : u = { s with lines := us, relay := rl, link := l }) :
    Answered s { s with lines := us, relay := rl } r u.trickleUpdate.relayCheck := by
  have hck := checked_trickleUpdate u
  have hb := before_trickleUpdate u
  have hrel := relay_trickleUpdate u
  generalize u.trickleUpdate = v at hck hb hrel
  subst hu
  exact answered_relayCheck hl hck hb hrel

theorem allOf_map_lineNumber (ls : List LineId) : allOf lineOf (ls.map lineNumber) = some ls := by
  have hline : ∀ l : LineId, lineOf (lineNumber l) = some l := by decide
  induction ls with
  | nil => rfl
  | cons l ls ih => rw [List.map_cons, allOf, hline, ih]

theorem allOf_lineOf_none {ns : List Nat} (h : ∃ n ∈ ns, n ∉ [3, 4, 5, 6, 7, 9, 10, 11, 12, 14, 15]) : allOf lineOf ns = none := by
  induction ns with
  | nil => simp at h
  | cons n ns ih =>
    obtain ⟨m, hm, hbad⟩ := h
    rw [allOf]
    obtain rfl | hm := List.mem_cons.mp hm
    · rw [lineOf_none hbad]
    · rw [ih ⟨m, hm, hbad⟩]
      cases lineOf n <;> rfl

theorem recordCheck_intDone {n : Nat} (h1 : 1 ≤ n) (h2 : n ≤ 11) : recordCheck kIntDone n 0 = .ok := by
  simp [recordCheck, allowedLength, kIntDone, kMirrorGet, h1, h2]

/-- A line's mask and link are set; out of the notice in hand when it is masked (R144, R148). -/
def setLine (l : LineId) (masked : Nat) (link : Option ChanId) (s : State) : State :=
  let s := s.modLine l fun r => { r with masked := masked ≠ 0, linked := link }
  if masked ≠ 0 then s.withdraw l else s

/-- The number LINE_SET carries for a link. -/
def linkNumber : Option ChanId → Nat
  | some c => chanNumber c
  | none => 0xFF

theorem linkOf_linkNumber (link : Option ChanId) : linkOf (linkNumber link) = some link := by
  cases link with
  | none => rfl
  | some c =>
    have hne : chanNumber c ≠ 0xFF := by
      revert c
      decide
    rw [linkNumber, linkOf, if_neg hne, chanOf_chanNumber]
    rfl

theorem serveLineSet_eq (h : Hdr) (l : LineId) (masked : Nat) (link : Option ChanId) (s : State) :
    serveLineSet h (lineNumber l) masked (linkNumber link) s =
      ((setLine l masked link s).reply kLineSet h.tag .ok
        (.line (lineNumber l) (setLine l masked link s).lines[l])).trickleUpdate.relayCheck := by
  have hline : lineOf (lineNumber l) = some l := by
    revert l
    decide
  rw [serveLineSet, hline, linkOf_linkNumber]
  rfl

/-- The line's record after LINE_SET, and the relay, which discards a notice that has lost its last line. -/
theorem setLine_eq (l : LineId) (masked : Nat) (link : Option ChanId) (s : State) :
    setLine l masked link s = { s with
      lines := s.lines.set l { s.lines[l] with
        linked := link, masked := masked ≠ 0, chosen := s.lines[l].chosen && decide (masked = 0) }
      relay := if masked ≠ 0 ∧ s.lines[l].chosen = true ∧ (∀ n : LineId, n ≠ l → s.lines[n].chosen = false) ∧
          (s.relay.hand = .flushing ∨ s.relay.hand = .claiming)
        then { s.relay with hand := .empty, awaited := [] } else s.relay } := by
  unfold setLine
  dsimp only
  by_cases h0 : masked = 0
  · rw [if_neg (not_not_intro h0), if_neg fun h => h.1 h0]
    simp [State.modLine, h0]
  · rw [if_pos h0]
    have hmod : (s.modLine l fun r => { r with masked := masked ≠ 0, linked := link }).modLine l (fun r => { r with chosen := false }) =
        { s with lines := s.lines.set l { s.lines[l] with
          linked := link, masked := masked ≠ 0, chosen := s.lines[l].chosen && decide (masked = 0) } } := by
      simp [State.modLine, h0]
    have hwas : (s.modLine l fun r => { r with masked := masked ≠ 0, linked := link }).lines[l].chosen = s.lines[l].chosen := by
      simp [State.modLine]
    have hempty : ({ s with lines := s.lines.set l { s.lines[l] with
          linked := link, masked := masked ≠ 0, chosen := s.lines[l].chosen && decide (masked = 0) } } : State).chosenLines = [] ↔
        ∀ n : LineId, n ≠ l → s.lines[n].chosen = false := by
      simp only [State.chosenLines, List.filter_eq_nil_iff, List.mem_finRange, true_implies, getElem_set_fin, h0, decide_false,
        Bool.and_false, Bool.not_eq_true]
      refine forall_congr' fun n => ?_
      by_cases hn : n = l
      · simp [hn]
      · simp [hn]
    unfold State.withdraw
    rw [hmod, hwas]
    dsimp only
    refine (if_congr (Q := masked ≠ 0 ∧ s.lines[l].chosen = true ∧ (∀ n : LineId, n ≠ l → s.lines[n].chosen = false) ∧
          (s.relay.hand = .flushing ∨ s.relay.hand = .claiming)) ?_ rfl rfl).trans ?_
    · rw [Bool.and_eq_true, Bool.and_eq_true, Bool.or_eq_true, decide_eq_true_eq, decide_eq_true_eq, List.isEmpty_iff, hempty,
        and_assoc, ne_eq, and_iff_right h0]
    · split <;> rfl

/-- The lines named have their service ended. -/
theorem clearService_eq (ls : List LineId) (s : State) :
    ∃ us : Vector Line 11, (s.each ls fun l t => t.modLine l fun r => { r with inService := false }) = { s with lines := us } ∧
      ∀ n : LineId, us[n] = { s.lines[n] with inService := s.lines[n].inService && !decide (n ∈ ls) } := by
  induction ls generalizing s with
  | nil => exact ⟨s.lines, rfl, fun n => by simp⟩
  | cons l ls ih =>
    obtain ⟨us, heq, hus⟩ := ih (s.modLine l fun r => { r with inService := false })
    refine ⟨us, ?_, fun n => ?_⟩
    · rw [State.each_cons, heq]
      rfl
    · have hl : (s.modLine l fun r => { r with inService := false }).lines[n] =
          if n = l then { s.lines[l] with inService := false } else s.lines[n] := getElem_set_fin _ _ _ _
      rw [hus n, hl]
      by_cases hn : n = l
      · subst hn
        simp [-Fin.getElem_fin]
      · simp [-Fin.getElem_fin, hn]

/-- Settles O48: each request sets its fields, is answered, and the relay checks. -/
theorem relayRequestsSetTheirFields : Obligations.RelayRequestsSetTheirFields := by
  intro s h hs
  refine ⟨fun hold => ?modeRange, fun m hold => ?intSet, fun n masked link hbad => ?lineRange, fun l masked link => ?lineSet,
    fun ns h1 h2 hbad => ?doneRange, fun ls h1 h2 => ?done⟩
  case modeRange => exact exec_refused (c := .intSet h none hold) rfl hs rfl
  case intSet =>
    have hclamp : clamp 0 200 hold = min hold 200 := by
      rw [clamp_eq]
      split <;> [omega; (split <;> omega)]
    have hans := answered_relayCheck (s := s) (us := s.lines) (rl := { s.relay with mode := m, holdoff := min hold 200 })
      (l := s.link.answered s.now h.more (.reply 0xA8 h.tag .ok (.relaySettings m (min hold 200))))
      (r := .reply 0xA8 h.tag .ok (.relaySettings m (min hold 200))) rfl (.refl _) (before_refl _) rfl
    have hexec : exec (.intSet h (some m) hold) s = .next (State.relayCheck { s with
        relay := { s.relay with mode := m, holdoff := min hold 200 }
        link := s.link.answered s.now h.more (.reply 0xA8 h.tag .ok (.relaySettings m (min hold 200))) }) := by
      rw [exec_served (c := .intSet h (some m) hold) rfl hs]
      simp only [route, serveIntSet, hclamp]
      rw [reply_of_taken rfl]
      rfl
    obtain ⟨hap, harb, ⟨more, hrep⟩, hck, hlines⟩ := hans
    exact ⟨_, more, hexec, hap, harb, hck.2.2.2.1, hck.2.2.2.2, hrep, hck, hlines⟩
  case lineRange =>
    refine exec_refused (c := .lineSet h n masked link) rfl hs ?_
    show serveLineSet h n masked link _ = _
    rw [serveLineSet]
    obtain hn | hl := hbad
    · rw [lineOf_none hn]
      rfl
    · have hlink : linkOf link = none := by
        rw [linkOf, if_neg (by omega), chanOf_none (by omega)]
        rfl
      rw [hlink]
      cases lineOf n <;> rfl
  case lineSet =>
    show ∃ (t : State) (more : List Report), exec (.lineSet h (lineNumber l) masked (linkNumber link)) s = .next t ∧ _
    have hexec := exec_served (c := .lineSet h (lineNumber l) masked (linkNumber link)) rfl hs
    rw [route, serveLineSet_eq, setLine_eq, reply_of_taken rfl] at hexec
    dsimp only at hexec
    rw [getElem_set_same] at hexec
    generalize hrl : (if masked ≠ 0 ∧ s.lines[l].chosen = true ∧ (∀ n : LineId, n ≠ l → s.lines[n].chosen = false) ∧
        (s.relay.hand = .flushing ∨ s.relay.hand = .claiming) then { s.relay with hand := .empty, awaited := [] } else s.relay) = rl
        at hexec
    generalize hset : ({ s.lines[l] with
        linked := link, masked := masked ≠ 0, chosen := s.lines[l].chosen && decide (masked = 0) } : Line) = set at hexec
    obtain ⟨u, hu, hexec⟩ : ∃ u : State, u = { s with
        lines := s.lines.set l set, relay := rl
        link := s.link.answered s.now h.more (.reply 0xA9 h.tag .ok (.line (lineNumber l) set)) } ∧
        exec (.lineSet h (lineNumber l) masked (linkNumber link)) s = .next u.trickleUpdate.relayCheck := ⟨_, rfl, hexec⟩
    have hans := answered_trickleUpdate (r := .reply 0xA9 h.tag .ok (.line (lineNumber l) set)) rfl hu
    generalize u.trickleUpdate.relayCheck = t at hans hexec
    obtain ⟨hap, harb, ⟨more, hrep⟩, hck, hlines⟩ := hans
    refine ⟨_, more, hexec, hap, harb, fun hm => ?_, fun n => ?_, hrep, fun hno => ?_, fun hem => ?_⟩
    · have hline : ({ s with lines := s.lines.set l set, relay := rl } : State).lines[l] = set := getElem_set_same _ _ _
      have hel : ({ s with lines := s.lines.set l set, relay := rl } : State).lines[l].eligible = false := by
        rw [hline, ← hset]
        simp [Line.eligible, hm]
      refine (congrArg Line.chosen ((line_of_relayChecked hck hel).trans hline)).trans ?_
      rw [← hset]
      simp [hm]
    · rw [hlines n]
      show ({ (s.lines.set l set)[n] with chosen := false } : Line) = _
      rw [getElem_set_fin]
      by_cases hn : n = l
      · subst hn
        rw [if_pos rfl, if_pos rfl, ← hset]
      · rw [if_neg hn, if_neg hn]
    · rw [if_neg hno] at hrl
      subst hrl hset
      exact hck
    · rw [if_pos hem] at hrl
      subst hrl hset
      exact hck
  case doneRange =>
    refine exec_refused (c := .intDone h ns) rfl hs ?_ (recordCheck_intDone h1 h2)
    show serveIntDone h ns _ = _
    rw [serveIntDone, allOf_lineOf_none hbad]
    rfl
  case done =>
    have hmem (n : LineId) : n ∈ (List.finRange 11).filter (ls.contains ·) ↔ n ∈ ls := by simp
    obtain ⟨us, heq, hus⟩ := clearService_eq ((List.finRange 11).filter (ls.contains ·)) { s with link := s.link.taken s.now h.more }
    have hus' (n : LineId) : us[n] = { s.lines[n] with inService := s.lines[n].inService && !decide (n ∈ ls) } := by
      rw [hus n]
      simp only [hmem]
    have hback : ((List.finRange 11).filter (ls.contains ·)).filter (fun n => !s.lines[n].inService) =
        (List.finRange 11).filter fun n => decide (n ∈ ls) && !s.lines[n].inService := by
      rw [List.filter_filter]
      refine List.filter_congr fun n _ => ?_
      rw [Bool.and_comm, List.contains_eq_mem]
    have hlen : (ls.map lineNumber).length = ls.length := List.length_map _
    have hexec := exec_served (c := .intDone h (ls.map lineNumber)) rfl hs
      (recordCheck_intDone (h1.trans_eq hlen.symm) (hlen.trans_le h2))
    rw [route, serveIntDone, allOf_map_lineNumber] at hexec
    dsimp only at hexec
    rw [heq, hback, reply_of_taken rfl] at hexec
    have hans := answered_relayCheck (s := s) (us := us) (rl := s.relay) (r := .reply 0xAA h.tag .ok
        (.lines (((List.finRange 11).filter fun n => decide (n ∈ ls) && !s.lines[n].inService).map lineNumber)))
      (l := s.link.answered s.now h.more (.reply 0xAA h.tag .ok
        (.lines (((List.finRange 11).filter fun n => decide (n ∈ ls) && !s.lines[n].inService).map lineNumber)))) rfl
      (.refl _) (before_refl _) rfl
    obtain ⟨hap, harb, ⟨more, hrep⟩, hck, hlines⟩ := hans
    refine ⟨_, more, hexec, hap, harb, hrep, fun us' hus'' => ?_, fun n => ?_⟩
    · have : us' = us := vector_ext fun n => (hus'' n).trans (hus' n).symm
      rw [this]
      exact hck
    · rw [hlines n]
      show ({ us[n] with chosen := false } : Line) = _
      rw [hus' n]

end Sys2Proof.Proofs.RelayRequests
end

section
/-! PROOFS. What follows a transfer (R92 to R101): the causes it joins, the masks it raises, the passes it demands and the grants made
after it, and what each leaves of the regions with bytes queued and of the channels that await them. -/

open Sys2Proof Sys2Proof.Machine Sys2Proof.Proofs.MapLaws Sys2Proof.Proofs.PassLaws Sys2Proof.Proofs.Laws Sys2Proof.Proofs.Trickle
  Sys2Proof.Proofs.PassFrame Sys2Proof.Proofs.Grants Sys2Proof.Proofs.Demands

namespace Sys2Proof.Proofs.Consequences

/-! ### Regions with bytes queued, and those without (R126, R130) -/

/-- What passes that begin, demands and causes leave of the regions: one with bytes queued stays, a pass that runs goes on for those
who await it, and an empty region's ends at once. -/
structure Going (s t : State) : Prop where
  kept : ∀ r : RegionId, s.regions[r].ship.entries ≠ [] → SameEntry s.regions[r] t.regions[r]
  idle : ∀ r : RegionId, s.regions[r].ship.entries = [] → s.regions[r].ship.running = false →
    t.regions[r].ship.entries = [] ∧ t.regions[r].ship.running = false
  runs : ∀ r : RegionId, s.regions[r].ship.running = true → t.regions[r].ship.running = true ∧
    ∀ c : ChanId, c ∈ s.regions[r].ship.waiters.chans → c ∈ t.regions[r].ship.waiters.chans
  line : ∀ r : RegionId, r ∈ s.fillLine → r ∈ t.fillLine
  awaits : ∀ (c : ChanId) (r : RegionId), r ∈ s.chans[c].awaitedRegions → s.regions[r].ship.running = true →
    r ∈ t.chans[c].awaitedRegions
  free : ∀ (c : ChanId) (r : RegionId), s.regions[r].ship.entries = [] → s.regions[r].ship.running = false →
    r ∉ s.chans[c].awaitedRegions → r ∉ t.chans[c].awaitedRegions

theorem Going.refl (s : State) : Going s s :=
  ⟨fun _ _ => rfl, fun _ h h' => ⟨h, h'⟩, fun _ h => ⟨h, fun _ h => h⟩, fun _ h => h, fun _ _ h _ => h, fun _ _ _ _ h => h⟩

theorem Going.after {s t u : State} (h' : Going t u) (h : Going s t) : Going s u where
  kept r hr := sameEntry_trans (h.kept r hr) (h'.kept r (by rw [h.kept r hr]; exact hr))
  idle r he hr := h'.idle r (h.idle r he hr).1 (h.idle r he hr).2
  runs r hr := ⟨(h'.runs r (h.runs r hr).1).1, fun c hc => (h'.runs r (h.runs r hr).1).2 c ((h.runs r hr).2 c hc)⟩
  line r hr := h'.line r (h.line r hr)
  awaits c r ha hr := h'.awaits c r (h.awaits c r ha hr) (h.runs r hr).1
  free c r he hr ha := h'.free c r (h.idle r he hr).1 (h.idle r he hr).2 (h.free c r he hr ha)

theorem Going.ite {p : Prop} [Decidable p] {s t u : State} (h : p → Going s t) (h' : ¬p → Going s u) :
    Going s (if p then t else u) := by
  split
  · next hp => exact h hp
  · next hp => exact h' hp

theorem going_of_eq {s t : State} (hr : t.regions = s.regions) (hf : t.fillLine = s.fillLine)
    (hc : ∀ c : ChanId, t.chans[c].awaitedRegions = s.chans[c].awaitedRegions) : Going s t := by
  refine ⟨fun r _ => ?_, fun r he h => ?_, fun r h => ?_, fun r h => ?_, fun c r h _ => ?_, fun c r _ _ h => ?_⟩
  · rw [hr]; rfl
  · rw [hr]; exact ⟨he, h⟩
  · rw [hr]; exact ⟨h, fun _ h => h⟩
  · rw [hf]; exact h
  · rw [hc]; exact h
  · rw [hc]; exact h

/-- The queue of an empty region is empty when its pass has ended, whether it stays, goes or is placed anew. -/
theorem entries_endPass {id : RegionId} {s : State} (he : s.regions[id].ship.entries = []) :
    (s.endPass id).regions[id].ship.entries = [] := by
  have hr : (toldBlocks id s).regions[id].ship.entries = [] := by
    have h : (toldBlocks id s).regions = s.regions.set id
        { s.regions[id] with ship := { s.regions[id].ship with running := false, waiters := {} } } :=
      (congrArg State.regions (toldBlocks_eq id s) :)
    rw [h, getElem_set_same]
    exact he
  have hremove (t : State) : (t.removeRegion id).regions[id].ship.entries = [] := by
    have h : ∃ g : Region, (t.removeRegion id).regions = t.regions.set id g ∧ g.ship.entries = [] := by
      simp only [State.removeRegion]
      split
      · rw [placeRegion_eq]
        exact ⟨_, rfl, rfl⟩
      · rw [each_replyNow_eq]
        exact ⟨{}, rfl, rfl⟩
    obtain ⟨g, hg, hge⟩ := h
    rw [hg, getElem_set_same]
    exact hge
  rw [endPass_eq_told]
  split
  · unfold State.mapPassEnded
    dsimp only
    split
    · exact hremove _
    · rw [each_replyNow_eq]
      show ((toldBlocks id s).modRegion id fun g => { g with flushWaiters := [] }).regions[id].ship.entries = []
      rw [State.regions_modRegion, if_pos rfl]
      exact hr
  · exact hr

/-- What a pass that begins makes of the table and the channels. -/
theorem beginPass_facts (id : RegionId) (s : State) :
    (∀ r : RegionId, r ≠ id → (s.beginPass id).regions[r] = s.regions[r]) ∧
      (s.regions[id].ship.entries ≠ [] → (s.beginPass id).regions[id] =
        { s.regions[id] with ship := { s.regions[id].ship with running := true } } ∧ (s.beginPass id).chans = s.chans) ∧
      (s.regions[id].ship.entries = [] → (s.beginPass id).regions[id].ship.entries = [] ∧
        (s.beginPass id).regions[id].ship.running = false ∧ ∀ c : ChanId, (s.beginPass id).chans[c] =
          if c ∈ s.regions[id].ship.waiters.chans then
            { s.chans[c] with awaitedRegions := setRemove id s.chans[c].awaitedRegions } else s.chans[c]) := by
  have hreg (r : RegionId) := regions_modShip s id r fun q => { q with running := true }
  by_cases he : s.regions[id].ship.entries = []
  · obtain ⟨g, hg, hgr, -⟩ := regions_endPass id (s.modShip id fun q => { q with running := true })
    have hent : ((s.modShip id fun q => { q with running := true }).endPass id).regions[id].ship.entries = [] :=
      entries_endPass (by rw [hreg, if_pos rfl]; exact he)
    have hch (c : ChanId) := chans_endPass id (s.modShip id fun q => { q with running := true }) c
    rw [beginPass_empty he]
    refine ⟨fun r hr => ?_, fun h => absurd he h, fun _ => ⟨hent, ?_, fun c => (hch c).trans ?_⟩⟩
    · rw [hg, getElem_set_fin, if_neg hr, hreg, if_neg hr]
    · rw [hg, getElem_set_same]
      exact hgr
    · rw [hreg, if_pos rfl]
      rfl
  · rw [beginPass_queued he]
    refine ⟨fun r hr => (getElem_set_fin _ _ _ _).trans (if_neg hr), fun _ => ⟨getElem_set_same _ _ _, rfl⟩, fun h => absurd h he⟩

theorem going_beginPass {id : RegionId} {s : State} (hrun : s.regions[id].ship.running = false) : Going s (s.beginPass id) := by
  obtain ⟨hother, hqueued, hempty⟩ := beginPass_facts id s
  have hrem {c : ChanId} {r : RegionId} (he : s.regions[id].ship.entries = []) :
      r ∈ (s.beginPass id).chans[c].awaitedRegions → r ∈ s.chans[c].awaitedRegions := by
    rw [(hempty he).2.2 c]
    split
    · exact fun h => ((mem_setRemove _ _ _).mp h).1
    · exact fun h => h
  refine ⟨fun r hr => ?_, fun r he hr => ?_, fun r hr => ?_, fun r hr => ?_, fun c r ha hr => ?_, fun c r he hr ha => ?_⟩
  · by_cases hid : r = id
    · subst hid
      rw [(hqueued hr).1]
      rfl
    · rw [hother r hid]
      rfl
  · by_cases hid : r = id
    · subst hid
      exact ⟨(hempty he).1, (hempty he).2.1⟩
    · rw [hother r hid]
      exact ⟨he, hr⟩
  · have hid : r ≠ id := by
      rintro rfl
      rw [hrun] at hr
      cases hr
    rw [hother r hid]
    exact ⟨hr, fun _ h => h⟩
  · rw [fillLine_beginPass]
    exact List.mem_append_left _ hr
  · have hid : r ≠ id := by
      rintro rfl
      rw [hrun] at hr
      cases hr
    by_cases he : s.regions[id].ship.entries = []
    · rw [(hempty he).2.2 c]
      split
      · exact (mem_setRemove _ _ _).mpr ⟨ha, hid⟩
      · exact ha
    · rw [(hqueued he).2]
      exact ha
  · by_cases hq : s.regions[id].ship.entries = []
    · exact fun h => ha (hrem hq h)
    · rw [(hqueued hq).2]
      exact ha

theorem going_trigger (id : RegionId) (s : State) : Going s (s.trigger id) := by
  refine .ite (fun hc => ?_) fun _ => .refl s
  rw [Bool.and_eq_true, Bool.not_eq_true'] at hc
  exact going_beginPass hc.2

theorem going_thresholdCheck (id : RegionId) (s : State) : Going s (s.thresholdCheck id) :=
  .ite (fun _ => going_trigger id s) fun _ => .refl s

theorem going_each_trigger (ids : List RegionId) (s : State) : Going s (s.each ids State.trigger) := by
  induction ids generalizing s with
  | nil => exact .refl s
  | cons id ids ih => exact (ih _).after (going_trigger id s)

theorem mem_chans_add {w : PassWaiters} {c d : ChanId} : d ∈ (w.add (.chan c)).chans ↔ d = c ∨ d ∈ w.chans := by
  show d ∈ setInsert c w.chans ↔ _
  rw [mem_setInsert]

/-- A channel's cause and the pass it demands (R87). -/
structure Caused (c : ChanId) (id : RegionId) (s t : State) : Prop where
  queued : s.regions[id].ship.entries ≠ [] ∨ s.regions[id].ship.running = true →
    id ∈ t.chans[c].awaitedRegions ∧ t.regions[id].ship.running = true ∧ c ∈ t.regions[id].ship.waiters.chans
  empty : s.regions[id].ship.entries = [] → s.regions[id].ship.running = false → id ∉ t.chans[c].awaitedRegions

/-- The state in which a channel's cause has joined its notice, and which awaits a region. -/
def awaiting (c : ChanId) (id : RegionId) (s : State) : State :=
  s.modChan c fun ch => { ch with awaitedRegions := setInsert id ch.awaitedRegions }

theorem chans_awaiting (c d : ChanId) (id : RegionId) (s : State) : (awaiting c id s).chans[d] =
    if d = c then { s.chans[c] with awaitedRegions := setInsert id s.chans[c].awaitedRegions } else s.chans[d] :=
  State.chans_modChan s c d _

theorem demand_awaiting (c : ChanId) (id : RegionId) (s : State) :
    Going s ((awaiting c id s).demand id (.chan c)) ∧ Caused c id s ((awaiting c id s).demand id (.chan c)) := by
  have hreg (r : RegionId) : ((awaiting c id s).modShip id fun q => { q with waiters := q.waiters.add (.chan c) }).regions[r] =
      if r = id then { s.regions[id] with ship := { s.regions[id].ship with waiters := s.regions[id].ship.waiters.add (.chan c) } }
      else s.regions[r] := regions_modShip _ _ _ _
  have hch (d : ChanId) : ((awaiting c id s).modShip id fun q => { q with waiters := q.waiters.add (.chan c) }).chans[d] =
      if d = c then { s.chans[c] with awaitedRegions := setInsert id s.chans[c].awaitedRegions } else s.chans[d] :=
    chans_awaiting c d id s
  have hline : ((awaiting c id s).modShip id fun q => { q with waiters := q.waiters.add (.chan c) }).fillLine = s.fillLine := rfl
  unfold State.demand
  dsimp only
  generalize ((awaiting c id s).modShip id fun q => { q with waiters := q.waiters.add (.chan c) }) = w at hreg hch hline
  have hid : w.regions[id] = _ := (hreg id).trans (if_pos rfl)
  have hother (r : RegionId) (hr : r ≠ id) : w.regions[r] = s.regions[r] := (hreg r).trans (if_neg hr)
  have hmem (d : ChanId) (r : RegionId) : r ∈ w.chans[d].awaitedRegions ↔ (d = c ∧ r = id) ∨ r ∈ s.chans[d].awaitedRegions := by
    rw [hch]
    by_cases hd : d = c
    · subst hd
      rw [if_pos rfl]
      show r ∈ setInsert id _ ↔ _
      rw [mem_setInsert]
      simp
    · rw [if_neg hd]
      simp [hd]
  have hw : (s.regions[id].ship.entries ≠ [] ∨ s.regions[id].ship.running = true) → Going s w := by
    refine fun hq => ⟨fun r hr => ?_, fun r he hr => ?_, fun r hr => ?_, fun r hr => hline ▸ hr, fun d r ha _ => ?_, fun d r he hr ha => ?_⟩
    · by_cases hr' : r = id
      · subst hr'
        rw [hid]
        rfl
      · rw [hother r hr']
        rfl
    · have hne : r ≠ id := by
        rintro rfl
        obtain h | h := hq
        · exact h he
        · rw [hr] at h
          cases h
      rw [hother r hne]
      exact ⟨he, hr⟩
    · by_cases hr' : r = id
      · subst hr'
        rw [hid]
        exact ⟨hr, fun d hd => mem_chans_add.mpr (.inr hd)⟩
      · rw [hother r hr']
        exact ⟨hr, fun _ h => h⟩
    · exact (hmem d r).mpr (.inr ha)
    · rw [hmem]
      rintro (⟨-, rfl⟩ | h)
      · obtain h | h := hq
        · exact h he
        · rw [hr] at h
          cases h
      · exact ha h
  by_cases hrun : s.regions[id].ship.running = true
  · rw [if_pos (by rw [hid]; exact hrun)]
    refine ⟨hw (.inr hrun), fun _ => ⟨(hmem c id).mpr (.inl ⟨rfl, rfl⟩), ?_, ?_⟩, fun _ hr => ?_⟩
    · rw [hid]; exact hrun
    · rw [hid]; exact mem_chans_add.mpr (.inl rfl)
    · rw [hrun] at hr
      cases hr
  · have hrun' : w.regions[id].ship.running = false := by rw [hid]; simpa using hrun
    rw [if_neg (by rw [hrun']; exact Bool.false_ne_true)]
    obtain ⟨hbother, hbqueued, hbempty⟩ := beginPass_facts id w
    have hent : w.regions[id].ship.entries = s.regions[id].ship.entries := by rw [hid]
    have hwait : w.regions[id].ship.waiters.chans = (s.regions[id].ship.waiters.add (.chan c)).chans := by rw [hid]
    by_cases he : s.regions[id].ship.entries = []
    · obtain ⟨hbe, hbr, hbc⟩ := hbempty (hent.trans he)
      have hbmem (d : ChanId) (r : RegionId) : r ∈ (w.beginPass id).chans[d].awaitedRegions →
          r ∈ s.chans[d].awaitedRegions := by
        rw [hbc d]
        split
        · intro h
          obtain ⟨h, hne⟩ := (mem_setRemove _ _ _).mp h
          obtain ⟨-, h⟩ | h := (hmem d r).mp h
          · exact absurd h hne
          · exact h
        · next hd =>
          intro h
          obtain ⟨h, -⟩ | h := (hmem d r).mp h
          · exact absurd (by rw [hwait, h]; exact mem_chans_add.mpr (.inl rfl)) hd
          · exact h
      refine ⟨⟨fun r hr => ?_, fun r he' hr => ?_, fun r hr => ?_, fun r hr => ?_, fun d r ha hr => ?_, fun d r _ _ ha h => ha (hbmem d r h)⟩,
        fun h => absurd h (not_or.mpr ⟨not_not_intro he, hrun⟩), fun _ _ => ?_⟩
      · have hne : r ≠ id := fun h => hr (h ▸ he)
        rw [hbother r hne, hother r hne]
        rfl
      · by_cases hr' : r = id
        · subst hr'
          exact ⟨hbe, hbr⟩
        · rw [hbother r hr', hother r hr']
          exact ⟨he', hr⟩
      · have hne : r ≠ id := fun h => hrun (h ▸ hr)
        rw [hbother r hne, hother r hne]
        exact ⟨hr, fun _ h => h⟩
      · rw [fillLine_beginPass, hline]
        exact List.mem_append_left _ hr
      · have hne : r ≠ id := fun h => hrun (h ▸ hr)
        rw [hbc d]
        split
        · exact (mem_setRemove _ _ _).mpr ⟨(hmem d r).mpr (.inr ha), hne⟩
        · exact (hmem d r).mpr (.inr ha)
      · rw [hbc c, if_pos (by rw [hwait]; exact mem_chans_add.mpr (.inl rfl))]
        exact fun h => ((mem_setRemove _ _ _).mp h).2 rfl
    · refine ⟨(going_beginPass hrun').after (hw (.inl he)), fun _ => ?_, fun h => absurd h he⟩
      obtain ⟨hbq, hbc⟩ := hbqueued (by rw [hent]; exact he)
      rw [hbc, hbq]
      refine ⟨(hmem c id).mpr (.inl ⟨rfl, rfl⟩), rfl, ?_⟩
      show c ∈ w.regions[id].ship.waiters.chans
      rw [hwait]
      exact mem_chans_add.mpr (.inl rfl)

theorem awaitedRegions_addCause (ch : Chan) (now : Time) (k : Cause) : (ch.addCause now k).awaitedRegions = ch.awaitedRegions := by
  cases k <;> rfl

/-- A cause joins a channel's notice: the state before its pass is demanded. -/
def caused (c : ChanId) (k : Cause) (s : State) : State := s.modChan c (·.addCause s.now k)

theorem going_caused (c : ChanId) (k : Cause) (s : State) : Going s (caused c k s) := by
  refine going_of_eq rfl rfl fun d => ?_
  unfold caused
  rw [State.chans_modChan]
  split
  · next h =>
    subst h
    exact awaitedRegions_addCause _ _ _
  · rfl

theorem addCause_none {c : ChanId} {k : Cause} {s : State} (h : s.mirrorAt s.chans[c].lastSystemAddress = none) :
    s.addCause c k = caused c k s := by
  have h' : (caused c k s).mirrorAt (caused c k s).chans[c].lastSystemAddress = none := by
    have hl : (caused c k s).chans[c].lastSystemAddress = s.chans[c].lastSystemAddress := by
      unfold caused
      rw [State.chans_modChan, if_pos rfl]
      cases k <;> rfl
    rw [hl]
    exact h
  unfold State.addCause
  show (match (caused c k s).mirrorAt (caused c k s).chans[c].lastSystemAddress with
    | none => caused c k s
    | some id => _) = _
  rw [h']

theorem addCause_some {c : ChanId} {k : Cause} {s : State} {id : RegionId} (h : s.mirrorAt s.chans[c].lastSystemAddress = some id) :
    s.addCause c k = (awaiting c id (caused c k s)).demand id (.chan c) := by
  have h' : (caused c k s).mirrorAt (caused c k s).chans[c].lastSystemAddress = some id := by
    have hl : (caused c k s).chans[c].lastSystemAddress = s.chans[c].lastSystemAddress := by
      unfold caused
      rw [State.chans_modChan, if_pos rfl]
      cases k <;> rfl
    rw [hl]
    exact h
  unfold State.addCause
  show (match (caused c k s).mirrorAt (caused c k s).chans[c].lastSystemAddress with
    | none => caused c k s
    | some id => (awaiting c id (caused c k s)).demand id (.chan c)) = _
  rw [h']

theorem going_addCause (c : ChanId) (k : Cause) (s : State) : Going s (s.addCause c k) := by
  cases hm : s.mirrorAt s.chans[c].lastSystemAddress with
  | none =>
    rw [addCause_none hm]
    exact going_caused c k s
  | some id =>
    rw [addCause_some hm]
    exact (demand_awaiting c id _).1.after (going_caused c k s)

theorem caused_addCause {c : ChanId} {k : Cause} {s : State} {id : RegionId} (h : s.mirrorAt s.chans[c].lastSystemAddress = some id) :
    Caused c id s (s.addCause c k) := by
  rw [addCause_some h]
  have h := (demand_awaiting c id (caused c k s)).2
  exact ⟨h.queued, h.empty⟩

theorem going_maskChan (c : ChanId) (r : MaskReason) (s : State) : Going s (s.maskChan c r) := by
  refine going_of_eq (by rw [maskChan_eq]) (by rw [maskChan_eq]) fun d => ?_
  rw [chans_maskChan]
  split
  · next h =>
    subst h
    rfl
  · rfl

/-! ### Causes that a fault leaves (R87) -/

/-- The causes of a channel other than a fault's stand as they did; with a cause pending the time stays too. -/
structure SameCauses (a b : Chan) : Prop where
  terminal : b.causes.terminal = a.causes.terminal
  terminals : b.pendingTerminals = a.pendingTerminals
  matched : b.causes.matched = a.causes.matched
  since : a.causes.none = false → b.causes.none = false ∧ b.pendingSince = a.pendingSince

theorem SameCauses.refl (a : Chan) : SameCauses a a := ⟨rfl, rfl, rfl, fun h => ⟨h, rfl⟩⟩

theorem SameCauses.after {a b c : Chan} (h' : SameCauses b c) (h : SameCauses a b) : SameCauses a c :=
  ⟨h'.terminal.trans h.terminal, h'.terminals.trans h.terminals, h'.matched.trans h.matched,
    fun hn => ⟨(h'.since (h.since hn).1).1, (h'.since (h.since hn).1).2.trans (h.since hn).2⟩⟩

theorem sameCauses_of_bare {a b : Chan} (h : bare b = bare a) : SameCauses a b := by
  have hc : b.causes = a.causes := (congrArg Chan.causes h :)
  exact ⟨by rw [hc], (congrArg Chan.pendingTerminals h :), by rw [hc], fun hn => ⟨by rw [hc]; exact hn, (congrArg Chan.pendingSince h :)⟩⟩

theorem sameCauses_addFault (ch : Chan) (now : Time) (d : FaultDetail) (a : Nat) : SameCauses ch (ch.addCause now (.fault d a)) := by
  refine ⟨rfl, rfl, rfl, fun hn => ⟨?_, ?_⟩⟩
  · simp [Causes.none, Chan.addCause]
  · show (if ch.causes.none = true then now else ch.pendingSince) = _
    rw [hn]
    rfl

theorem sameCauses_masked (ch : Chan) (r : MaskReason) : SameCauses ch (masked ch r) :=
  ⟨rfl, rfl, rfl, fun h => ⟨h, rfl⟩⟩

/-! ### Grants -/

/-- What grants leave of regions, of those that wait for passes, and of causes. -/
structure Onward (s t : State) : Prop where
  going : Going s t
  causes : ∀ c : ChanId, SameCauses s.chans[c] t.chans[c]

theorem Onward.refl (s : State) : Onward s s := ⟨.refl s, fun _ => .refl _⟩

theorem Onward.after {s t u : State} (h' : Onward t u) (h : Onward s t) : Onward s u :=
  ⟨h'.going.after h.going, fun c => (h'.causes c).after (h.causes c)⟩

theorem onward_of_eq {s t : State} (hr : t.regions = s.regions) (hf : t.fillLine = s.fillLine) (hc : t.chans = s.chans) :
    Onward s t := ⟨going_of_eq hr hf fun c => by rw [hc], fun c => by rw [hc]; exact .refl _⟩

theorem onward_startTransfer (c : ChanId) (s : State) : Onward s (s.startTransfer c).1 := by
  cases hl : s.lookup c s.chans[c].kind (s.chans[c].presentAddress c) with
  | target tg =>
    rw [startTransfer_target hl]
    exact onward_of_eq rfl rfl rfl
  | fault d =>
    rw [startTransfer_fault hl]
    refine ⟨(going_maskChan c _ _).after (going_addCause c _ s), fun e => ?_⟩
    have hf := faultedStart c d (s.chans[c].presentAddress c) s
    by_cases he : e = c
    · subst he
      exact ((sameCauses_of_bare hf.chan).after (sameCauses_masked _ _)).after (sameCauses_addFault _ _ _ _)
    · exact sameCauses_of_bare (hf.others e he)

theorem onward_tenure (c : ChanId) (s : State) : Onward s (tenure c s) := by
  refine ⟨going_of_eq rfl rfl fun d => ?_, fun d => ?_⟩ <;> rw [chans_tenure] <;> split
  · next h => subst h; rfl
  · rfl
  · next h => subst h; exact ⟨rfl, rfl, rfl, fun hn => ⟨hn, rfl⟩⟩
  · exact .refl _

theorem onward_grant (n : Nat) (s : State) : Onward s (s.grant n) := by
  induction n generalizing s with
  | zero => exact onward_of_eq rfl rfl rfl
  | succ n ih =>
    cases hp : s.pick.1 with
    | none => rw [grant_none n hp]; exact onward_of_eq rfl rfl rfl
    | some k =>
      cases k with
      | refresh => rw [grant_refresh n hp]; exact onward_of_eq rfl rfl rfl
      | timed i =>
        rw [grant_timed n hp]
        unfold State.grantTimed
        split
        · split <;> exact onward_of_eq rfl rfl rfl
        · exact onward_of_eq rfl rfl rfl
      | link =>
        rw [grant_link n hp]
        unfold State.grantLink
        split
        · split <;> exact onward_of_eq rfl rfl rfl
        · exact onward_of_eq rfl rfl rfl
      | census => rw [grant_census n hp]; exact onward_of_eq rfl rfl rfl
      | dma c =>
        by_cases hc : s.chans[c].service = .cascade
        · rw [grant_master n hp hc]
          exact onward_of_eq rfl rfl rfl
        · rw [grant_transfer n hp hc]
          have h0 := (onward_startTransfer c (tenure c s)).after (onward_tenure c s)
          split
          · exact h0
          · exact (ih _).after h0

theorem onward_grantPoint (s : State) : Onward s s.grantPoint := onward_grant 8 s

theorem onward_endDmaTenure (c : ChanId) (s : State) : Onward s (s.endDmaTenure c) :=
  (onward_grantPoint _).after (onward_of_eq rfl rfl rfl)

/-- A BLOCK channel without an open run has one again only with a grant of its own (R80). -/
theorem blockOpen_grant (n : Nat) {s : State} {c : ChanId} (hb : s.chans[c].service = .block) (ho : s.chans[c].blockOpen = false)
    (hs : (s.grant n).chans[c].state = .serving) :
    (s.grant n).chans[c].blockOpen = true ↔ (s.grant n).arb.owner = .dma c false := by
  have hsame {t : State} (hc : t.chans[c].blockOpen = s.chans[c].blockOpen) (hn : t.arb.owner ≠ .dma c false) :
      t.chans[c].blockOpen = true ↔ t.arb.owner = .dma c false := by
    rw [hc, ho]
    exact iff_of_false Bool.false_ne_true hn
  induction n generalizing s with
  | zero => exact hsame rfl (by simp [State.grant])
  | succ n ih =>
    cases hp : s.pick.1 with
    | none =>
      rw [grant_none n hp]
      exact hsame rfl (by simp [picked])
    | some k =>
      cases k with
      | refresh => rw [grant_refresh n hp]; exact hsame rfl (by simp [State.grantRefresh, State.own, State.modArb])
      | timed i =>
        rw [grant_timed n hp]
        unfold State.grantTimed
        split
        · split <;> exact hsame rfl (by simp [State.own, State.modArb, picked])
        · exact hsame rfl (by simp [picked])
      | link =>
        rw [grant_link n hp]
        unfold State.grantLink
        split
        · split <;> exact hsame rfl (by simp [State.own, State.modArb, picked])
        · exact hsame rfl (by simp [picked])
      | census => rw [grant_census n hp]; exact hsame rfl (by simp [State.grantCensus, State.own, State.modArb])
      | dma d =>
        by_cases hc : s.chans[d].service = .cascade
        · rw [grant_master n hp hc]
          exact hsame rfl (by simp [State.grantMaster, State.modArb])
        · rw [grant_transfer n hp hc] at hs ⊢
          cases hl : (tenure d s).lookup d (tenure d s).chans[d].kind ((tenure d s).chans[d].presentAddress d) with
          | target tg =>
            rw [startTransfer_target hl, if_pos rfl]
            show (tenure d s).chans[c].blockOpen = true ↔ Owner.dma d false = .dma c false
            rw [chans_tenure]
            by_cases hd : c = d
            · subst hd
              rw [if_pos rfl]
              exact iff_of_true (if_pos hb) rfl
            · rw [if_neg hd, ho]
              exact iff_of_false Bool.false_ne_true fun h => hd (by cases h; rfl)
          | fault f =>
            rw [startTransfer_fault hl, if_neg Bool.false_ne_true] at hs ⊢
            have hf := faultedStart d f ((tenure d s).chans[d].presentAddress d) (tenure d s)
            generalize ((tenure d s).addCause d (.fault f ((tenure d s).chans[d].presentAddress d))).maskChan d .fault = u at hs hf
            by_cases hd : c = d
            · subst hd
              have hm : u.chans[c].state = .masked := (congrArg Chan.state hf.chan :)
              obtain ⟨hbare, -⟩ := (granted_grant n u).waiting c (by rw [hm]; decide)
              have hst : (u.grant n).chans[c].state = u.chans[c].state := (congrArg Chan.state hbare :)
              rw [hst, hm] at hs
              cases hs
            · have hbu := hf.others c hd
              rw [chans_tenure, if_neg hd] at hbu
              have hob : u.chans[c].blockOpen = false := (congrArg Chan.blockOpen hbu :).trans ho
              dsimp only at hs ⊢
              refine ih ((congrArg Chan.service hbu :).trans hb) hob hs fun hc hn => ?_
              exact iff_of_false (by rw [hc, hob]; exact Bool.false_ne_true) hn

end Sys2Proof.Proofs.Consequences
end

section
/-! PROOFS. The end of a transfer (R97 to R101): its stages one after another, the position (R99, R100) and the memory side (R97, R98). -/

open Sys2Proof Sys2Proof.Machine Sys2Proof.Proofs.MapLaws Sys2Proof.Proofs.PassLaws Sys2Proof.Proofs.Laws Sys2Proof.Proofs.Trickle
  Sys2Proof.Proofs.PassFrame Sys2Proof.Proofs.Grants Sys2Proof.Proofs.Demands Sys2Proof.Proofs.Consequences

namespace Sys2Proof.Proofs.TransferEnds

/-! ### Stages -/

/-- Stage 4 (R97, R98). -/
def stored (x : Transfer) (data : Half) (s : State) : State :=
  match s.chans[x.ch].kind, x.target with
  | .fill, .mirror id => s.storeCardBytes id x.sysAddr (bytesOf (isWord x.ch) data)
  | _, _ => s

/-- Stages 5 and 6 (R99, R100). -/
def moved (x : Transfer) (s : State) : State :=
  (s.modChan x.ch (·.advance x.sysAddr)).modArb fun a => { a with burstCount := a.burstCount + 1 }

/-- The threshold is looked at where bytes were stored (R131). -/
def met (k : ChanKind) (x : Transfer) (s : State) : State :=
  match k, x.target with
  | .fill, .mirror id => s.thresholdCheck id
  | _, _ => s

/-- The state after stages 4 to 6. -/
def advanced (x : Transfer) (out : Bool) (e : BusEnd) (s : State) : State :=
  met s.chans[x.ch].kind x (moved x (stored x (s.fillData x.ch out e) s)).trickleUpdate

/-- The causes of a transfer, all together (R86, R87). -/
def told (x : Transfer) (terminal hit out : Bool) (s : State) : State :=
  let s := if terminal then s.addCause x.ch .terminal else s
  let s := if hit then s.addCause x.ch .matched else s
  if out then s.addCause x.ch (.fault .wait x.sysAddr) else s

/-- The mask, or what the service mode makes of the channel (R79, R80, R86). -/
def stopped (x : Transfer) (raised pending : Option MaskReason) (terminal : Bool) (s : State) : State :=
  match raised, pending with
  | some r, _ => s.maskChan x.ch r
  | none, some r => s.maskChan x.ch r
  | none, none => s.modChan x.ch (·.afterTransfer terminal)

/-- The transfer's byte is the match value (R101). -/
def hits (x : Transfer) (out : Bool) (e : BusEnd) (s : State) : Bool :=
  s.chans[x.ch].matches x.ch out (s.fillData x.ch out e)

theorem settleTransfer_eq (x : Transfer) (out : Bool) (e : BusEnd) (s : State) : s.settleTransfer x out e =
    stopped x (raisedReason out (hits x out e s) (decide (s.chans[x.ch].currentCount = 0) && !s.chans[x.ch].autoInit))
      s.chans[x.ch].maskPending (decide (s.chans[x.ch].currentCount = 0))
      (told x (decide (s.chans[x.ch].currentCount = 0) && s.chans[x.ch].notifyTerminal) (hits x out e s) out
        (advanced x out e s)) := rfl

/-- The boundary of the transfer: the store work and the FILL copies that waited for it (log entry 17). -/
def boundary (x : Transfer) (out : Bool) (e : BusEnd) (s : State) : State :=
  State.admitFills 33 (s.settleTransfer x out e).runStoreWaits

theorem endTransfer_ends {x : Transfer} {out : Bool} {e : BusEnd} {s : State}
    (h : (boundary x out e s).tenureGoesOn x.ch (decide (s.chans[x.ch].currentCount = 0)) = false) :
    s.endTransfer x out e = (boundary x out e s).endDmaTenure x.ch := by
  unfold State.endTransfer
  exact if_neg (by rw [← Bool.not_eq_true] at h; exact h)

theorem endTransfer_goes {x : Transfer} {out : Bool} {e : BusEnd} {s : State}
    (h : (boundary x out e s).tenureGoesOn x.ch (decide (s.chans[x.ch].currentCount = 0)) = true) :
    s.endTransfer x out e = if ((boundary x out e s).startTransfer x.ch).2 then ((boundary x out e s).startTransfer x.ch).1
      else ((boundary x out e s).startTransfer x.ch).1.endDmaTenure x.ch := by
  unfold State.endTransfer
  exact if_pos h

/-- A cycle that found ready released at its first sample, or whose limit was seen to, has ended as it stands (R21, R22). -/
theorem timesOut_of {held w l : Nat} {seen : Bool} {c : BusClock} (h : held = 0 ∨ seen = true) : cycleTimesOut seen w l c held = seen := by
  obtain rfl | rfl := h
  · simp [cycleTimesOut]
  · rfl

theorem exec_transferEnd {s : State} {x : Transfer} (e : BusEnd) (hin : s.inFlight = .transfer x) (ho : s.orphan = false) :
    ∃ clocks, exec (.transferEnd e) s = .next ((s.cycleDone clocks).endTransfer x
      (cycleTimesOut x.timedOut x.waits x.limit x.clock (s.readyHeld x.switched e)) e) := by
  refine ⟨some (cycleClocks (cycleTimesOut x.timedOut x.waits x.limit x.clock (s.readyHeld x.switched e)) x.waits x.limit x.clock
    (s.readyHeld x.switched e)), ?_⟩
  simp only [exec, execTransferEnd, hin, ho, Bool.false_eq_true, if_false]

/-! ### What is left alone -/

/-- Records, lines and requests after a transfer: nothing that a grant, a mask or a pass does changes them otherwise. -/
structure Quiet (s t : State) : Prop where
  calm : s.Calm t
  lines : t.lines = s.lines
  request : ∀ c : ChanId, t.chans[c].request = s.chans[c].request

theorem Quiet.refl (s : State) : Quiet s s := ⟨s.calm_refl, rfl, fun _ => rfl⟩

theorem Quiet.after {s t u : State} (h' : Quiet t u) (h : Quiet s t) : Quiet s u :=
  ⟨State.calm_trans h.calm h'.calm, h'.lines.trans h.lines, fun c => (h'.request c).trans (h.request c)⟩

theorem quiet_of_passed {s t : State} (h : Passed s t) : Quiet s t :=
  ⟨h.calm, h.lines, fun c => (congrArg Chan.request (h.chans c) :)⟩

theorem quiet_of_granted {s t : State} (h : Granted s t) : Quiet s t := ⟨h.calm, h.lines, h.request⟩

theorem quiet_addCause (c : ChanId) (k : Cause) (s : State) : Quiet s (s.addCause c k) := by
  refine ⟨s.calm_addCause c k, lines_addCause c k s, fun d => ?_⟩
  have h := chans_addCause c d k s
  by_cases hd : d = c
  · subst hd
    rw [if_pos rfl] at h
    exact (congrArg Chan.request h :).trans (by cases k <;> rfl)
  · rw [if_neg hd] at h
    exact (congrArg Chan.request h :)

theorem quiet_maskChan (c : ChanId) (r : MaskReason) (s : State) : Quiet s (s.maskChan c r) := by
  refine ⟨s.calm_maskChan c r, by rw [maskChan_eq], fun d => ?_⟩
  rw [chans_maskChan]
  split
  · next h => subst h; rfl
  · rfl

theorem program_afterTransfer (ch : Chan) (b : Bool) : (ch.afterTransfer b).program = ch.program := by
  unfold Chan.afterTransfer
  split <;> first | rfl | (split <;> rfl)

theorem request_afterTransfer (ch : Chan) (b : Bool) : (ch.afterTransfer b).request = ch.request := by
  unfold Chan.afterTransfer
  split <;> first | rfl | (split <;> rfl)

theorem quiet_stopped (x : Transfer) (r p : Option MaskReason) (b : Bool) (s : State) : Quiet s (stopped x r p b s) := by
  unfold stopped
  split
  · exact quiet_maskChan _ _ s
  · exact quiet_maskChan _ _ s
  · refine ⟨s.calm_modChan x.ch _ fun ch => program_afterTransfer ch b, rfl, fun d => ?_⟩
    rw [State.chans_modChan]
    split
    · next h => subst h; exact request_afterTransfer _ _
    · rfl

theorem quiet_told (x : Transfer) (terminal hit out : Bool) (s : State) : Quiet s (told x terminal hit out s) := by
  have hone (p : Bool) (k : Cause) (u : State) : Quiet u (if p then u.addCause x.ch k else u) := by
    split
    · exact quiet_addCause _ _ u
    · exact .refl u
  exact (hone _ _ _).after ((hone _ _ _).after (hone _ _ s))

/-- What the copies of a FILL pass leave alone. -/
structure Copied (s t : State) : Prop where
  outer : t.outer = s.outer
  lines : t.lines = s.lines
  chans : ∀ c : ChanId, bare t.chans[c] = bare s.chans[c]
  calm : s.Calm t

theorem Copied.refl (s : State) : Copied s s := ⟨rfl, rfl, fun _ => rfl, s.calm_refl⟩

theorem Copied.after {s t u : State} (h' : Copied t u) (h : Copied s t) : Copied s u :=
  ⟨h'.outer.trans h.outer, h'.lines.trans h.lines, fun c => (h'.chans c).trans (h.chans c), State.calm_trans h.calm h'.calm⟩

theorem copied_admitFill (id : RegionId) (s : State) : Copied s (s.admitFill id) := by
  refine ⟨by simp, ?_, fun c => ?_, s.calm_admitFill id⟩ <;> unfold State.admitFill <;> dsimp only <;> split
  · exact (passed_endPass id _).lines
  · rfl
  · exact (passed_endPass id _).chans c
  · rfl

theorem copied_admitFills (n : Nat) (s : State) : Copied s (State.admitFills n s) := by
  induction n generalizing s with
  | zero => exact .refl s
  | succ n ih =>
    simp only [State.admitFills]
    split
    · split
      · exact (ih _).after (copied_admitFill _ s)
      · exact .refl s
    · exact .refl s

theorem copied_runStoreWaits (s : State) : Copied s s.runStoreWaits :=
  ⟨by simp, by rw [runStoreWaits_eq], fun c => by rw [State.chans_runStoreWaits], s.calm_runStoreWaits⟩

theorem quiet_of_copied {s t : State} (h : Copied s t) : Quiet s t :=
  ⟨h.calm, h.lines, fun c => (congrArg Chan.request (h.chans c) :)⟩

theorem copied_boundary (x : Transfer) (out : Bool) (e : BusEnd) (s : State) : Copied (s.settleTransfer x out e) (boundary x out e s) :=
  (copied_admitFills 33 _).after (copied_runStoreWaits _)

theorem quiet_startTransfer (c : ChanId) (s : State) : Quiet s (s.startTransfer c).1 := by
  cases hl : s.lookup c s.chans[c].kind (s.chans[c].presentAddress c) with
  | target tg =>
    rw [startTransfer_target hl]
    exact ⟨State.calm_of_eq rfl rfl ⟨[], (List.append_nil _).symm⟩ rfl rfl rfl, rfl, fun _ => rfl⟩
  | fault d =>
    rw [startTransfer_fault hl]
    exact (quiet_maskChan _ _ _).after (quiet_addCause _ _ _)

theorem quiet_endDmaTenure (c : ChanId) (s : State) : Quiet s (s.endDmaTenure c) :=
  (quiet_of_granted (granted_grantPoint _)).after ⟨s.calm_modArb _, rfl, fun _ => rfl⟩

/-- What comes after the boundary: the next transfer, or the tenure's end. -/
theorem end_of_boundary {P : State → State → Prop} (hrefl : ∀ {s t u : State}, P t u → P s t → P s u)
    (hstart : ∀ (c : ChanId) (s : State), P s (s.startTransfer c).1) (hend : ∀ (c : ChanId) (s : State), P s (s.endDmaTenure c))
    (x : Transfer) (out : Bool) (e : BusEnd) (s : State) : P (boundary x out e s) (s.endTransfer x out e) := by
  cases h : (boundary x out e s).tenureGoesOn x.ch (decide (s.chans[x.ch].currentCount = 0)) with
  | false =>
    rw [endTransfer_ends h]
    exact hend _ _
  | true =>
    rw [endTransfer_goes h]
    split
    · exact hstart _ _
    · exact hrefl (hend _ _) (hstart _ _)

theorem quiet_advanced (x : Transfer) (out : Bool) (e : BusEnd) (s : State) :
    Passed (moved x (stored x (s.fillData x.ch out e) s)) (advanced x out e s) := by
  have hmet (u : State) : Passed u (met s.chans[x.ch].kind x u) := by
    unfold met
    split
    · exact passed_thresholdCheck _ _
    · exact .refl _
  exact (hmet _).after (passed_trickleUpdate _)

theorem quiet_endTransfer (x : Transfer) (out : Bool) (e : BusEnd) (s : State) :
    Quiet (moved x (stored x (s.fillData x.ch out e) s)) (s.endTransfer x out e) := by
  refine (end_of_boundary (P := Quiet) (fun h h' => h.after h') quiet_startTransfer quiet_endDmaTenure x out e s).after ?_
  refine (quiet_of_copied (copied_boundary x out e s)).after ?_
  rw [settleTransfer_eq]
  exact (quiet_stopped _ _ _ _ _).after ((quiet_told _ _ _ _ _).after (quiet_of_passed (quiet_advanced x out e s)))

/-! ### The bytes stored and marked (R97, R98, R124) -/

/-- The ship queue after the marks of a FILL's byte, or of the two bytes of its word. -/
def marks (word : Bool) (g : Region) (now : Time) (off : Nat) : ShipQueue :=
  let one := g.ship.mark (g.fields.age.getD 0) now off
  if word then one.mark (g.fields.age.getD 0) now (off + 1) else one

theorem storeCardBytes_eq (id : RegionId) (a : Nat) (word : Bool) (v : Half) (s : State) :
    s.storeCardBytes id a (bytesOf word v) = { s with
      store := Memory.writeAll s.store a (bytesOf word v)
      regions := s.regions.set id { s.regions[id] with ship := marks word s.regions[id] s.now (a - s.regions[id].fields.base) } } := by
  unfold State.storeCardBytes marks
  dsimp only
  cases word with
  | false => rfl
  | true =>
    show State.handByte id _ (State.handByte id _ { s with store := _ }) = _
    simp only [State.handByte, State.modRegion, getElem_set_same, Vector.set_set, if_true, Nat.add_zero]
    rfl

theorem stored_fill {x : Transfer} {s : State} {id : RegionId} (data : Half) (hk : s.chans[x.ch].kind = .fill) (ht : x.target = .mirror id) :
    stored x data s = s.storeCardBytes id x.sysAddr (bytesOf (isWord x.ch) data) := by
  unfold stored
  rw [hk, ht]

theorem stored_other {x : Transfer} {s : State} (data : Half)
    (h : s.chans[x.ch].kind ≠ .fill ∨ ∀ id : RegionId, x.target ≠ .mirror id) : stored x data s = s := by
  unfold stored
  split
  · next id hk ht =>
    obtain h | h := h
    · exact absurd hk h
    · exact absurd ht (h id)
  · rfl

/-- The store and the region table apart, storing changes nothing. -/
theorem stored_frame (x : Transfer) (data : Half) (s : State) : stored x data s = { s with
    store := (stored x data s).store, regions := (stored x data s).regions } := by
  unfold stored
  split
  · rw [storeCardBytes_eq]
  · rfl

theorem moved_eq (x : Transfer) (s : State) : moved x s = { s with
    chans := s.chans.set x.ch (s.chans[x.ch].advance x.sysAddr)
    arb := { s.arb with burstCount := s.arb.burstCount + 1 } } := rfl

theorem chans_moved (x : Transfer) (data : Half) (s : State) (d : ChanId) : (moved x (stored x data s)).chans[d] =
    if d = x.ch then s.chans[x.ch].advance x.sysAddr else s.chans[d] := by
  rw [stored_frame, moved_eq]
  exact getElem_set_fin _ _ _ _

/-! ### The position (R99, R100) -/

/-- The next address of a channel. -/
def stepped (ch : Chan) : Half :=
  match ch.step with
  | .up => ch.currentAddress + 1
  | .down => ch.currentAddress - 1

/-- The position after a transfer that was not the last of its count. -/
theorem advance_more {ch : Chan} (a : Nat) (h : ch.currentCount ≠ 0) : ch.advance a = { ch with
    currentAddress := stepped ch, currentCount := ch.currentCount - 1, lastSystemAddress := a } := by
  have hc : (ch.currentCount = 0) = False := eq_false h
  unfold Chan.advance
  simp only [hc, if_false]
  rfl

/-- The position at the terminal count. -/
theorem advance_terminal {ch : Chan} (a : Nat) (h : ch.currentCount = 0) : ch.advance a = { ch with
    currentAddress := if ch.autoInit = true then ch.baseAddress else stepped ch
    currentCount := if ch.autoInit = true then ch.baseCount else 0xFFFF
    tcFlag := true, lastSystemAddress := a
    blockOpen := if ch.service = .block then false else ch.blockOpen } := by
  have hc : (ch.currentCount = 0) = True := eq_true h
  have hm : ch.currentCount - 1 = 0xFFFF := by rw [h]; rfl
  unfold Chan.advance
  simp only [hc, if_true, hm]
  rfl

theorem request_advance (ch : Chan) (a : Nat) : (ch.advance a).request = ch.request := by
  unfold Chan.advance
  dsimp only
  split <;> rfl

/-- Settles O37: the position moves in stages 5 and 6, and nothing after them moves it. -/
theorem transfersMoveThePosition : Obligations.TransfersMoveThePosition := by
  intro s x e hin ho ch next
  obtain ⟨clocks, hexec⟩ := exec_transferEnd e hin ho
  generalize cycleTimesOut x.timedOut x.waits x.limit x.clock (s.readyHeld x.switched e) = out at hexec
  have hq := quiet_endTransfer x out e (s.cycleDone clocks)
  have hch := chans_moved x ((s.cycleDone clocks).fillData x.ch out e) (s.cycleDone clocks)
  have hfr := stored_frame x ((s.cycleDone clocks).fillData x.ch out e) (s.cycleDone clocks)
  generalize stored x ((s.cycleDone clocks).fillData x.ch out e) (s.cycleDone clocks) = v at hq hch hfr
  generalize (s.cycleDone clocks).endTransfer x out e = t at hq hexec
  obtain ⟨hk, hp, hr, -⟩ := hq.calm.apart
  have hprog : t.chans[x.ch].program = (ch.advance x.sysAddr).program := by
    rw [hp, hch, if_pos rfl]
    rfl
  refine ⟨t, hexec, ?_, ?_, ?_, ?_, fun h0 => ?_, fun h0 hi => ?_, fun h0 hi => ?_, fun d hd => ?_⟩
  · rw [hk, hfr]
    rfl
  · rw [hq.lines, hfr]
    rfl
  · rw [hfr] at hr
    exact hr
  · rw [hq.request, hch, if_pos rfl]
    exact request_advance _ _
  · rw [hprog, advance_more _ h0]
    rfl
  · have hi' : ¬ ch.autoInit = true := by rw [hi]; exact Bool.false_ne_true
    rw [hprog, advance_terminal _ h0, if_neg hi', if_neg hi']
    rfl
  · rw [hprog, advance_terminal _ h0, if_pos hi, if_pos hi]
    rfl
  · rw [hp, hch, if_neg hd]
    rfl

/-! ### The memory side (R97, R98, R124, R131) -/

theorem noRoom_placed {s t : State} (h : s.NoRoom) (hp : s.link.Placed t.link) : t.NoRoom := by
  obtain ⟨rs, ht, hrs⟩ := hp
  unfold State.NoRoom at h ⊢
  rw [ht]
  obtain h | h := h
  · exact .inl h
  · refine .inr ?_
    show _ ≤ (s.link.reports ++ rs).length + (s.link.reservations - rs.length)
    rw [List.length_append]
    omega

/-- With no room no copy is admitted. -/
theorem admitFills_noRoom {s : State} (n : Nat) (h : s.NoRoom) : State.admitFills n s = s := by
  have hno : s.link.canAdmit = false := by
    unfold Link.canAdmit Link.freeEntries
    obtain h | h := h
    · rw [h]
      rfl
    · have : ¬ s.link.reservations < Config.reportCapacity - s.link.reports.length := by omega
      rw [decide_eq_false this]
      simp
  cases n with
  | zero => rfl
  | succ n =>
    simp only [State.admitFills, hno, Bool.false_and]
    rfl

theorem going_stopped (x : Transfer) (r p : Option MaskReason) (b : Bool) (s : State) : Going s (stopped x r p b s) := by
  unfold stopped
  split
  · exact going_maskChan _ _ s
  · exact going_maskChan _ _ s
  · refine going_of_eq rfl rfl fun d => ?_
    rw [State.chans_modChan]
    split
    · next h => subst h; exact awaitedRegions_afterTransfer _ _
    · rfl

theorem going_told (x : Transfer) (terminal hit out : Bool) (s : State) : Going s (told x terminal hit out s) := by
  have hone (p : Bool) (k : Cause) (u : State) : Going u (if p then u.addCause x.ch k else u) := by
    split
    · exact going_addCause _ _ u
    · exact .refl u
  exact (hone _ _ _).after ((hone _ _ _).after (hone _ _ s))

theorem placed_told (x : Transfer) (terminal hit out : Bool) (s : State) : s.link.Placed (told x terminal hit out s).link := by
  have hone (p : Bool) (k : Cause) (u : State) : u.link.Placed (if p then u.addCause x.ch k else u).link := by
    split
    · exact u.placed_addCause _ _
    · exact u.link.placed_refl
  exact Link.placed_trans (hone _ _ s) (Link.placed_trans (hone _ _ _) (hone _ _ _))

theorem placed_stopped (x : Transfer) (r p : Option MaskReason) (b : Bool) (s : State) : s.link.Placed (stopped x r p b s).link := by
  unfold stopped
  split
  · exact s.placed_maskChan _ _
  · exact s.placed_maskChan _ _
  · exact s.link.placed_refl

/-- With no room nothing is copied at the boundary. -/
theorem boundary_noRoom {x : Transfer} {out : Bool} {e : BusEnd} {s : State} (h : s.NoRoom) :
    boundary x out e s = (s.settleTransfer x out e).runStoreWaits := by
  refine admitFills_noRoom 33 (noRoom_placed h ?_)
  have hv : (moved x (stored x (s.fillData x.ch out e) s)).link = s.link := by
    rw [stored_frame]
    rfl
  have hadv := (quiet_advanced x out e s).placed
  rw [hv] at hadv
  refine Link.placed_trans (Link.placed_trans hadv ?_) (State.placed_runStoreWaits _)
  rw [settleTransfer_eq]
  exact Link.placed_trans (placed_told _ _ _ _ _) (placed_stopped _ _ _ _ _)

theorem onward_end (x : Transfer) (out : Bool) (e : BusEnd) (s : State) : Onward (boundary x out e s) (s.endTransfer x out e) :=
  end_of_boundary (P := Onward) (fun h h' => h.after h') onward_startTransfer onward_endDmaTenure x out e s

theorem onward_runStoreWaits (s : State) : Onward s s.runStoreWaits := by
  rw [runStoreWaits_eq]
  exact onward_of_eq rfl rfl rfl

/-- With no room to ship the regions with bytes queued stay as the transfer has marked them. -/
theorem going_endTransfer {x : Transfer} {out : Bool} {e : BusEnd} {s : State} (h : s.NoRoom) :
    Going (advanced x out e s) (s.endTransfer x out e) := by
  have h0 := (onward_end x out e s).going
  rw [boundary_noRoom h] at h0
  refine h0.after ((onward_runStoreWaits _).going.after ?_)
  rw [settleTransfer_eq]
  exact (going_stopped _ _ _ _ _).after (going_told _ _ _ _ _)

theorem lowByte_halfOf (lo hi : Byte) : lowByte (halfOf lo hi) = lo := by
  simp only [halfOf, lowByte]
  ext k hk
  simp only [BitVec.getElem_setWidth, BitVec.getLsbD_or, BitVec.getLsbD_shiftLeft]
  simp [hk, show k < 16 by omega]

theorem highByte_halfOf (lo hi : Byte) : highByte (halfOf lo hi) = hi := by
  simp only [halfOf, highByte]
  ext k hk
  have h16 : k < 16 ∧ 8 + k < 16 := by omega
  have hbit : BitVec.getLsbD hi k = hi[k] := BitVec.getLsbD_eq_getElem hk
  simp [hbit, h16]

theorem lowByte_zeroExtend (b : Byte) : lowByte (b.zeroExtend 16) = b := by
  simp only [lowByte]
  ext k hk
  simp

/-- The byte, or the two bytes, that a FILL stores. -/
theorem bytesOf_fillData (s : State) (c : ChanId) (out : Bool) (e : BusEnd) : bytesOf (isWord c) (s.fillData c out e) =
    if 4 ≤ c.val then [if out then 0xFF else s.lowLines e, if out then 0xFF else s.highLines e]
    else [if out then 0xFF else s.lowLines e] := by
  unfold bytesOf State.fillData isWord
  by_cases hw : 4 ≤ c.val
  · rw [if_pos hw, decide_eq_true hw]
    cases out
    · simp only [if_true, Bool.false_eq_true, if_false, lowByte_halfOf, highByte_halfOf]
    · simp only [if_true]
      decide
  · rw [if_neg hw, decide_eq_false hw]
    simp only [Bool.false_eq_true, if_false, lowByte_zeroExtend]

theorem mark_entries_ne_nil (q : ShipQueue) (age : Nat) (now : Time) (off : Nat) : (q.mark age now off).entries ≠ [] := by
  show markEntry q.entries (off / 64) (off % 64) now ≠ []
  unfold markEntry
  split
  · next h =>
    intro hnil
    rw [List.map_eq_nil_iff.mp hnil] at h
    cases h
  · simp

theorem marks_entries_ne_nil (word : Bool) (g : Region) (now : Time) (off : Nat) : (marks word g now off).entries ≠ [] := by
  unfold marks
  dsimp only
  split <;> exact mark_entries_ne_nil _ _ _ _

theorem running_marks (word : Bool) (g : Region) (now : Time) (off : Nat) : (marks word g now off).running = g.ship.running := by
  unfold marks
  dsimp only
  split <;> rfl

/-- A mark joins a new entry at the tail, or widens the one there is (R124). -/
theorem mark_joins {q : ShipQueue} {age off : Nat} {now : Time} (h : ∀ x ∈ q.entries, x.granule ≠ off / 64) :
    (q.mark age now off).entries = q.entries ++ [⟨off / 64, off % 64, off % 64, now⟩] ∧
      (q.mark age now off).dirtyTotal = q.dirtyTotal + 1 := by
  have hany : q.entries.any (·.granule == off / 64) = false := by
    rw [List.any_eq_false]
    intro x hx
    simpa using h x hx
  have hfind : q.entries.find? (·.granule == off / 64) = none := by
    rw [List.find?_eq_none]
    intro x hx
    simpa using h x hx
  constructor
  · show markEntry _ _ _ _ = _
    rw [markEntry, hany]
    rfl
  · show q.dirtyTotal + markGain _ _ _ = _
    rw [markGain, hfind]

theorem mark_widens {q : ShipQueue} {age off : Nat} {now : Time} {before after : List ShipEntry} {x : ShipEntry}
    (hq : q.entries = before ++ x :: after) (hx : x.granule = off / 64) (ho : ∀ y ∈ before ++ after, y.granule ≠ off / 64)
    (hle : x.lo ≤ x.hi) :
    (q.mark age now off).entries = before ++ { x with lo := min x.lo (off % 64), hi := max x.hi (off % 64) } :: after ∧
      (q.mark age now off).dirtyTotal + (x.hi - x.lo) = q.dirtyTotal + (max x.hi (off % 64) - min x.lo (off % 64)) := by
  have hno {ys : List ShipEntry} (hys : ∀ y ∈ ys, y ∈ before ++ after) :
      ys.map (fun e => if e.granule == off / 64 then e.widen (off % 64) else e) = ys := by
    refine (List.map_congr_left fun y hy => ?_).trans (List.map_id ys)
    rw [if_neg (by simpa using ho y (hys y hy))]
    rfl
  have hany : q.entries.any (·.granule == off / 64) = true := by
    rw [List.any_eq_true]
    exact ⟨x, by rw [hq]; simp, by simpa using hx⟩
  have hfind : q.entries.find? (·.granule == off / 64) = some x := by
    rw [hq]
    refine List.find?_eq_some_iff_append.mpr ⟨by simpa using hx, before, after, rfl, fun y hy => ?_⟩
    simpa using ho y (List.mem_append_left _ hy)
  constructor
  · show markEntry _ _ _ _ = _
    rw [markEntry, hany, if_pos rfl, hq, List.map_append, List.map_cons, hno fun y hy => List.mem_append_left _ hy,
      hno fun y hy => List.mem_append_right _ hy, if_pos (by simpa using hx)]
    rfl
  · show q.dirtyTotal + markGain _ _ _ + _ = _
    rw [markGain, hfind]
    simp only [ShipEntry.widen, ShipEntry.span]
    omega

/-- The deadline runs from the head of a queue that was empty. -/
theorem mark_ageDeadline (q : ShipQueue) (age off : Nat) (now : Time) : (q.mark age now off).ageDeadline =
    if q.entries = [] then some ⟨now, age * 1000⟩ else q.ageDeadline := by
  show (if q.entries.isEmpty then ageOf (markEntry q.entries (off / 64) (off % 64) now) age else q.ageDeadline) = _
  by_cases h : q.entries = []
  · rw [h]
    rfl
  · rw [List.isEmpty_eq_false_iff.mpr h, if_neg h]
    rfl

/-- Settles O38: the marks of a queue, and the store and the queue after a transfer. -/
theorem transfersFillTheStore : Obligations.TransfersFillTheStore := by
  refine ⟨fun q age off now => ⟨mark_joins, fun before after x => mark_widens, mark_ageDeadline q age off now, rfl, rfl⟩, ?_⟩
  intro s x e hs hin ho hwaits hsucc hkind hout lo hi
  obtain ⟨clocks, hexec⟩ := exec_transferEnd e hin ho
  rw [timesOut_of hout] at hexec
  have hd : s.cycleDone clocks = { s with inFlight := .none, orphan := false, lastClocks := clocks.getD s.lastClocks } := rfl
  generalize s.cycleDone clocks = u at hexec hd
  have hq := quiet_endTransfer x x.timedOut e u
  have hgo (h : u.NoRoom) := going_endTransfer (x := x) (out := x.timedOut) (e := e) h
  have hdata : bytesOf (isWord x.ch) (u.fillData x.ch x.timedOut e) = if 4 ≤ x.ch.val then [lo, hi] else [lo] := by
    rw [bytesOf_fillData, hd]
    rfl
  have hku : u.chans[x.ch].kind = x.kind := by rw [hd]; exact hkind.symm
  generalize hv : stored x (u.fillData x.ch x.timedOut e) u = v at hq
  have hfill {id : RegionId} (hk : x.kind = .fill) (ht : x.target = .mirror id) : v = { u with
      store := Memory.writeAll s.store x.sysAddr (if 4 ≤ x.ch.val then [lo, hi] else [lo])
      regions := s.regions.set id { s.regions[id] with
        ship := marks (isWord x.ch) s.regions[id] s.now (x.sysAddr - s.regions[id].fields.base) } } := by
    rw [← hv, stored_fill _ (hku.trans hk) ht, storeCardBytes_eq, hdata, hd]
  have hsettled : (moved x v).Settled := by
    have hvr : v.storeWaits = [] ∧ ∀ r : RegionId, v.regions[r].successor = none := by
      by_cases hcase : x.kind = .fill ∧ ∃ id, x.target = .mirror id
      · obtain ⟨hk, id, ht⟩ := hcase
        rw [hfill hk ht]
        refine ⟨by rw [hd]; exact hwaits, fun r => ?_⟩
        show (Vector.set s.regions id _)[r].successor = none
        rw [getElem_set_fin]
        split
        · exact hsucc id
        · exact hsucc r
      · rw [← hv, stored_other]
        · rw [hd]
          exact ⟨hwaits, hsucc⟩
        · rw [hku]
          by_cases hk : x.kind = .fill
          · exact .inr fun id ht => hcase ⟨hk, id, ht⟩
          · exact .inl hk
    exact hvr
  have hstore : (u.endTransfer x x.timedOut e).store = v.store := hq.calm.apart.2.2.2 hsettled
  have hadv : advanced x x.timedOut e u = met x.kind x (moved x v).trickleUpdate := by
    rw [← hv, ← hku]
    rfl
  generalize u.endTransfer x x.timedOut e = t at *
  refine ⟨t, hexec, fun id hk ht hw a => ?byte, fun id hk ht hw a => ?wide, fun hno => ?other, fun id hroom hk ht => ?marks⟩
  case byte =>
    rw [hstore, hfill hk ht, if_neg (Nat.not_le.mpr hw)]
    show Memory.read (Memory.write s.store x.sysAddr lo) a = _
    split
    · next h => subst h; exact Memory.read_write_same _ _ _ hs
    · next h => exact Memory.read_write_other _ _ _ _ h
  case wide =>
    rw [hstore, hfill hk ht, if_pos hw]
    show Memory.read (Memory.write (Memory.write s.store x.sysAddr lo) (x.sysAddr + 1) hi) a = _
    split
    · next h =>
      subst h
      rw [Memory.read_write_other _ _ _ _ (by omega)]
      exact Memory.read_write_same _ _ _ hs
    · next h =>
      split
      · next h1 => subst h1; exact Memory.read_write_same _ _ _ (Memory.write_wf _ _ _ hs)
      · next h1 => rw [Memory.read_write_other _ _ _ _ h1, Memory.read_write_other _ _ _ _ h]
  case other =>
    rw [hstore, ← hv, stored_other, hd]
    rw [hku]
    obtain h | h | h := hno
    · exact .inl h
    · exact .inr fun id hid => by rw [h] at hid; cases hid
    · exact .inr fun id hid => by rw [h] at hid; cases hid
  case marks =>
    intro g off one q
    have hq' : marks (isWord x.ch) g s.now off = q := by
      unfold marks isWord
      dsimp only
      exact if_congr decide_eq_true_iff rfl rfl
    have hroom' : u.NoRoom := by rw [hd]; exact hroom
    have hgo := hgo hroom'
    rw [hadv, hk] at hgo
    have hreg : (moved x v).regions[id] = { g with ship := q } := by
      rw [hfill hk ht, ← hq']
      exact getElem_set_same _ _ _
    have hne : q.entries ≠ [] := hq' ▸ marks_entries_ne_nil _ _ _ _
    have hrunq : q.running = g.ship.running := hq' ▸ running_marks _ _ _ _
    obtain ⟨rs, heq, hrs⟩ := trickleUpdate_eq (moved x v)
    have hw : (moved x v).trickleUpdate.regions[id] = trickled (moved x v) id := by
      rw [heq]
      exact hrs id
    have hline (hb : begins (moved x v) id = true) : id ∈ (moved x v).trickleUpdate.fillLine := by
      rw [heq]
      exact List.mem_append_right _ (List.mem_filter.mpr ⟨List.mem_finRange id, hb⟩)
    clear heq hrs rs
    have htr : trickled (moved x v) id = { g with ship := { q with
        trickling := (moved x v).isTrickling id, running := q.running || begins (moved x v) id } } := by
      unfold trickled
      rw [hreg]
    rw [htr] at hw
    generalize (moved x v).trickleUpdate = w at hgo hw hline
    have hmet : met .fill x w = w.thresholdCheck id := by
      unfold met
      rw [ht]
    rw [hmet] at hgo
    have hall := hgo.after (going_thresholdCheck id w)
    have hkept := hall.kept id (by rw [hw]; exact hne)
    rw [SameEntry, hw] at hkept
    refine ⟨by rw [hkept], by rw [hkept], by rw [hkept], fun hr => ?_, fun hc hm hr ⟨n, hn, hle⟩ => ?_⟩
    · refine (hall.runs id ?_).1
      rw [hw, hrunq, hr]
      rfl
    · have hreach : (w.thresholdCheck id).regions[id].ship.running = true ∧ id ∈ (w.thresholdCheck id).fillLine := by
        cases hb : begins (moved x v) id with
        | true =>
          have hwr : w.regions[id].ship.running = true := by rw [hw, hb]; exact Bool.or_true _
          exact ⟨((going_thresholdCheck id w).runs id hwr).1, (going_thresholdCheck id w).line id (hline hb)⟩
        | false =>
          have hwr : w.regions[id].ship.running = false := by rw [hw, hb, hrunq, hr]; rfl
          have hwe : w.regions[id].ship.entries ≠ [] := by rw [hw]; exact hne
          have hmir : w.regions[id].isMirror = true := by
            rw [hw, Region.isMirror, Bool.and_eq_true]
            exact ⟨decide_eq_true hc, decide_eq_true hm⟩
          have hcond : (w.regions[id].isMirror && w.regions[id].fields.threshold.any (· ≤ w.regions[id].ship.dirtyTotal)) = true := by
            rw [hmir, hw]
            show g.fields.threshold.any (· ≤ q.dirtyTotal) = true
            rw [hn]
            exact decide_eq_true hle
          have hth : w.thresholdCheck id = w.trigger id := if_pos hcond
          rw [hth, trigger_begins hmir hwr hwe]
          refine ⟨?_, List.mem_append_right _ (List.mem_singleton.mpr rfl)⟩
          exact (congrArg (fun g : Region => g.ship.running) (getElem_set_same _ _ _) :)
      exact ⟨(hgo.runs id hreach.1).1, hgo.line id hreach.2⟩

end Sys2Proof.Proofs.TransferEnds
end

section
/-! PROOFS. The stop at the end of a transfer (R83, R86, R87, R101): its causes, the mask it raises, the requests answered by it and the
pass it demands. -/

open Sys2Proof Sys2Proof.Machine Sys2Proof.Proofs.MapLaws Sys2Proof.Proofs.PassLaws Sys2Proof.Proofs.Laws Sys2Proof.Proofs.Trickle
  Sys2Proof.Proofs.PassFrame Sys2Proof.Proofs.Grants Sys2Proof.Proofs.Batches Sys2Proof.Proofs.Demands
  Sys2Proof.Proofs.Consequences Sys2Proof.Proofs.TransferEnds

namespace Sys2Proof.Proofs.TransferStops

/-! ### The causes joined (R87) -/

/-- A channel's context with the causes of a transfer joined, in their order. -/
def joined (terminal hit out : Bool) (now : Time) (a : Nat) (ch : Chan) : Chan :=
  let ch := if terminal then ch.addCause now .terminal else ch
  let ch := if hit then ch.addCause now .matched else ch
  if out then ch.addCause now (.fault .wait a) else ch

theorem joined_eq (terminal hit out : Bool) (now : Time) (a : Nat) (ch : Chan) : joined terminal hit out now a ch = { ch with
    causes := ⟨ch.causes.terminal || terminal, ch.causes.matched || hit, ch.causes.fault || out⟩
    pendingTerminals := if terminal then satInc 255 ch.pendingTerminals else ch.pendingTerminals
    pendingFaults := if out then satInc 255 ch.pendingFaults else ch.pendingFaults
    faultDetail := if out then some .wait else ch.faultDetail
    faultAddress := if out then some a else ch.faultAddress
    pendingSince := if terminal || hit || out then (if ch.causes.none then now else ch.pendingSince) else ch.pendingSince } := by
  cases terminal <;> cases hit <;> cases out <;> simp [joined, Chan.addCause, Causes.none]

theorem bare_addCause (ch : Chan) (now : Time) (k : Cause) : bare (ch.addCause now k) = (bare ch).addCause now k := by
  cases k <;> rfl

theorem bare_joined (terminal hit out : Bool) (now : Time) (a : Nat) (ch : Chan) :
    bare (joined terminal hit out now a ch) = joined terminal hit out now a (bare ch) := by
  cases terminal <;> cases hit <;> cases out <;> rfl

theorem chan_told (x : Transfer) (terminal hit out : Bool) (s : State) :
    bare (told x terminal hit out s).chans[x.ch] = joined terminal hit out s.now x.sysAddr (bare s.chans[x.ch]) := by
  have hone (p : Bool) (k : Cause) (u : State) : bare (if p then u.addCause x.ch k else u).chans[x.ch] =
      if p then (bare u.chans[x.ch]).addCause u.now k else bare u.chans[x.ch] := by
    split
    · rw [chans_addCause, if_pos rfl, bare_addCause]
    · rfl
  have hnow (p : Bool) (k : Cause) (u : State) : (if p then u.addCause x.ch k else u).now = u.now := by
    split
    · exact (congrArg (fun k => k.1.1) (u.calm_addCause x.ch k).1 :)
    · rfl
  unfold told joined
  dsimp only
  simp only [hone, hnow]

/-- What a transfer that advances keeps of its channel. -/
theorem advance_eq (ch : Chan) (a : Nat) : ch.advance a = { ch with
    currentAddress := (ch.advance a).currentAddress, currentCount := (ch.advance a).currentCount
    tcFlag := (ch.advance a).tcFlag, lastSystemAddress := a
    blockOpen := if ch.currentCount = 0 ∧ ch.service = .block then false else ch.blockOpen } := by
  by_cases h : ch.currentCount = 0
  · have hc : (ch.currentCount = 0 ∧ ch.service = .block) = (ch.service = .block) := by simp [h]
    rw [advance_terminal a h]
    simp only [hc]
  · rw [advance_more a h, if_neg fun h' => h h'.1]

theorem sameCauses_afterTransfer (ch : Chan) (b : Bool) : SameCauses ch (ch.afterTransfer b) := by
  unfold Chan.afterTransfer
  split <;> first | exact .refl ch | (split <;> first | exact .refl ch | exact ⟨rfl, rfl, rfl, fun h => ⟨h, rfl⟩⟩)

/-! ### The mask (R83, R86) -/

theorem chan_stopped_mask {x : Transfer} {r p : Option MaskReason} {m : MaskReason} {b : Bool} {s : State}
    (h : r = some m ∨ r = none ∧ p = some m) : (stopped x r p b s) = s.maskChan x.ch m := by
  obtain rfl | ⟨rfl, rfl⟩ := h
  · unfold stopped
    rfl
  · rfl

/-- What the boundary leaves of the transfer's channel is what grants after it find. -/
theorem chan_boundary (x : Transfer) (out : Bool) (e : BusEnd) (s : State) :
    bare (boundary x out e s).chans[x.ch] = bare (s.settleTransfer x out e).chans[x.ch] :=
  (copied_boundary x out e s).chans x.ch

/-- A channel that is not SERVING at the boundary has the bus no more, and stays as it is. -/
theorem end_waiting {x : Transfer} {out : Bool} {e : BusEnd} {s : State}
    (h : (s.settleTransfer x out e).chans[x.ch].state ≠ .serving) :
    bare (s.endTransfer x out e).chans[x.ch] = bare (s.settleTransfer x out e).chans[x.ch] ∧
      (s.endTransfer x out e).arb.owner.isChan x.ch = false := by
  have hb := chan_boundary x out e s
  have hst : (boundary x out e s).chans[x.ch].state ≠ .serving := by
    have hs : (boundary x out e s).chans[x.ch].state = (s.settleTransfer x out e).chans[x.ch].state := (congrArg Chan.state hb :)
    rw [hs]
    exact h
  rw [endTransfer_ends]
  · obtain ⟨hbare, ho⟩ := (granted_grantPoint ((boundary x out e s).modArb fun a => { a with
        yield := a.yield || (decide ((if (boundary x out e s).chans[x.ch].service = .single then 1 else (boundary x out e s).arb.burstCap) ≤
          a.burstCount) && (boundary x out e s).lowerClaim) })).waiting x.ch hst
    exact ⟨hbare.trans hb, ho⟩
  · unfold State.tenureGoesOn
    rw [decide_eq_false hst]
    rfl

/-! ### Passes demanded on regions that no request awaits -/

theorem link_beginPass {id : RegionId} {s : State} (hd : s.regions[id].cond ≠ .dropping) (hf : s.regions[id].flushWaiters = []) :
    (s.beginPass id).link = s.link := by
  by_cases he : s.regions[id].ship.entries = []
  · have hreg : (s.modShip id fun q => { q with running := true }).regions[id] =
        { s.regions[id] with ship := { s.regions[id].ship with running := true } } := by
      rw [regions_modShip, if_pos rfl]
    have htold : (toldBlocks id (s.modShip id fun q => { q with running := true })).regions[id].cond = s.regions[id].cond ∧
        (toldBlocks id (s.modShip id fun q => { q with running := true })).regions[id].flushWaiters = [] := by
      have h : (toldBlocks id (s.modShip id fun q => { q with running := true })).regions = _ :=
        (congrArg State.regions (toldBlocks_eq id _) :)
      rw [h, getElem_set_same, hreg]
      exact ⟨rfl, hf⟩
    have hlink : (toldBlocks id (s.modShip id fun q => { q with running := true })).link = s.link :=
      (congrArg State.link (toldBlocks_eq id (s.modShip id fun q => { q with running := true })) :)
    rw [beginPass_empty he, endPass_eq_told]
    generalize toldBlocks id (s.modShip id fun q => { q with running := true }) = w at htold hlink
    split
    · unfold State.mapPassEnded
      dsimp only
      rw [if_neg (by rw [htold.1]; exact hd), htold.2]
      exact hlink
    · exact hlink
  · rw [beginPass_queued he]

/-- Of a region whose pass is IDLE nobody awaits a removal or a flush. -/
theorem clear_of_passesOk {s : State} (h : PassesOk s) {r : RegionId} (hr : s.regions[r].ship.running = false) :
    s.regions[r].cond ≠ .dropping ∧ s.regions[r].flushWaiters = [] := by
  have hno := ((passesOk_iff s).mp h).1.not_awaits hr .map
  exact ⟨fun hd => hno (.inl hd), by_contra fun hf => hno (.inr hf)⟩

theorem link_trigger (id : RegionId) {s : State} (h : PassesOk s) : (s.trigger id).link = s.link := by
  unfold State.trigger
  split
  · next hc =>
    rw [Bool.and_eq_true, Bool.not_eq_true'] at hc
    obtain ⟨hd, hf⟩ := clear_of_passesOk h hc.2
    exact link_beginPass hd hf
  · rfl

theorem link_addCause (c : ChanId) (k : Cause) {s : State} (h : PassesOk s) : (s.addCause c k).link = s.link := by
  cases hm : s.mirrorAt s.chans[c].lastSystemAddress with
  | none => rw [addCause_none hm]; rfl
  | some id =>
    rw [addCause_some hm]
    have hreg : ((awaiting c id (caused c k s)).modShip id fun q => { q with waiters := q.waiters.add (.chan c) }).regions[id] =
        { s.regions[id] with ship := { s.regions[id].ship with waiters := s.regions[id].ship.waiters.add (.chan c) } } := by
      rw [regions_modShip, if_pos rfl]
      rfl
    unfold State.demand
    dsimp only
    split
    · rfl
    · next hrun =>
      rw [hreg] at hrun
      obtain ⟨hd, hf⟩ := clear_of_passesOk h (r := id) (by simpa using hrun)
      exact link_beginPass (by rw [hreg]; exact hd) (by rw [hreg]; exact hf)

theorem link_told (x : Transfer) (terminal hit out : Bool) {s : State} (h : PassesOk s) :
    (told x terminal hit out s).link = s.link := by
  have hone (p : Bool) (k : Cause) (u : State) (hu : PassesOk u) : (if p then u.addCause x.ch k else u).link = u.link ∧
      PassesOk (if p then u.addCause x.ch k else u) := by
    split
    · exact ⟨link_addCause _ _ hu, (keeps_addCause _ _ u).passes hu⟩
    · exact ⟨rfl, hu⟩
  obtain ⟨h1, p1⟩ := hone terminal .terminal s h
  obtain ⟨h2, p2⟩ := hone hit .matched _ p1
  obtain ⟨h3, -⟩ := hone out (.fault .wait x.sysAddr) _ p2
  exact h3.trans (h2.trans h1)

theorem advanced_law (x : Transfer) (out : Bool) (e : BusEnd) {s : State} (h : PassesOk s) :
    PassesOk (advanced x out e s) ∧ (advanced x out e s).link = s.link := by
  have hstored : Keeps s (stored x (s.fillData x.ch out e) s) := by
    unfold stored
    split
    · exact keeps_storeCardBytes _ _ _ s
    · exact .refl s
  have hv : PassesOk (moved x (stored x (s.fillData x.ch out e) s)).trickleUpdate :=
    (((keeps_trickleUpdate _).after ((keeps_modArb (fun a => { a with burstCount := a.burstCount + 1 }) _ le_rfl rfl).after
      (keeps_modChan_of_eq x.ch (·.advance x.sysAddr) _ fun ch => awaitedRegions_advance ch _))).after hstored).passes h
  have hl : (moved x (stored x (s.fillData x.ch out e) s)).trickleUpdate.link = s.link := by
    rw [trickleUpdate_frame, stored_frame]
    rfl
  unfold advanced
  generalize (moved x (stored x (s.fillData x.ch out e) s)).trickleUpdate = w at hv hl
  unfold met
  split
  · refine ⟨(keeps_thresholdCheck _ w).passes hv, ?_⟩
    unfold State.thresholdCheck
    dsimp only
    split
    · exact (link_trigger _ hv).trans hl
    · exact hl
  · exact ⟨hv, hl⟩

/-- The requests that waited for a mask are answered in order (R83). -/
theorem reports_maskChan {c : ChanId} {r : MaskReason} {s : State} (h : s.chans[c].maskWaiters.length ≤ s.link.reservations) :
    (s.maskChan c r).link.reports = s.link.reports ++ s.chans[c].maskWaiters.map fun tag => .reply 0x99 tag .ok .empty := by
  have hw : (s.modChan c fun ch => { ch with state := .masked, maskReason := some r, maskPending := none }).chans[c].maskWaiters =
      s.chans[c].maskWaiters := by
    rw [State.chans_modChan, if_pos rfl]
  unfold State.maskChan State.answerMasks
  dsimp only
  rw [hw, each_reply_placed _ kChanMask (fun tag => tag) .ok (fun _ => .empty) _ (by exact h)]
  rfl

/-! ### The pass a cause demands (R87) -/

/-- Passes begun and joined after a cause's demand leave what it has brought about. -/
theorem caused_going {c : ChanId} {id : RegionId} {s t u : State} (h : Caused c id s t) (hst : Going s t) (htu : Going t u) :
    Caused c id s u where
  queued hq := by
    obtain ⟨ha, hr, hw⟩ := h.queued hq
    exact ⟨htu.awaits c id ha hr, (htu.runs id hr).1, (htu.runs id hr).2 c hw⟩
  empty he hr := by
    obtain ⟨he', hr'⟩ := hst.idle id he hr
    exact htu.free c id he' hr' (h.empty he hr)

theorem caused_told {x : Transfer} {terminal hit out : Bool} {s : State} {id : RegionId}
    (hany : (terminal || hit || out) = true) (h : s.mirrorAt s.chans[x.ch].lastSystemAddress = some id) :
    Caused x.ch id s (told x terminal hit out s) := by
  have hfirst (k : Cause) (t : State) (hg : Going (s.addCause x.ch k) t) : Caused x.ch id s t :=
    caused_going (caused_addCause h) (going_addCause x.ch k s) hg
  have hrest (p : Bool) (k : Cause) (u : State) : Going u (if p then u.addCause x.ch k else u) := by
    split
    · exact going_addCause _ _ u
    · exact .refl u
  unfold told
  dsimp only
  cases terminal with
  | true => exact hfirst .terminal _ ((hrest _ _ _).after (hrest _ _ _))
  | false =>
    cases hit with
    | true => exact hfirst .matched _ (hrest _ _ _)
    | false =>
      cases out with
      | true => exact hfirst _ _ (.refl _)
      | false => cases hany

/-- The entries of the region table when the transfer's causes join: those of a FILL's own region have bytes queued, the others'
queues are what they were. -/
structure Marked (x : Transfer) (k : ChanKind) (s t : State) : Prop where
  same : ∀ r : RegionId, t.regions[r].cond = s.regions[r].cond ∧ t.regions[r].fields = s.regions[r].fields
  queued : ∀ r : RegionId, s.regions[r].ship.entries ≠ [] ∨ (k = .fill ∧ x.target = .mirror r) → t.regions[r].ship.entries ≠ []
  idle : ∀ r : RegionId, s.regions[r].ship.entries = [] → s.regions[r].ship.running = false →
    ¬ (k = .fill ∧ x.target = .mirror r) → t.regions[r].ship.entries = [] ∧ t.regions[r].ship.running = false

theorem Marked.mirror {x : Transfer} {k : ChanKind} {s t : State} (h : Marked x k s t) (a : Nat) : t.mirrorAt a = s.mirrorAt a := by
  simp only [State.mirrorAt, Region.isMirror, (h.same _).1, (h.same _).2]

theorem marked_stored (x : Transfer) (data : Half) (s : State) : Marked x s.chans[x.ch].kind s (stored x data s) := by
  by_cases hcase : s.chans[x.ch].kind = .fill ∧ ∃ id, x.target = .mirror id
  · obtain ⟨hk, id, ht⟩ := hcase
    have hreg (r : RegionId) : (stored x data s).regions[r] = if r = id then { s.regions[id] with
        ship := marks (isWord x.ch) s.regions[id] s.now (x.sysAddr - s.regions[id].fields.base) } else s.regions[r] := by
      rw [stored_fill data hk ht, storeCardBytes_eq]
      exact getElem_set_fin _ _ _ _
    refine ⟨fun r => ?_, fun r hr => ?_, fun r he hrun hno => ?_⟩ <;> rw [hreg] <;> by_cases hr' : r = id
    · subst hr'
      rw [if_pos rfl]
      exact ⟨rfl, rfl⟩
    · rw [if_neg hr']
      exact ⟨rfl, rfl⟩
    · rw [if_pos hr']
      exact marks_entries_ne_nil _ _ _ _
    · rw [if_neg hr']
      obtain h | ⟨-, h⟩ := hr
      · exact h
      · rw [ht] at h
        cases h
        exact absurd rfl hr'
    · exact absurd ⟨hk, by rw [ht, hr']⟩ hno
    · rw [if_neg hr']
      exact ⟨he, hrun⟩
  · rw [stored_other]
    · refine ⟨fun _ => ⟨rfl, rfl⟩, fun r hr => ?_, fun r he hrun _ => ⟨he, hrun⟩⟩
      obtain h | ⟨hk, ht⟩ := hr
      · exact h
      · exact absurd ⟨hk, r, ht⟩ hcase
    · by_cases hk : s.chans[x.ch].kind = .fill
      · exact .inr fun id ht => hcase ⟨hk, id, ht⟩
      · exact .inl hk

/-- What a trigger on a region with bytes queued makes of the table. -/
theorem trigger_queued {id : RegionId} {s : State} (he : s.regions[id].ship.entries ≠ []) :
    SameMap s (s.trigger id) ∧ ∀ r : RegionId, r ≠ id → (s.trigger id).regions[r] = s.regions[r] := by
  by_cases hc : s.regions[id].isMirror = true ∧ s.regions[id].ship.running = false
  · rw [trigger_begins hc.1 hc.2 he]
    have hreg (r : RegionId) := getElem_set_fin s.regions id r
      { s.regions[id] with ship := { s.regions[id].ship with running := true } }
    refine ⟨fun r => ?_, fun r hr => (hreg r).trans (if_neg hr)⟩
    refine Eq.trans (hreg r) ?_
    split
    · next h => subst h; rw [hreg, if_pos rfl]
    · next h => rw [hreg, if_neg h]
  · have : s.trigger id = s := by
      unfold State.trigger
      refine if_neg fun h => hc ?_
      rwa [Bool.and_eq_true, Bool.not_eq_true'] at h
    rw [this]
    exact ⟨sameMap_refl s, fun _ _ => rfl⟩

theorem marked_advanced (x : Transfer) (out : Bool) (e : BusEnd) (s : State) :
    Marked x s.chans[x.ch].kind s (advanced x out e s) := by
  have hv := marked_stored x (s.fillData x.ch out e) s
  have hmoved : (moved x (stored x (s.fillData x.ch out e) s)).regions = (stored x (s.fillData x.ch out e) s).regions := rfl
  unfold advanced
  generalize stored x (s.fillData x.ch out e) s = v at hv hmoved
  obtain ⟨rs, heq, hrs⟩ := trickleUpdate_eq (moved x v)
  have hreg (r : RegionId) : (moved x v).trickleUpdate.regions[r] = { v.regions[r] with ship := { v.regions[r].ship with
      trickling := (moved x v).isTrickling r, running := v.regions[r].ship.running || begins (moved x v) r } } := by
    rw [heq]
    exact hrs r
  have hno (r : RegionId) (he : v.regions[r].ship.entries = []) : begins (moved x v) r = false := by
    have he' : (moved x v).regions[r].ship.entries = [] := he
    rw [begins, he']
    simp
  have hw : Marked x s.chans[x.ch].kind s (moved x v).trickleUpdate := by
    refine ⟨fun r => by rw [hreg]; exact hv.same r, fun r hr => by rw [hreg]; exact hv.queued r hr, fun r he hrun hn => ?_⟩
    obtain ⟨he', hrun'⟩ := hv.idle r he hrun hn
    rw [hreg]
    refine ⟨he', ?_⟩
    show (v.regions[r].ship.running || begins (moved x v) r) = false
    rw [hrun', hno r he']
    rfl
  generalize (moved x v).trickleUpdate = w at hw
  unfold met
  split
  · next id hk ht =>
    have hq : w.regions[id].ship.entries ≠ [] := hw.queued id (.inr ⟨hk, ht⟩)
    unfold State.thresholdCheck
    dsimp only
    split
    · obtain ⟨hm, hother⟩ := trigger_queued hq
      refine ⟨fun r => ?_, fun r hr => ?_, fun r he hrun hn => ?_⟩
      · rw [hm r]
        exact hw.same r
      · rw [hm.entries r]
        exact hw.queued r hr
      · rw [hother r fun h => hn ⟨hk, h ▸ ht⟩]
        exact hw.idle r he hrun hn
    · exact hw
  · exact hw

/-! ### The stop (R86, R100, R101) -/

/-- The context of a transfer's channel when the mask, or the service mode, is applied to it. -/
def stopChan (x : Transfer) (hit : Bool) (now : Time) (ch : Chan) : Chan :=
  joined (decide (ch.currentCount = 0) && ch.notifyTerminal) hit x.timedOut now x.sysAddr (ch.advance x.sysAddr)

/-- How a transfer ends for its channel: masked with a reason, or left to the service mode. -/
structure StopFacts (s : State) (x : Transfer) (e : BusEnd) (hit : Bool) (t : State) : Prop where
  mask : ∀ m : MaskReason, (raisedReason x.timedOut hit (decide (s.chans[x.ch].currentCount = 0) && !s.chans[x.ch].autoInit) = some m ∨
      raisedReason x.timedOut hit (decide (s.chans[x.ch].currentCount = 0) && !s.chans[x.ch].autoInit) = none ∧
        s.chans[x.ch].maskPending = some m) →
    bare t.chans[x.ch] = bare (masked (stopChan x hit s.now s.chans[x.ch]) m) ∧ t.arb.owner.isChan x.ch = false ∧
    (PassesOk s → s.chans[x.ch].maskWaiters.length ≤ s.link.reservations → ∃ more : List Report, t.link.reports =
      s.link.reports ++ (s.chans[x.ch].maskWaiters.map fun tag => .reply 0x99 tag .ok .empty) ++ more)
  run : raisedReason x.timedOut hit (decide (s.chans[x.ch].currentCount = 0) && !s.chans[x.ch].autoInit) = none →
    s.chans[x.ch].maskPending = none → s.chans[x.ch].currentCount = 0 → s.chans[x.ch].service = .block →
    (s.chans[x.ch].request = false → t.chans[x.ch].state = .ready ∧ t.chans[x.ch].blockOpen = false) ∧
    (s.chans[x.ch].request = true → t.chans[x.ch].state = .serving →
      (t.chans[x.ch].blockOpen = true ↔ t.arb.owner = .dma x.ch false))
  causes : SameCauses (stopChan x hit s.now s.chans[x.ch]) t.chans[x.ch]
  pass : (((decide (s.chans[x.ch].currentCount = 0) && s.chans[x.ch].notifyTerminal) || hit || x.timedOut) = true) → s.NoRoom →
    ∀ id : RegionId, s.mirrorAt x.sysAddr = some id → ∃ m : State, Marked x s.chans[x.ch].kind s m ∧ Caused x.ch id m t

theorem service_advance (ch : Chan) (a : Nat) : (ch.advance a).service = ch.service := by rw [advance_eq]

theorem lastSystemAddress_advance (ch : Chan) (a : Nat) : (ch.advance a).lastSystemAddress = a := by rw [advance_eq]

theorem maskWaiters_advance (ch : Chan) (a : Nat) : (ch.advance a).maskWaiters = ch.maskWaiters := by rw [advance_eq]

theorem blockOpen_advance (ch : Chan) (a : Nat) : (ch.advance a).blockOpen =
    if ch.currentCount = 0 ∧ ch.service = .block then false else ch.blockOpen := by rw [advance_eq]

theorem causes_advance (ch : Chan) (a : Nat) : (ch.advance a).causes = ch.causes := by rw [advance_eq]

theorem pendingTerminals_advance (ch : Chan) (a : Nat) : (ch.advance a).pendingTerminals = ch.pendingTerminals := by rw [advance_eq]

theorem pendingFaults_advance (ch : Chan) (a : Nat) : (ch.advance a).pendingFaults = ch.pendingFaults := by rw [advance_eq]

theorem faultDetail_advance (ch : Chan) (a : Nat) : (ch.advance a).faultDetail = ch.faultDetail := by rw [advance_eq]

theorem faultAddress_advance (ch : Chan) (a : Nat) : (ch.advance a).faultAddress = ch.faultAddress := by rw [advance_eq]

theorem pendingSince_advance (ch : Chan) (a : Nat) : (ch.advance a).pendingSince = ch.pendingSince := by rw [advance_eq]

section
variable (x : Transfer) (hit : Bool) (now : Time) (ch : Chan)

theorem causes_stopChan : (stopChan x hit now ch).causes = ⟨ch.causes.terminal || (decide (ch.currentCount = 0) && ch.notifyTerminal),
    ch.causes.matched || hit, ch.causes.fault || x.timedOut⟩ := by
  rw [stopChan, joined_eq]
  simp only [causes_advance]

theorem pendingTerminals_stopChan : (stopChan x hit now ch).pendingTerminals =
    if (decide (ch.currentCount = 0) && ch.notifyTerminal) then satInc 255 ch.pendingTerminals else ch.pendingTerminals := by
  rw [stopChan, joined_eq]
  simp only [pendingTerminals_advance]

theorem pendingFaults_stopChan : (stopChan x hit now ch).pendingFaults =
    if x.timedOut then satInc 255 ch.pendingFaults else ch.pendingFaults := by
  rw [stopChan, joined_eq]
  simp only [pendingFaults_advance]

theorem faultDetail_stopChan : (stopChan x hit now ch).faultDetail = if x.timedOut then some .wait else ch.faultDetail := by
  rw [stopChan, joined_eq]
  simp only [faultDetail_advance]

theorem faultAddress_stopChan : (stopChan x hit now ch).faultAddress = if x.timedOut then some x.sysAddr else ch.faultAddress := by
  rw [stopChan, joined_eq]
  simp only [faultAddress_advance]

theorem pendingSince_stopChan : (stopChan x hit now ch).pendingSince =
    if (decide (ch.currentCount = 0) && ch.notifyTerminal) || hit || x.timedOut then
      (if ch.causes.none then now else ch.pendingSince) else ch.pendingSince := by
  rw [stopChan, joined_eq]
  simp only [pendingSince_advance, causes_advance]

theorem blockOpen_stopChan : (stopChan x hit now ch).blockOpen =
    if ch.currentCount = 0 ∧ ch.service = .block then false else ch.blockOpen := by
  rw [stopChan, joined_eq]
  exact blockOpen_advance _ _

end

/-- A BLOCK channel at a terminal count reloaded (R80). -/
theorem afterTransfer_block {ch : Chan} (hs : ch.service = .block) :
    ch.afterTransfer true = if ch.request = true then ch else { ch with state := .ready } := by
  unfold Chan.afterTransfer
  split
  · next h => exact absurd (hs.symm.trans h) (by decide)
  · next h => exact absurd (hs.symm.trans h) (by decide)
  · cases ch.request <;> rfl
  · next h => exact absurd (hs.symm.trans h) (by decide)

/-- A transfer's end by its stages: the causes joined in `w`, the mask or the service mode, the boundary `b`, and the end of the
tenure or its next transfer in `t`. `raised` is the mask the transfer raises, `pending` the one that waits. -/
structure Course (x : Transfer) (s : State) (hit : Bool) (raised pending : Option MaskReason) (terminal : Bool) (w b t : State) :
    Prop where
  chan : bare w.chans[x.ch] = bare (stopChan x hit s.now s.chans[x.ch])
  link : PassesOk s → w.link = s.link
  boundary : bare b.chans[x.ch] = bare (stopped x raised pending terminal w).chans[x.ch]
  quiet : Quiet (stopped x raised pending terminal w) t
  onward : Onward b t
  waiting : (stopped x raised pending terminal w).chans[x.ch].state ≠ .serving →
    bare t.chans[x.ch] = bare (stopped x raised pending terminal w).chans[x.ch] ∧ t.arb.owner.isChan x.ch = false
  ends : terminal = true → t = b.endDmaTenure x.ch

theorem bare_advanced (s : State) (x : Transfer) (e : BusEnd) :
    bare (advanced x x.timedOut e s).chans[x.ch] = bare (s.chans[x.ch].advance x.sysAddr) := by
  rw [(quiet_advanced x x.timedOut e s).chans, chans_moved, if_pos rfl]

theorem now_advanced (s : State) (x : Transfer) (e : BusEnd) : (advanced x x.timedOut e s).now = s.now := by
  rw [(State.now_of_outer (quiet_advanced x x.timedOut e s).outer :), stored_frame]
  rfl

theorem quiet_end (s : State) (x : Transfer) (e : BusEnd) :
    Quiet (s.settleTransfer x x.timedOut e) (s.endTransfer x x.timedOut e) :=
  (end_of_boundary (P := Quiet) (fun h h' => h.after h') quiet_startTransfer quiet_endDmaTenure x x.timedOut e s).after
    (quiet_of_copied (copied_boundary x x.timedOut e s))

/-- At a terminal count no tenure goes on (R46). -/
theorem end_terminal (s : State) (x : Transfer) (e : BusEnd) (h0 : decide (s.chans[x.ch].currentCount = 0) = true) :
    s.endTransfer x x.timedOut e = (boundary x x.timedOut e s).endDmaTenure x.ch := by
  refine endTransfer_ends ?_
  unfold State.tenureGoesOn
  rw [h0]
  simp

theorem course (s : State) (x : Transfer) (e : BusEnd) : Course x s (hits x x.timedOut e s)
    (raisedReason x.timedOut (hits x x.timedOut e s) (decide (s.chans[x.ch].currentCount = 0) && !s.chans[x.ch].autoInit))
    s.chans[x.ch].maskPending (decide (s.chans[x.ch].currentCount = 0))
    (told x (decide (s.chans[x.ch].currentCount = 0) && s.chans[x.ch].notifyTerminal) (hits x x.timedOut e s) x.timedOut
      (advanced x x.timedOut e s))
    (boundary x x.timedOut e s) (s.endTransfer x x.timedOut e) := by
  refine ⟨?_, fun h => ?_, chan_boundary x x.timedOut e s, quiet_end s x e, onward_end x x.timedOut e s, end_waiting,
    end_terminal s x e⟩
  · rw [chan_told, bare_advanced, now_advanced, ← bare_joined]
    rfl
  · obtain ⟨hpasses, hlink⟩ := advanced_law x x.timedOut e h
    exact (link_told x _ _ _ hpasses).trans hlink

section
variable {x : Transfer} {s : State} {hit : Bool} {r p : Option MaskReason} {tc : Bool} {w b t : State}

theorem maskWaiters_stopChan (x : Transfer) (hit : Bool) (now : Time) (ch : Chan) :
    (stopChan x hit now ch).maskWaiters = ch.maskWaiters := by
  rw [stopChan, joined_eq]
  exact maskWaiters_advance _ _

/-- A channel that is masked has the bus no more, and the requests that waited for the mask are answered (R83, R86). -/
theorem Course.masks (h : Course x s hit r p tc w b t) {m : MaskReason} (hm : r = some m ∨ r = none ∧ p = some m) :
    bare t.chans[x.ch] = bare (masked (stopChan x hit s.now s.chans[x.ch]) m) ∧ t.arb.owner.isChan x.ch = false ∧
    (PassesOk s → s.chans[x.ch].maskWaiters.length ≤ s.link.reservations → ∃ more : List Report, t.link.reports =
      s.link.reports ++ (s.chans[x.ch].maskWaiters.map fun tag => .reply 0x99 tag .ok .empty) ++ more) := by
  obtain ⟨hw, hlink, -, hquiet, -, hwaiting, -⟩ := h
  rw [chan_stopped_mask hm] at hwaiting hquiet
  have hchan : bare (w.maskChan x.ch m).chans[x.ch] = bare (masked (stopChan x hit s.now s.chans[x.ch]) m) := by
    rw [chans_maskChan, if_pos rfl]
    exact congrArg (masked · m) hw
  have hstate : (w.maskChan x.ch m).chans[x.ch].state ≠ .serving := by
    rw [chans_maskChan, if_pos rfl]
    exact fun h => ChanState.noConfusion h
  obtain ⟨hbare, ho⟩ := hwaiting hstate
  refine ⟨hbare.trans hchan, ho, fun hp hlen => ?_⟩
  have hwl : w.link = s.link := hlink hp
  have hwaiters : w.chans[x.ch].maskWaiters = s.chans[x.ch].maskWaiters :=
    (congrArg Chan.maskWaiters hw :).trans (maskWaiters_stopChan _ _ _ _)
  obtain ⟨more, hmore⟩ := hquiet.calm.apart.2.2.1
  refine ⟨more, ?_⟩
  rw [hmore, reports_maskChan (by rw [hwaiters, hwl]; exact hlen), hwl, hwaiters]

/-- A BLOCK channel reloaded at its terminal count: its run is closed, and opens again with a grant alone (R80). -/
theorem Course.reloads (h : Course x s hit none none true w b t) (h0 : s.chans[x.ch].currentCount = 0)
    (hb : s.chans[x.ch].service = .block) :
    (s.chans[x.ch].request = false → t.chans[x.ch].state = .ready ∧ t.chans[x.ch].blockOpen = false) ∧
    (s.chans[x.ch].request = true → t.chans[x.ch].state = .serving →
      (t.chans[x.ch].blockOpen = true ↔ t.arb.owner = .dma x.ch false)) := by
  obtain ⟨hw, -, hboundary, -, -, hwaiting, hends⟩ := h
  have hserv : w.chans[x.ch].service = .block := by
    refine (congrArg Chan.service hw :).trans ?_
    rw [stopChan, joined_eq]
    exact (service_advance _ _).trans hb
  have hreq : w.chans[x.ch].request = s.chans[x.ch].request := by
    refine (congrArg Chan.request hw :).trans ?_
    rw [stopChan, joined_eq]
    exact request_advance _ _
  have hopen : w.chans[x.ch].blockOpen = false :=
    (congrArg Chan.blockOpen hw :).trans ((blockOpen_stopChan _ _ _ _).trans (if_pos ⟨h0, hb⟩))
  have hmode : (stopped x none none true w).chans[x.ch] =
      if s.chans[x.ch].request = true then w.chans[x.ch] else { w.chans[x.ch] with state := .ready } := by
    rw [← hreq, ← afterTransfer_block hserv]
    exact (State.chans_modChan ..).trans (if_pos rfl)
  rw [hmode] at hwaiting hboundary
  refine ⟨fun hrf => ?_, fun hrt hs => ?_⟩
  · rw [if_neg (by rw [hrf]; exact Bool.false_ne_true)] at hwaiting
    obtain ⟨hbare, -⟩ := hwaiting fun h => ChanState.noConfusion h
    exact ⟨(congrArg Chan.state hbare :), (congrArg Chan.blockOpen hbare :).trans hopen⟩
  · rw [if_pos hrt] at hboundary
    have hbs : b.chans[x.ch].service = .block := (congrArg Chan.service hboundary :).trans hserv
    have hbo : b.chans[x.ch].blockOpen = false := (congrArg Chan.blockOpen hboundary :).trans hopen
    have ht := hends rfl
    rw [State.endDmaTenure, State.grantPoint] at ht
    rw [ht] at hs ⊢
    exact blockOpen_grant 8 hbs hbo hs

theorem sameCauses_stopped (x : Transfer) (r p : Option MaskReason) (tc : Bool) (w : State) :
    SameCauses w.chans[x.ch] (stopped x r p tc w).chans[x.ch] := by
  unfold stopped
  split
  · rw [chans_maskChan, if_pos rfl]
    exact sameCauses_masked _ _
  · rw [chans_maskChan, if_pos rfl]
    exact sameCauses_masked _ _
  · rw [State.chans_modChan, if_pos rfl]
    exact sameCauses_afterTransfer _ _

theorem Course.causes (h : Course x s hit r p tc w b t) : SameCauses (stopChan x hit s.now s.chans[x.ch]) t.chans[x.ch] :=
  ((h.onward.causes x.ch).after (sameCauses_of_bare h.boundary)).after
    ((sameCauses_stopped x r p tc w).after (sameCauses_of_bare h.chan))

end

/-- With no room the regions stay as the stop leaves them, up to the end of the transfer. -/
theorem going_end {s : State} (x : Transfer) (e : BusEnd) (h : s.NoRoom) :
    Going (s.settleTransfer x x.timedOut e) (s.endTransfer x x.timedOut e) := by
  have h0 := (onward_end x x.timedOut e s).going
  rw [boundary_noRoom h] at h0
  exact h0.after (onward_runStoreWaits _).going

/-- A transfer with a cause demands the pass of its region (R87). -/
theorem caused_end {s : State} {x : Transfer} {e : BusEnd} {id : RegionId}
    (hany : ((decide (s.chans[x.ch].currentCount = 0) && s.chans[x.ch].notifyTerminal) || hits x x.timedOut e s || x.timedOut) = true)
    (hr : s.NoRoom) (hm : s.mirrorAt x.sysAddr = some id) :
    Caused x.ch id (advanced x x.timedOut e s) (s.endTransfer x x.timedOut e) := by
  have haddr : (advanced x x.timedOut e s).chans[x.ch].lastSystemAddress = x.sysAddr :=
    (congrArg Chan.lastSystemAddress (bare_advanced s x e) :).trans (lastSystemAddress_advance _ _)
  have hat : (advanced x x.timedOut e s).mirrorAt (advanced x x.timedOut e s).chans[x.ch].lastSystemAddress = some id := by
    rw [haddr, (marked_advanced x x.timedOut e s).mirror]
    exact hm
  have hgoing := going_end x e hr
  rw [settleTransfer_eq] at hgoing
  exact caused_going (caused_told hany hat) (going_told ..) (hgoing.after (going_stopped ..))

theorem stopFacts (s : State) (x : Transfer) (e : BusEnd) :
    StopFacts s x e (hits x x.timedOut e s) (s.endTransfer x x.timedOut e) where
  mask _ hm := (course s x e).masks hm
  run hr hp h0 hb := by
    have h := course s x e
    rw [hr, hp, decide_eq_true h0] at h
    exact h.reloads h0 hb
  causes := (course s x e).causes
  pass hany hr id hid := ⟨_, marked_advanced x x.timedOut e s, caused_end hany hr hid⟩

theorem hits_iff (x : Transfer) (out : Bool) (e : BusEnd) (s : State) : hits x out e s = true ↔
    s.chans[x.ch].kind = .fill ∧ x.ch.val < 4 ∧ out = false ∧ s.chans[x.ch].matchByte = some (s.lowLines e) := by
  unfold hits Chan.matches State.fillData isWord
  by_cases hw : 4 ≤ x.ch.val
  · have hn : ¬ x.ch.val < 4 := Nat.not_lt.mpr hw
    simp [hw, hn]
  · have hn : x.ch.val < 4 := Nat.not_le.mp hw
    cases out <;> simp [-Fin.getElem_fin, hw, hn, lowByte_zeroExtend]

theorem satInc_eq (n : Nat) : satInc 255 n = if n < 255 then n + 1 else 255 := rfl

theorem causes_none_iff (k : Causes) : k.none = true ↔ k.terminal = false ∧ k.matched = false ∧ k.fault = false := by
  simp [Causes.none, and_assoc]

/-- Settles O39: the reason in its order, the causes joined, the requests answered and the pass demanded. -/
theorem transferStopsMaskTheChannel : Obligations.TransferStopsMaskTheChannel := by
  intro s x e hin ho hout ch hit stop tld msk count
  obtain ⟨clocks, hexec⟩ := exec_transferEnd e hin ho
  rw [timesOut_of hout] at hexec
  have hfacts := stopFacts (s.cycleDone clocks) x e
  generalize hh : hits x x.timedOut e (s.cycleDone clocks) = h at hfacts
  have hhit : h = true ↔ hit := by
    rw [← hh, hits_iff]
    rfl
  clear hh
  generalize (s.cycleDone clocks).endTransfer x x.timedOut e = t at hexec hfacts
  obtain ⟨hmask, hrun, hcauses, hpass⟩ := hfacts
  have hlaw (hp : PassesOk s) : PassesOk (s.cycleDone clocks) := (keeps_cycleDone clocks s).passes hp
  have hchan : (s.cycleDone clocks).chans[x.ch] = ch := rfl
  have hlink : (s.cycleDone clocks).link = s.link := rfl
  have hnow : (s.cycleDone clocks).now = s.now := rfl
  rw [hchan, hnow] at hcauses
  rw [hchan] at hrun
  rw [hchan, hlink, hnow] at hmask
  have htold : (decide (ch.currentCount = 0) && ch.notifyTerminal) = true ↔ tld := by
    rw [Bool.and_eq_true, decide_eq_true_eq]
  have hstop : (decide (ch.currentCount = 0) && !ch.autoInit) = true ↔ stop := by
    rw [Bool.and_eq_true, decide_eq_true_eq, Bool.not_eq_true']
  have hany : ((decide (ch.currentCount = 0) && ch.notifyTerminal) || h || x.timedOut) = true ↔ tld ∨ hit ∨ x.timedOut = true := by
    rw [Bool.or_eq_true, Bool.or_eq_true, htold, hhit, or_assoc]
  have hf {b : Bool} {p : Prop} (hb : b = true ↔ p) (hp : ¬ p) : b = false := by
    rw [← Bool.not_eq_true, hb]
    exact hp
  have hfault (ht : x.timedOut = true) : raisedReason x.timedOut h (decide (ch.currentCount = 0) && !ch.autoInit) = some .fault := by
    rw [ht]
    rfl
  have hmatch (hh : hit) : raisedReason x.timedOut h (decide (ch.currentCount = 0) && !ch.autoInit) = some .matched := by
    rw [hh.2.2.1, hhit.mpr hh]
    rfl
  have hterm (ht : x.timedOut = false) (hh : ¬ hit) (hs : stop) :
      raisedReason x.timedOut h (decide (ch.currentCount = 0) && !ch.autoInit) = some .terminal := by
    rw [ht, hf hhit hh, hstop.mpr hs]
    rfl
  have hnone (ht : x.timedOut = false) (hh : ¬ hit) (hs : ¬ stop) :
      raisedReason x.timedOut h (decide (ch.currentCount = 0) && !ch.autoInit) = none := by
    rw [ht, hf hhit hh, hf hstop hs]
    rfl
  have hstate {m : MaskReason} (hb : bare t.chans[x.ch] = bare (masked (stopChan x h s.now ch) m)) :
      t.chans[x.ch].state = .masked ∧ t.chans[x.ch].maskReason = some m ∧ t.chans[x.ch].maskPending = none :=
    ⟨(congrArg Chan.state hb :), (congrArg Chan.maskReason hb :), (congrArg Chan.maskPending hb :)⟩
  have hsome (hm : msk) : ∃ m : MaskReason,
      raisedReason x.timedOut h (decide (ch.currentCount = 0) && !ch.autoInit) = some m ∨
      raisedReason x.timedOut h (decide (ch.currentCount = 0) && !ch.autoInit) = none ∧ ch.maskPending = some m := by
    by_cases ht : x.timedOut = true
    · exact ⟨_, .inl (hfault ht)⟩
    · by_cases hh : hit
      · exact ⟨_, .inl (hmatch hh)⟩
      · have ht' : x.timedOut = false := by simpa using ht
        by_cases hs : stop
        · exact ⟨_, .inl (hterm ht' hh hs)⟩
        · obtain hm | hm | hm | hm := hm
          · exact absurd hm ht
          · exact absurd hm hh
          · exact absurd hm hs
          · obtain ⟨m, hm⟩ := Option.ne_none_iff_exists'.mp hm
            exact ⟨m, .inr ⟨hnone ht' hh hs, hm⟩⟩
  have hcbare {m : MaskReason} (hb : bare t.chans[x.ch] = bare (masked (stopChan x h s.now ch) m)) :
      t.chans[x.ch].causes = (stopChan x h s.now ch).causes := (congrArg Chan.causes hb :)
  refine ⟨t, hexec, fun ht => ?fault, fun hh => ?hit, fun ht hh hs => ?terminal, fun ht hh hs r hr => ?pending, fun hm => ?masked,
    fun hm h0 hb => ?block, fun htl => ?told, fun htl => ?untold, fun hh => ?matched, fun hh => ?unmatched, fun ht => ?faults,
    fun ht hm => ?nofaults, fun ha => ?since, fun hm ha => ?sinceKept, fun ha hr id hid => ?pass⟩
  case fault => exact hstate (hmask _ (.inl (hfault ht))).1
  case hit => exact hstate (hmask _ (.inl (hmatch hh))).1
  case terminal => exact hstate (hmask _ (.inl (hterm ht hh hs))).1
  case pending => exact hstate (hmask r (.inr ⟨hnone ht hh hs, hr⟩)).1
  case masked =>
    obtain ⟨m, hm⟩ := hsome hm
    obtain ⟨hb, ho, hrep⟩ := hmask m hm
    refine ⟨(congrArg Chan.maskWaiters hb :), ho, fun hp => hrep (hlaw hp), (congrArg Chan.blockOpen hb :).trans ?_⟩
    exact blockOpen_stopChan x h s.now ch
  case block =>
    have ht : x.timedOut = false := by simpa using fun ht : x.timedOut = true => hm (.inl ht)
    exact hrun (hnone ht (fun hh => hm (.inr (.inl hh))) fun hs => hm (.inr (.inr (.inl hs))))
      (by_contra fun hp => hm (.inr (.inr (.inr hp)))) h0 hb
  case told =>
    rw [hcauses.terminal, hcauses.terminals, causes_stopChan, pendingTerminals_stopChan, htold.mpr htl]
    exact ⟨Bool.or_true _, satInc_eq _⟩
  case untold =>
    rw [hcauses.terminal, hcauses.terminals, causes_stopChan, pendingTerminals_stopChan, hf htold htl]
    exact ⟨Bool.or_false _, rfl⟩
  case matched =>
    rw [hcauses.matched, causes_stopChan, hhit.mpr hh]
    exact Bool.or_true _
  case unmatched =>
    rw [hcauses.matched, causes_stopChan, hf hhit hh]
    exact Bool.or_false _
  case faults =>
    have hb := (hmask _ (.inl (hfault ht))).1
    refine ⟨?_, (congrArg Chan.pendingFaults hb :).trans ?_, (congrArg Chan.faultDetail hb :).trans ?_,
      (congrArg Chan.faultAddress hb :).trans ?_⟩
    · rw [hcbare hb, causes_stopChan, ht]
      exact Bool.or_true _
    · refine (pendingFaults_stopChan x h s.now ch).trans ?_
      rw [ht]
      exact satInc_eq _
    · refine (faultDetail_stopChan x h s.now ch).trans ?_
      rw [ht]
      rfl
    · refine (faultAddress_stopChan x h s.now ch).trans ?_
      rw [ht]
      rfl
  case nofaults =>
    obtain ⟨m, hm⟩ := hsome hm
    have hb := (hmask m hm).1
    refine ⟨?_, (congrArg Chan.pendingFaults hb :).trans ?_, (congrArg Chan.faultDetail hb :).trans ?_,
      (congrArg Chan.faultAddress hb :).trans ?_⟩
    · rw [hcbare hb, causes_stopChan, ht]
      exact Bool.or_false _
    · refine (pendingFaults_stopChan x h s.now ch).trans ?_
      rw [ht]
      rfl
    · refine (faultDetail_stopChan x h s.now ch).trans ?_
      rw [ht]
      rfl
    · refine (faultAddress_stopChan x h s.now ch).trans ?_
      rw [ht]
      rfl
  case since =>
    have hn : (stopChan x h s.now ch).causes.none = false := by
      rw [causes_stopChan, ← Bool.not_eq_true, causes_none_iff]
      rintro ⟨h1, h2, h3⟩
      rw [Bool.or_eq_false_iff] at h1 h2 h3
      have := hany.mpr ha
      rw [h1.2, h2.2, h3.2] at this
      cases this
    rw [(hcauses.since hn).2, pendingSince_stopChan, hany.mpr ha, if_pos rfl]
    exact if_congr (causes_none_iff _) rfl rfl
  case sinceKept =>
    obtain ⟨m, hm⟩ := hsome hm
    refine (congrArg Chan.pendingSince (hmask m hm).1 :).trans ?_
    refine (pendingSince_stopChan x h s.now ch).trans ?_
    rw [hf hany ha]
    rfl
  case pass =>
    obtain ⟨m, hmk, hca⟩ := hpass (hany.mpr ha) hr id hid
    refine ⟨fun hq => hca.queued (.inl (hmk.queued id hq)), fun he hrun hno => ?_⟩
    obtain ⟨he', hr'⟩ := hmk.idle id he hrun fun hc => hno ⟨hc.1, id, hc.2⟩
    exact hca.empty he' hr'

end Sys2Proof.Proofs.TransferStops
end

section
/-! PROOFS. Tenures after a transfer (R44 to R46, R79, R80, R92 to R95), the region lookup (R95), and a master's release (R48, R81, R121). -/

open Sys2Proof Sys2Proof.Machine Sys2Proof.Proofs.MapLaws Sys2Proof.Proofs.PassLaws Sys2Proof.Proofs.Laws Sys2Proof.Proofs.Trickle
  Sys2Proof.Proofs.PassFrame Sys2Proof.Proofs.Grants Sys2Proof.Proofs.Refresh Sys2Proof.Proofs.Demands Sys2Proof.Proofs.SharedLines
  Sys2Proof.Proofs.Consequences Sys2Proof.Proofs.TransferEnds Sys2Proof.Proofs.TransferStops

namespace Sys2Proof.Proofs.Tenures

/-! ### The lookup (R95, R104) -/

theorem regionAt_none {s : State} {a : Nat} (h : ∀ r : RegionId, s.regions[r].cond = .active →
    ¬ (s.regions[r].fields.base ≤ a ∧ a < s.regions[r].fields.base + s.regions[r].fields.length)) : s.regionAt a = none := by
  refine List.find?_eq_none.mpr fun r _ hr => ?_
  simp only [RegionFields.contains, Bool.and_eq_true, decide_eq_true_eq] at hr
  exact h r hr.1 hr.2

/-- At most one ACTIVE entry contains an address (R104). -/
theorem regionAt_some {s : State} {a : Nat} (hok : RegionsOk s) {r : RegionId} (hr : s.regions[r].cond = .active)
    (hb : s.regions[r].fields.base ≤ a) (he : a < s.regions[r].fields.base + s.regions[r].fields.length) : s.regionAt a = some r := by
  have hheld {q : RegionId} (hq : s.regions[q].cond = .active) : s.regions[q].fields ∈ s.regions[q].held := by
    rw [Region.held, hq]
    exact List.mem_singleton.mpr rfl
  refine find_finRange_eq ?_ fun q hq => ?_
  · simp only [RegionFields.contains, Bool.and_eq_true, decide_eq_true_eq]
    exact ⟨hr, hb, he⟩
  · rw [← Bool.not_eq_true]
    intro hc
    simp only [RegionFields.contains, Bool.and_eq_true, decide_eq_true_eq] at hc
    obtain ⟨hqa, hqb, hqe⟩ := hc
    have hno := hok q r (ne_of_lt hq) _ (hheld hqa) _ (hheld hr)
    have : s.regions[q].fields.meets s.regions[r].fields = true := by
      simp only [RegionFields.meets, Bool.and_eq_true, decide_eq_true_eq]
      omega
    rw [hno] at this
    cases this

theorem lookup_of_none {s : State} {c : ChanId} {k : ChanKind} {a : Nat} (hk : k ≠ .verify) (h : s.regionAt a = none) :
    s.lookup c k a = .fault .openAddress := by
  cases k with
  | verify => exact absurd rfl hk
  | fill => simp only [State.lookup, h]
  | drain => simp only [State.lookup, h]

theorem lookup_of_some {s : State} {c : ChanId} {k : ChanKind} {a : Nat} {r : RegionId} (hk : k ≠ .verify) (h : s.regionAt a = some r) :
    s.lookup c k a = if c ∈ s.regions[r].fields.access then
      .target (if s.regions[r].fields.kind = .mirror then .mirror r else .card) else .fault .denied := by
  cases k with
  | verify => exact absurd rfl hk
  | fill =>
    simp only [State.lookup, h, List.contains_iff_mem]
    cases s.regions[r].fields.kind <;> rfl
  | drain =>
    simp only [State.lookup, h, List.contains_iff_mem]
    cases s.regions[r].fields.kind <;> rfl

/-! ### Tables in which no region is about to go -/

/-- Which regions there are, and their attributes, stay. -/
def SameTable (s t : State) : Prop := ∀ r : RegionId, t.regions[r].cond = s.regions[r].cond ∧ t.regions[r].fields = s.regions[r].fields

/-- An operation that leaves the table as it is where no region is DROPPING. -/
def Steady (s t : State) : Prop := (∀ r : RegionId, s.regions[r].cond ≠ .dropping) → SameTable s t

theorem Steady.refl (s : State) : Steady s s := fun _ _ => ⟨rfl, rfl⟩

theorem Steady.after {s t u : State} (h' : Steady t u) (h : Steady s t) : Steady s u := fun hd r =>
  have hst := h hd
  have htu := h' fun q => by rw [(hst q).1]; exact hd q
  ⟨(htu r).1.trans (hst r).1, (htu r).2.trans (hst r).2⟩

theorem Steady.ite {p : Prop} [Decidable p] {s t u : State} (h : p → Steady s t) (h' : ¬p → Steady s u) :
    Steady s (if p then t else u) := by
  split
  · next hp => exact h hp
  · next hp => exact h' hp

theorem Steady.each {α : Type} (f : α → State → State) (hf : ∀ (x : α) (s : State), Steady s (f x s)) (xs : List α)
    (s : State) : Steady s (s.each xs f) := by
  induction xs generalizing s with
  | nil => exact .refl s
  | cons x xs ih => exact (ih _).after (hf x s)

theorem steady_of_eq {s t : State} (h : t.regions = s.regions) : Steady s t := fun _ r => by rw [h]; exact ⟨rfl, rfl⟩

theorem steady_endPass (id : RegionId) (s : State) : Steady s (s.endPass id) := fun hd r => by
  obtain ⟨ws, hr⟩ := regions_endPass_kept (hd id)
  rw [hr, getElem_set_fin]
  split
  · next h => subst h; exact ⟨rfl, rfl⟩
  · exact ⟨rfl, rfl⟩

/-- A FILL notice placed: its entries have left the region's ship queue, and the region the head of the fill line (R127). -/
def noticed (id : RegionId) (s : State) : State :=
  let r := s.regions[id]
  let packed := packEntries 2 none [] r.ship.entries
  (State.modShip { s with fillLine := s.fillLine.tail } id fun q =>
    q.take (r.fields.age.getD 0) (r.ship.entries.take (r.ship.entries.length - packed.2.length)) packed.2).notice
    (.fill id (packed.1.map (Span.piece s.store r.fields.base)))

theorem admitFill_eq (id : RegionId) (s : State) : s.admitFill id =
    if (packEntries 2 none [] s.regions[id].ship.entries).2.isEmpty then (noticed id s).endPass id
    else { noticed id s with fillLine := (noticed id s).fillLine ++ [id] } := rfl

theorem steady_noticed (id : RegionId) (s : State) : Steady s (noticed id s) := fun _ r => by
  unfold noticed
  rw [State.notice_regions, regions_modShip]
  split
  · next hr => subst hr; exact ⟨rfl, rfl⟩
  · exact ⟨rfl, rfl⟩

theorem steady_admitFill (id : RegionId) (s : State) : Steady s (s.admitFill id) := by
  rw [admitFill_eq]
  exact .ite (fun _ => (steady_endPass id _).after (steady_noticed id s)) fun _ => steady_noticed id s

theorem steady_admitFills (n : Nat) (s : State) : Steady s (State.admitFills n s) := by
  induction n generalizing s with
  | zero => exact .refl s
  | succ n ih =>
    simp only [State.admitFills]
    split
    · split
      · exact (ih _).after (steady_admitFill _ s)
      · exact .refl s
    · exact .refl s

theorem steady_advanced (x : Transfer) (out : Bool) (e : BusEnd) (s : State) : Steady s (advanced x out e s) := fun _ =>
  (marked_advanced x out e s).same

theorem lookup_congr {s t : State} (h : SameTable s t) (c : ChanId) (k : ChanKind) (a : Nat) : t.lookup c k a = s.lookup c k a := by
  have hat : t.regionAt a = s.regionAt a := by
    simp only [State.regionAt, (h _).1, (h _).2]
  cases k with
  | verify => rfl
  | fill => simp only [State.lookup, hat, (h _).2]
  | drain => simp only [State.lookup, hat, (h _).2]

/-! ### After a transfer that raised nothing (R79, R80) -/

/-- The transfers shown: one more of a running count, with nothing that masks the channel. -/
structure Plain (s : State) (x : Transfer) : Prop where
  cascade : s.chans[x.ch].service ≠ .cascade
  count : s.chans[x.ch].currentCount ≠ 0
  value : s.chans[x.ch].matchByte = none
  pending : s.chans[x.ch].maskPending = none
  serving : s.chans[x.ch].state = .serving
  table : ∀ r : RegionId, s.regions[r].cond ≠ .dropping

theorem afterTransfer_more {ch : Chan} (h : ch.service ≠ .cascade) :
    ch.afterTransfer false = if ch.service = .block ∨ ch.request = true then ch else { ch with state := .ready } := by
  unfold Chan.afterTransfer
  split
  · next hs => simp [hs]
  · next hs => simp [hs]
  · next hs => simp [hs]
  · next hs => exact absurd hs h

/-- What stands at the boundary of such a transfer. -/
structure Boundary (s : State) (x : Transfer) (y : State) : Prop where
  outer : y.outer = { s with arb := { s.arb with burstCount := s.arb.burstCount + 1 } }.outer
  chan : bare y.chans[x.ch] = bare ((s.chans[x.ch].advance x.sysAddr).afterTransfer false)
  others : ∀ d : ChanId, d ≠ x.ch → bare y.chans[d] = bare s.chans[d]
  table : SameTable s y

theorem boundary_plain {s : State} {x : Transfer} (e : BusEnd) (h : Plain s x) : Boundary s x (boundary x false e s) := by
  have hadv := quiet_advanced x false e s
  have hd : decide (s.chans[x.ch].currentCount = 0) = false := decide_eq_false h.count
  have hh : hits x false e s = false := by
    rw [← Bool.not_eq_true, hits_iff]
    rintro ⟨-, -, -, hm⟩
    rw [h.value] at hm
    cases hm
  have hset : s.settleTransfer x false e = (advanced x false e s).modChan x.ch (·.afterTransfer false) := by
    rw [settleTransfer_eq, hd, hh, h.pending]
    rfl
  have hcop := copied_boundary x false e s
  have hst : Steady (s.settleTransfer x false e) (boundary x false e s) := by
    refine (steady_admitFills 33 _).after (steady_of_eq ?_)
    rw [runStoreWaits_eq]
  have htable : SameTable s (boundary x false e s) := by
    refine Steady.after hst (Steady.after ?_ (steady_advanced x false e s)) h.table
    rw [hset]
    exact steady_of_eq rfl
  have hch := chans_moved x (s.fillData x.ch false e) s
  have hout : (moved x (stored x (s.fillData x.ch false e) s)).outer =
      { s with arb := { s.arb with burstCount := s.arb.burstCount + 1 } }.outer := by
    rw [stored_frame]
    rfl
  generalize moved x (stored x (s.fillData x.ch false e) s) = v at hadv hch hout
  generalize advanced x false e s = a at hadv hset
  rw [hset] at hcop
  generalize boundary x false e s = y at hcop htable
  have hmod (d : ChanId) := State.chans_modChan a x.ch d (·.afterTransfer false)
  have hbareAfter (ch : Chan) : bare (ch.afterTransfer false) = (bare ch).afterTransfer false := by
    unfold Chan.afterTransfer bare
    dsimp only
    split <;> first | rfl | (split <;> rfl)
  refine ⟨hcop.outer.trans (hadv.outer.trans hout), ?_, fun d hd => ?_, htable⟩
  · rw [hcop.chans, hmod, if_pos rfl, hbareAfter, hadv.chans, hch, if_pos rfl, ← hbareAfter]
  · rw [hcop.chans, hmod, if_neg hd, hadv.chans, hch, if_neg hd]

/-- The state in which the grant after a tenure's end is made: yield is set where the tenure used its cap with a lower class waiting (R45). -/
def ended (c : ChanId) (y : State) : State := y.modArb fun a => { a with
  yield := a.yield || (decide ((if y.chans[c].service = .single then 1 else y.arb.burstCap) ≤ a.burstCount) && y.lowerClaim) }

theorem endDmaTenure_eq (c : ChanId) (y : State) : y.endDmaTenure c = (ended c y).grantPoint := rfl

/-- What the grant after a tenure sees, in terms of the state before the transfer ended. -/
structure Ending (s : State) (x : Transfer) (y z : State) : Prop where
  owed : z.arb.owed = s.arb.owed
  row : z.arb.row = s.arb.row
  bus : z.bus = s.bus
  timed : z.timedClaims = s.timedClaims
  link : z.linkClaims = s.linkClaims
  census : z.censusClaims = s.censusClaims
  lower : z.lowerClaim = s.lowerClaim
  lane : z.lane = s.lane
  queue : z.queue = s.queue
  entry : ∀ r : Run, z.runEntry r = s.runEntry r
  chans : z.chans = y.chans
  regions : z.regions = y.regions
  yield : z.arb.yield = true ↔ s.arb.yield = true ∨
    ((s.chans[x.ch].service = .single ∨ s.arb.burstCap ≤ s.arb.burstCount + 1) ∧ s.lowerClaim = true)

theorem ending_of {s y : State} {x : Transfer}
    (hout : y.outer = { s with arb := { s.arb with burstCount := s.arb.burstCount + 1 } }.outer)
    (hs : y.chans[x.ch].service = s.chans[x.ch].service) : Ending s x y (ended x.ch y) := by
  have harb : y.arb = { s.arb with burstCount := s.arb.burstCount + 1 } := (State.arb_of_outer hout :)
  have hqueue : y.queue = s.queue := (State.queue_of_outer hout :)
  have hlane : y.lane = s.lane := (congrArg (fun o => o.1.2.2.2.2.2.2.2.2.1) hout :)
  have htimers : y.timers = s.timers := (State.timers_of_outer hout :)
  have hcensus : y.census = s.census := (State.census_of_outer hout :)
  have htimed : y.timedClaims = s.timedClaims := by rw [State.timedClaims, hlane]; rfl
  have hlink : y.linkClaims = s.linkClaims := by rw [State.linkClaims, hqueue]; rfl
  have hscan : y.censusClaims = s.censusClaims := by rw [State.censusClaims, hcensus]; rfl
  have hlower : y.lowerClaim = s.lowerClaim := by rw [State.lowerClaim, htimed, hlink, hscan, harb]; rfl
  refine ⟨(congrArg Arbiter.owed harb :), (congrArg Arbiter.row harb :), (State.bus_of_outer hout :), htimed, hlink, hscan, hlower, hlane, hqueue,
    fun r => ?_, rfl, rfl, ?_⟩
  · show y.runEntry r = _
    rw [State.runEntry, htimers]
    rfl
  · show (y.arb.yield || (decide ((if y.chans[x.ch].service = .single then 1 else y.arb.burstCap) ≤ y.arb.burstCount) && y.lowerClaim)) = true ↔ _
    rw [hs, hlower, harb, Bool.or_eq_true, Bool.and_eq_true, decide_eq_true_eq]
    by_cases hsingle : s.chans[x.ch].service = .single
    · rw [if_pos hsingle]
      simp [-Fin.getElem_fin, hsingle]
    · rw [if_neg hsingle]
      simp [-Fin.getElem_fin, hsingle]

/-- A transfer's settings and data are those of the state and of the channel's kind and count. -/
theorem starting_congr {s t : State} {c : ChanId} {ch ch' : Chan} (a : Nat) (tg : Target) (m : List Host.Cell) (hb : t.bus = s.bus)
    (hk : ch.kind = ch'.kind) (hc : ch.currentCount = ch'.currentCount) : t.starting c ch a tg m = s.starting c ch' a tg m := by
  simp only [State.starting, hb, hk, hc]

/-- What the grant after a plain transfer sees of the channel. -/
structure Waiting (s : State) (x : Transfer) (y : State) : Prop where
  kind : y.chans[x.ch].kind = s.chans[x.ch].kind
  service : y.chans[x.ch].service = s.chans[x.ch].service
  state : y.chans[x.ch].state =
    if s.chans[x.ch].service = .block ∨ s.chans[x.ch].request = true then .serving else .ready

theorem waiting_of_boundary {s : State} {x : Transfer} {y : State} (h : Plain s x) (hb : Boundary s x y) : Waiting s x y := by
  have hadv := advance_more x.sysAddr h.count
  have hafter := afterTransfer_more (ch := s.chans[x.ch].advance x.sysAddr) (by rw [hadv]; exact h.cascade)
  have hchan := hb.chan
  rw [hafter] at hchan
  have hcond : ((s.chans[x.ch].advance x.sysAddr).service = .block ∨ (s.chans[x.ch].advance x.sysAddr).request = true) =
      (s.chans[x.ch].service = .block ∨ s.chans[x.ch].request = true) := by rw [hadv]
  simp only [hcond] at hchan
  refine ⟨(congrArg Chan.kind hchan :).trans ?_, (congrArg Chan.service hchan :).trans ?_, (congrArg Chan.state hchan :).trans ?_⟩
  · rw [hadv]; split <;> rfl
  · rw [hadv]; split <;> rfl
  · rw [hadv]; split
    · exact h.serving
    · rfl

/-- The tenure goes on exactly under BLOCK, or DEMAND with the request asserted, below its cap and with no urgent refresh (R44, R46). -/
theorem goesOn_iff {s : State} {x : Transfer} {y : State} (h : Plain s x) (hb : Boundary s x y) :
    y.tenureGoesOn x.ch false = true ↔
      (s.chans[x.ch].service = .block ∨ (s.chans[x.ch].service = .demand ∧ s.chans[x.ch].request = true)) ∧
        s.arb.burstCount + 1 < s.arb.burstCap ∧ s.arb.owed < 4 := by
  obtain ⟨-, hserv, hstate⟩ := waiting_of_boundary h hb
  have harb : y.arb = { s.arb with burstCount := s.arb.burstCount + 1 } := (State.arb_of_outer hb.outer :)
  unfold State.tenureGoesOn
  rw [hserv, hstate, harb]
  by_cases hblock : s.chans[x.ch].service = .block
  · simp [-Fin.getElem_fin, hblock]
  · by_cases hreq : s.chans[x.ch].request = true
    · simp [-Fin.getElem_fin, hblock, hreq]
      exact and_assoc
    · simp [-Fin.getElem_fin, hblock, hreq]

/-- The bus granted to refresh (R51). -/
theorem grantPoint_refresh {z : State} (h : z.pick.1 = some .refresh) : z.grantPoint = { z with
    arb := { z.arb with owner := .refresh, yield := z.pick.2 }
    inFlight := .refresh ⟨z.arb.row, z.bus.wait8mem, z.bus.clock⟩ } := grant_refresh 7 h

theorem owner_grantPoint_timed {z : State} {r : Run} {rest : List Run} (h : z.pick.1 = some (.timed r.timer)) (hl : z.lane = r :: rest)
    (he : z.runEntry r ≠ none) : z.grantPoint.arb.owner = .timed r.timer ∧ z.grantPoint.arb.yield = z.pick.2 := by
  obtain ⟨⟨en, op⟩, he⟩ := Option.ne_none_iff_exists'.mp he
  obtain ⟨-, hgrants, -⟩ := grantsFollowTheOrder
  obtain ⟨-, -, htimed, -⟩ := hgrants z
  rw [htimed _ r rest en op h hl he]
  exact ⟨rfl, rfl⟩

theorem owner_grantPoint_link {z : State} {b : Batch} {rest : List Batch} (h : z.pick.1 = some .link) (hq : z.queue = b :: rest)
    (he : b.entry ≠ none) : z.grantPoint.arb.owner = .link ∧ z.grantPoint.arb.yield = z.pick.2 := by
  obtain ⟨⟨en, op⟩, he⟩ := Option.ne_none_iff_exists'.mp he
  obtain ⟨-, hgrants, -⟩ := grantsFollowTheOrder
  obtain ⟨-, -, -, hlink, -⟩ := hgrants z
  rw [hlink b rest en op h hq he]
  exact ⟨rfl, rfl⟩

theorem owner_grantPoint_census {z : State} (h : z.pick.1 = some .census) :
    z.grantPoint.arb.owner = .census ∧ z.grantPoint.arb.yield = z.pick.2 := by
  rw [show z.grantPoint = _ from grant_census 7 h]
  exact ⟨rfl, rfl⟩

/-- With yield set and a claim of class 3 to 6 waiting, the first of those has the bus and yield is cleared (R45). -/
theorem pick_yielded {z : State} (ho : z.arb.owed < 4) (hy : z.arb.yield = true) (hl : z.lowerClaim = true) :
    ∃ k, z.pick = (some k, false) ∧ (1 ≤ z.arb.owed → k = .refresh) ∧
      (z.arb.owed = 0 → (∀ t, z.timedClaims = some t → k = .timed t) ∧
        (z.timedClaims = none → (z.linkClaims = true → k = .link) ∧ (z.linkClaims = false → k = .census))) := by
  obtain ⟨k, hk, hfacts⟩ := lowerPick_of_claim ho hl
  refine ⟨k, ?_, hfacts⟩
  rw [pick_lower_first ho hy, hk]
  rfl

/-- With yield clear the SERVING channel of lowest number has the bus: a master, or a VERIFY channel, whose address never faults. -/
theorem grantPoint_channel {z : State} {d : ChanId} (ho : z.arb.owed < 4) (hy : z.arb.yield = false) (hs : z.chans[d].state = .serving)
    (hmin : ∀ d' : ChanId, d' < d → z.chans[d'].state ≠ .serving) :
    (z.chans[d].service = .cascade → z.grantPoint.arb.owner = .dma d true) ∧
      (z.chans[d].service ≠ .cascade → z.chans[d].kind = .verify →
        z.grantPoint.arb.owner = .dma d false ∧ z.grantPoint.arb.burstCount = 0 ∧ z.grantPoint.arb.burstCap = z.bus.burst) := by
  have hp : z.pick.1 = some (.dma d) := by
    rw [pick_channels_first ho hy, State.dmaPick, servingChan_eq hs hmin]
    rfl
  refine ⟨fun hc => ?_, fun hc hk => ?_⟩
  · rw [show z.grantPoint = _ from grant_master 7 hp hc]
    rfl
  · rw [grantPoint_target hp hc (tg := .nothing) (by rw [hk]; rfl)]
    exact ⟨rfl, rfl, rfl⟩

/-! ### A master's release (R48, R121) -/

theorem mem_rankInsert (rank : Nat → Nat) (x y : RegionId) (xs : List RegionId) :
    y ∈ rankInsert rank x xs ↔ y = x ∨ y ∈ xs := by
  induction xs with
  | nil => simp [rankInsert]
  | cons z zs ih =>
    unfold rankInsert
    split
    · simp
    · simp only [List.mem_cons, ih]
      tauto

theorem mem_foldr_rankInsert (rank : Nat → Nat) (y : RegionId) (xs : List RegionId) :
    y ∈ xs.foldr (rankInsert rank) [] ↔ y ∈ xs := by
  induction xs with
  | nil => simp
  | cons x xs ih => rw [List.foldr_cons, mem_rankInsert, ih, List.mem_cons]

/-- A region's pass runs, and where none ran before the region stands in the fill line. -/
def Shipped (s : State) (r : RegionId) (t : State) : Prop :=
  t.regions[r].ship.running = true ∧ (s.regions[r].ship.running = false → r ∈ t.fillLine)

theorem shipped_going {s t u : State} {r : RegionId} (h : Shipped s r t) (hg : Going t u) : Shipped s r u :=
  ⟨(hg.runs r h.1).1, fun hr => hg.line r (h.2 hr)⟩

theorem shipped_trigger {s : State} {r : RegionId} (hm : s.regions[r].isMirror = true) (he : s.regions[r].ship.entries ≠ []) :
    Shipped s r (s.trigger r) := by
  cases hr : s.regions[r].ship.running with
  | true =>
    rw [trigger_running hr]
    exact ⟨hr, fun h => absurd (hr.symm.trans h) (by decide)⟩
  | false =>
    rw [trigger_begins hm hr he]
    refine ⟨?_, fun _ => List.mem_append_right _ (List.mem_singleton.mpr rfl)⟩
    exact (congrArg (fun g : Region => g.ship.running) (getElem_set_same _ _ _) :)

theorem shipped_each_trigger {ids : List RegionId} {s : State} {r : RegionId} (hr : r ∈ ids) (hm : s.regions[r].isMirror = true)
    (he : s.regions[r].ship.entries ≠ []) : Shipped s r (s.each ids State.trigger) := by
  induction ids generalizing s with
  | nil => cases hr
  | cons id ids ih =>
    rw [State.each_cons]
    by_cases hid : r = id
    · subst hid
      exact shipped_going (shipped_trigger hm he) (going_each_trigger ids _)
    · have hg := going_trigger id s
      have hk := hg.kept r he
      obtain ⟨hrun, hline⟩ := ih (s := s.trigger id) ((List.mem_cons.mp hr).resolve_left hid) (by rw [hk]; exact hm)
        (by rw [hk]; exact he)
      refine ⟨hrun, fun hf => ?_⟩
      cases hrt : (s.trigger id).regions[r].ship.running with
      | false => exact hline hrt
      | true =>
        have hsame : (s.trigger id).regions[r] = s.regions[r] := by
          unfold State.trigger
          split
          · exact (beginPass_facts id s).1 r hid
          · rfl
        rw [hsame, hf] at hrt
        cases hrt

theorem going_arbitrate (s : State) : Going s s.arbitrate := .ite (fun _ => (onward_grantPoint s).going) fun _ => .refl s

/-- Each region a master wrote has its pass when its request falls. -/
theorem syncRequests_ships {s : State} {c : ChanId} (ho : s.arb.owner = .dma c true) (h : s.requestLevel c = false) :
    ∀ r ∈ s.written, s.regions[r].isMirror = true → s.regions[r].ship.entries ≠ [] →
      s.syncRequests.regions[r].ship.running = true ∧ (s.regions[r].ship.running = false → r ∈ s.syncRequests.fillLine) := by
  intro r hr hm he
  rw [syncRequests_release ho h, masterRelease_eq]
  have hf : (followed s).regions = s.regions ∧ (followed s).written = s.written := by rw [followed_eq]; exact ⟨rfl, rfl⟩
  obtain ⟨hregs, hwr⟩ := hf
  generalize followed s = u at hregs hwr
  have hon : Shipped u r (State.handOn { u with chans := u.chans.set c (releasedChan u.chans[c]) }) := by
    refine shipped_each_trigger (s := { u with chans := u.chans.set c (releasedChan u.chans[c]), written := [], free := u.free + 1 })
      ?_ (by rw [← hregs] at hm; exact hm) (by rw [← hregs] at he; exact he)
    exact (mem_foldr_rankInsert _ _ _).mpr (hwr ▸ hr)
  have hall := shipped_going (shipped_going hon (onward_grantPoint _).going) (going_arbitrate _)
  obtain ⟨hrun, hline⟩ := hall
  exact ⟨hrun, fun h => hline (by rw [hregs]; exact h)⟩

/-- A fault's mark reads nothing of the passes awaited. -/
theorem bare_faulted_congr {p q : Chan} {now : Time} {d : FaultDetail} {a : Nat} (h : bare p = bare q) :
    bare (masked (p.addCause now (.fault d a)) .fault) = bare (masked (q.addCause now (.fault d a)) .fault) := by
  have hx (z : Chan) : bare (masked (z.addCause now (.fault d a)) .fault) = masked ((bare z).addCause now (.fault d a)) .fault := rfl
  rw [hx, hx, h]

/-- A master's tenure ends when its request falls (R48, R81, R121). -/
theorem exec_masterFalls {s : State} {i : SlotId} {c : ChanId} (ho : s.arb.owner = .dma c true)
    (hothers : ∀ j : SlotId, j ≠ i → s.slots[j].closed = true → c ∉ s.drives[j].requests) :
    ∃ t : State, exec (.requestLevelChange i c false) s = .next t ∧ t.arb.owner.isChan c = false ∧ t.written = [] ∧
      t.chans[c].request = false ∧ t.chans[c].program = s.chans[c].program ∧
      (s.chans[c].maskPending = none → t.chans[c].state = .ready) ∧
      (∀ r : MaskReason, s.chans[c].maskPending = some r → t.chans[c].state = .masked ∧
        t.chans[c].maskReason = some r ∧ t.chans[c].maskPending = none) ∧
      (∀ r ∈ s.written, s.regions[r].isMirror = true → s.regions[r].ship.entries ≠ [] →
        t.regions[r].ship.running = true ∧ (s.regions[r].ship.running = false → r ∈ t.fillLine)) := by
  have hdown : (withRequests i (setRemove c s.drives[i].requests) s).requestLevel c = false := by
    rw [Bool.eq_false_iff, Ne, requestLevel_withRequests]
    rintro (⟨-, hc⟩ | ⟨j, hji, hj, hc⟩)
    · exact ((mem_setRemove _ _ _).mp hc).2 rfl
    · exact hothers j hji hj hc
  have hexec : exec (.requestLevelChange i c false) s =
      .next (withRequests i (setRemove c s.drives[i].requests) s).syncRequests := exec_requestLevelChange i c false s
  have hrel := released_syncRequests (s := withRequests i (setRemove c s.drives[i].requests) s) ho hdown
  have hreq := request_syncRequests (withRequests i (setRemove c s.drives[i].requests) s) c
  have hcalm := (State.calm_syncRequests (withRequests i (setRemove c s.drives[i].requests) s)).apart
  have hship := syncRequests_ships (s := withRequests i (setRemove c s.drives[i].requests) s) ho hdown
  generalize (withRequests i (setRemove c s.drives[i].requests) s).syncRequests = t at hexec hrel hreq hcalm hship
  exact ⟨t, hexec, hrel.owner, hrel.written, hreq.trans hdown, hcalm.2.1 c, hrel.ready, hrel.masked, hship⟩

/-- The tenure goes on: under BLOCK or an asserted DEMAND, below its cap, with no urgent refresh (R44, R46). -/
def Goes (s : State) (x : Transfer) : Prop :=
  (s.chans[x.ch].service = .block ∨ (s.chans[x.ch].service = .demand ∧ s.chans[x.ch].request = true)) ∧
    s.arb.burstCount + 1 < s.arb.burstCap ∧ s.arb.owed < 4

/-- The tenure has used its cap (R45). -/
def Spent (s : State) (x : Transfer) : Prop := s.chans[x.ch].service = .single ∨ s.arb.burstCap ≤ s.arb.burstCount + 1

/-- The end of a plain transfer: what its boundary `y` leaves, and what follows it. -/
structure PlainEnd (s : State) (x : Transfer) (y t : State) : Prop where
  bus : y.bus = s.bus
  now : y.now = s.now
  arb : y.arb = { s.arb with burstCount := s.arb.burstCount + 1 }
  lookup : ∀ (k : ChanKind) (b : Nat), y.lookup x.ch k b = s.lookup x.ch k b
  waiting : Waiting s x y
  ending : Ending s x y (ended x.ch y)
  others : ∀ d : ChanId, d ≠ x.ch → bare y.chans[d] = bare s.chans[d]
  keep : Goes s x → bare y.chans[x.ch] = bare (s.chans[x.ch].advance x.sysAddr)
  starts : Goes s x → t = if (y.startTransfer x.ch).2 then (y.startTransfer x.ch).1 else (y.startTransfer x.ch).1.endDmaTenure x.ch
  ends : ¬ Goes s x → t = (ended x.ch y).grantPoint

theorem exec_plain {s : State} {x : Transfer} (e : BusEnd) (hin : s.inFlight = .transfer x) (ho : s.orphan = false)
    (hto : x.timedOut = false) (hheld : s.readyHeld x.switched e = 0) (h : Plain s x) :
    ∃ y t : State, exec (.transferEnd e) s = .next t ∧ PlainEnd s x y t := by
  obtain ⟨clocks, hexec⟩ := exec_transferEnd e hin ho
  rw [timesOut_of (.inl hheld), hto] at hexec
  have hplain : Plain (s.cycleDone clocks) x := ⟨h.cascade, h.count, h.value, h.pending, h.serving, h.table⟩
  have hb := boundary_plain e hplain
  have hw := waiting_of_boundary hplain hb
  have hgoes := goesOn_iff hplain hb
  have hstarts := endTransfer_goes (x := x) (out := false) (e := e) (s := s.cycleDone clocks)
  have hends := endTransfer_ends (x := x) (out := false) (e := e) (s := s.cycleDone clocks)
  have hd : decide ((s.cycleDone clocks).chans[x.ch].currentCount = 0) = false := decide_eq_false h.count
  rw [hd] at hstarts hends
  obtain ⟨hout, hchan, hothers, htab⟩ := hb
  generalize boundary x false e (s.cycleDone clocks) = y at hout hchan hothers htab hw hgoes hstarts hends
  generalize (s.cycleDone clocks).endTransfer x false e = t at hexec hstarts hends
  have hgoes' : y.tenureGoesOn x.ch false = true ↔ Goes s x := hgoes
  have hz := ending_of hout hw.service
  refine ⟨y, t, hexec, (State.bus_of_outer hout :), (State.now_of_outer hout :), (State.arb_of_outer hout :), fun k b => lookup_congr htab _ k b,
    ⟨hw.kind, hw.service, hw.state⟩, ⟨hz.owed, hz.row, hz.bus, hz.timed, hz.link, hz.census, hz.lower, hz.lane, hz.queue,
      hz.entry, hz.chans, hz.regions, hz.yield⟩, hothers, fun hg => ?_, fun hg => hstarts (hgoes'.mpr hg), fun hg => ?_⟩
  · have hadv := advance_more x.sysAddr h.count
    have hcond : (s.chans[x.ch].advance x.sysAddr).service = .block ∨ (s.chans[x.ch].advance x.sysAddr).request = true := by
      rw [hadv]
      exact hg.1.imp_right And.right
    exact hchan.trans (congrArg bare ((afterTransfer_more (ch := s.chans[x.ch].advance x.sysAddr) (by rw [hadv]; exact h.cascade)).trans (if_pos hcond)))
  · rw [hends (by rw [← Bool.not_eq_true, hgoes']; exact hg)]
    rfl

section
variable {s y t : State} {x : Transfer}

variable {ch' : Chan}

theorem PlainEnd.address (h : PlainEnd s x y t) (hch : s.chans[x.ch].advance x.sysAddr = ch') (hg : Goes s x) :
    y.chans[x.ch].presentAddress x.ch = ch'.presentAddress x.ch :=
  (congrArg (Chan.presentAddress x.ch) ((h.keep hg).trans (congrArg bare hch)) :)

/-- The next transfer starts (R44, R92). -/
theorem PlainEnd.target (h : PlainEnd s x y t) (hch : s.chans[x.ch].advance x.sysAddr = ch') (hg : Goes s x) {tg : Target}
    (hl : s.lookup x.ch s.chans[x.ch].kind (ch'.presentAddress x.ch) = .target tg) :
    t.chans[x.ch].state = .serving ∧ t.arb = { s.arb with burstCount := s.arb.burstCount + 1 } ∧
      t.inFlight = .transfer (s.starting x.ch ch'
        (ch'.presentAddress x.ch) tg t.store) := by
  have hkeep := (h.keep hg).trans (congrArg bare hch)
  have hstart := startTransfer_target (s := y) (c := x.ch) (tg := tg) (by rw [h.lookup, h.waiting.kind, h.address hch hg]; exact hl)
  have ht : t = { y with inFlight := .transfer (y.newTransfer x.ch tg) } := by
    rw [h.starts hg, hstart]
    rfl
  rw [ht]
  refine ⟨h.waiting.state.trans (if_pos (hg.1.imp_right And.right)), h.arb, ?_⟩
  show InFlight.transfer (y.newTransfer x.ch tg) = _
  rw [newTransfer_eq, h.address hch hg]
  exact congrArg _ (starting_congr _ _ _ h.bus (congrArg Chan.kind hkeep :) (congrArg Chan.currentCount hkeep :))

/-- The next transfer's address faults: the channel is masked with no cycle (R95). -/
theorem PlainEnd.fault (h : PlainEnd s x y t) (hch : s.chans[x.ch].advance x.sysAddr = ch') (hg : Goes s x) {d : FaultDetail}
    (hl : s.lookup x.ch s.chans[x.ch].kind (ch'.presentAddress x.ch) = .fault d) :
    t.chans[x.ch].Faulted s.now ch' d (ch'.presentAddress x.ch) ∧
      t.chans[x.ch].program = ch'.program ∧ t.arb.owner.isChan x.ch = false := by
  have hkeep := (h.keep hg).trans (congrArg bare hch)
  have hstart := startTransfer_fault (s := y) (c := x.ch) (d := d) (by rw [h.lookup, h.waiting.kind, h.address hch hg]; exact hl)
  have hf := faultedStart x.ch d (y.chans[x.ch].presentAddress x.ch) y
  have ht : t = ((y.addCause x.ch (.fault d (y.chans[x.ch].presentAddress x.ch))).maskChan x.ch .fault).endDmaTenure x.ch := by
    rw [h.starts hg, hstart]
    rfl
  rw [endDmaTenure_eq] at ht
  generalize (y.addCause x.ch (.fault d (y.chans[x.ch].presentAddress x.ch))).maskChan x.ch .fault = u at hf ht
  have hstate : u.chans[x.ch].state ≠ .serving := by
    rw [show u.chans[x.ch].state = .masked from (congrArg Chan.state hf.chan :)]
    decide
  obtain ⟨hbare, howner⟩ := (granted_grantPoint (ended x.ch u)).waiting x.ch hstate
  rw [← ht] at hbare howner
  have hall := (hbare.trans hf.chan).trans (bare_faulted_congr hkeep)
  rw [h.now, h.address hch hg] at hall
  exact ⟨faulted_of_bare hall, (congrArg Chan.program hall :), howner⟩

/-- At owed 4 refresh has the bus, yield kept (R46). -/
theorem PlainEnd.urgent (h : PlainEnd s x y t) (hg : ¬ Goes s x) (h4 : s.arb.owed = 4) :
    t.arb.owner = .refresh ∧ t.inFlight = .refresh ⟨s.arb.row, s.bus.wait8mem, s.bus.clock⟩ ∧
      (t.arb.yield = true ↔ s.arb.yield = true ∨
        (Spent s x ∧ (s.timedClaims.isSome = true ∨ s.linkClaims = true ∨ s.censusClaims = true))) := by
  have hz := h.ending
  have hpick := pick_urgent (hz.owed.trans h4)
  rw [h.ends hg, grantPoint_refresh (by rw [hpick])]
  refine ⟨rfl, ?_, ?_⟩
  · show InFlight.refresh ⟨_, _, _⟩ = _
    rw [hz.row, hz.bus]
  · rw [hpick]
    refine hz.yield.trans (or_congr_right (and_congr_right fun _ => ?_))
    simp [State.lowerClaim, h4, or_assoc]

/-- A tenure that has used its cap leaves the bus to the first lower class waiting, once (R45). -/
theorem PlainEnd.yields (h : PlainEnd s x y t) (hg : ¬ Goes s x) (hsp : Spent s x) (h4 : s.arb.owed < 4) (hl : s.lowerClaim = true) :
    t = (ended x.ch y).grantPoint ∧ ∃ k, (ended x.ch y).pick = (some k, false) ∧ (1 ≤ s.arb.owed → k = .refresh) ∧
      (s.arb.owed = 0 → (∀ i, s.timedClaims = some i → k = .timed i) ∧
        (s.timedClaims = none → (s.linkClaims = true → k = .link) ∧ (s.linkClaims = false → k = .census))) := by
  have hz := h.ending
  have := pick_yielded (z := ended x.ch y) (hz.owed ▸ h4) (hz.yield.mpr (.inr ⟨hsp, hl⟩)) (hz.lower.trans hl)
  rw [hz.owed, hz.timed, hz.link] at this
  exact ⟨h.ends hg, this⟩

theorem PlainEnd.refreshes (h : PlainEnd s x y t) (hg : ¬ Goes s x) (hsp : Spent s x) (h1 : 1 ≤ s.arb.owed) (h4 : s.arb.owed < 4) :
    t.arb.owner = .refresh ∧ t.arb.yield = false := by
  obtain ⟨ht, k, hk, hrefresh, -⟩ := h.yields hg hsp h4 (by simp [State.lowerClaim, h1, Nat.le_of_lt_succ h4])
  rw [hrefresh h1] at hk
  rw [ht, grantPoint_refresh (by rw [hk])]
  exact ⟨rfl, by rw [hk]⟩

theorem PlainEnd.runs (h : PlainEnd s x y t) (hg : ¬ Goes s x) (hsp : Spent s x) (h0 : s.arb.owed = 0) {r : Run} {rest : List Run}
    (hlane : s.lane = r :: rest) (hstep : r.step = .claiming) (hdis : r.discard = false) (hen : s.runEntry r ≠ none) :
    t.arb.owner = .timed r.timer ∧ t.arb.yield = false := by
  have htc : s.timedClaims = some r.timer := by simp [State.timedClaims, hlane, hstep, hdis]
  obtain ⟨ht, k, hk, -, hrest⟩ := h.yields hg hsp (by omega) (by simp [State.lowerClaim, htc])
  rw [(hrest h0).1 _ htc] at hk
  have := owner_grantPoint_timed (by rw [hk]) (h.ending.lane.trans hlane) (by rw [h.ending.entry]; exact hen)
  rw [ht]
  rwa [hk] at this

theorem PlainEnd.links (h : PlainEnd s x y t) (hg : ¬ Goes s x) (hsp : Spent s x) (h0 : s.arb.owed = 0) (htn : s.timedClaims = none)
    {b : Batch} {rest : List Batch} (hq : s.queue = b :: rest) (hstep : b.step = .claiming) (hdis : b.discard = false)
    (hen : b.entry ≠ none) : t.arb.owner = .link ∧ t.arb.yield = false := by
  have hlc : s.linkClaims = true := by simp [State.linkClaims, hq, hstep, hdis]
  obtain ⟨ht, k, hk, -, hrest⟩ := h.yields hg hsp (by omega) (by simp [State.lowerClaim, hlc])
  rw [((hrest h0).2 htn).1 hlc] at hk
  have := owner_grantPoint_link (by rw [hk]) (h.ending.queue.trans hq) hen
  rw [ht]
  rwa [hk] at this

theorem PlainEnd.scans (h : PlainEnd s x y t) (hg : ¬ Goes s x) (hsp : Spent s x) (h0 : s.arb.owed = 0) (htn : s.timedClaims = none)
    (hln : s.linkClaims = false) (hcn : s.censusClaims = true) : t.arb.owner = .census ∧ t.arb.yield = false := by
  obtain ⟨ht, k, hk, -, hrest⟩ := h.yields hg hsp (by omega) (by simp [State.lowerClaim, hcn])
  rw [((hrest h0).2 htn).2 hln] at hk
  have := owner_grantPoint_census (z := ended x.ch y) (by rw [hk])
  rw [ht]
  rwa [hk] at this

/-- What the grant after the tenure reads of the channels: the transfer's own waits on only under BLOCK or its request. -/
theorem PlainEnd.served (h : PlainEnd s x y t) (hserving : s.chans[x.ch].state = .serving) (d : ChanId) :
    (ended x.ch y).chans[d].service = s.chans[d].service ∧ (ended x.ch y).chans[d].kind = s.chans[d].kind ∧
      ((ended x.ch y).chans[d].state = .serving ↔ s.chans[d].state = .serving ∧
        (d = x.ch → s.chans[x.ch].request = true ∨ s.chans[x.ch].service = .block)) := by
  have hw := h.waiting
  rw [h.ending.chans]
  by_cases hdc : d = x.ch
  · subst hdc
    refine ⟨hw.service, hw.kind, ?_⟩
    rw [hw.state]
    by_cases hcond : s.chans[x.ch].service = .block ∨ s.chans[x.ch].request = true
    · rw [if_pos hcond]
      exact ⟨fun _ => ⟨hserving, fun _ => hcond.symm⟩, fun _ => rfl⟩
    · rw [if_neg hcond]
      exact ⟨fun h => (nomatch h), fun h => absurd (h.2 rfl).symm hcond⟩
  · have h := h.others d hdc
    refine ⟨(congrArg Chan.service h :), (congrArg Chan.kind h :), ?_⟩
    rw [show y.chans[d].state = s.chans[d].state from (congrArg Chan.state h :)]
    exact ⟨fun h => ⟨h, fun h' => absurd h' hdc⟩, fun h => h.1⟩

/-- A tenure that ended early, or with nobody waiting, leaves the bus to the first SERVING channel (R45). -/
theorem PlainEnd.channel (h : PlainEnd s x y t) (hserving : s.chans[x.ch].state = .serving) (hg : ¬ Goes s x) (h4 : s.arb.owed < 4)
    (hyield : s.arb.yield = false) (hno : Spent s x → s.lowerClaim = false) {d : ChanId} (hds : s.chans[d].state = .serving)
    (hdc : d = x.ch → s.chans[x.ch].request = true ∨ s.chans[x.ch].service = .block)
    (hmin : ∀ d' : ChanId, d' < d → s.chans[d'].state ≠ .serving ∨
      (d' = x.ch ∧ s.chans[x.ch].request = false ∧ s.chans[x.ch].service ≠ .block)) :
    (s.chans[d].service = .cascade → t.arb.owner = .dma d true) ∧
      (s.chans[d].service ≠ .cascade → s.chans[d].kind = .verify →
        t.arb.owner = .dma d false ∧ t.arb.burstCount = 0 ∧ t.arb.burstCap = s.bus.burst) := by
  have hz := h.ending
  have hy : (ended x.ch y).arb.yield = false := by
    rw [← Bool.not_eq_true, hz.yield]
    rintro (h | ⟨hsp, hl⟩)
    · exact absurd (h.symm.trans hyield) (by decide)
    · exact absurd (hl.symm.trans (hno hsp)) (by decide)
  obtain ⟨hds', hdk, hserv⟩ := h.served hserving d
  have := grantPoint_channel (z := ended x.ch y) (d := d) (hz.owed ▸ h4) hy (hserv.mpr ⟨hds, hdc⟩) fun d' hd' hs' => by
    obtain ⟨-, -, hserv'⟩ := h.served hserving d'
    obtain ⟨hst, hcon⟩ := hserv'.mp hs'
    obtain hns | ⟨rfl, hreq, hblock⟩ := hmin d' hd'
    · exact hns hst
    · exact (hcon rfl).elim (fun h => absurd (h.symm.trans hreq) (by decide)) hblock
  rw [hds', hdk, hz.bus] at this
  rw [h.ends hg]
  exact this

end

/-- Settles O60: the lookup, what follows a plain transfer, and a master's release. -/
theorem tenuresGoOnAndEnd : Obligations.TenuresGoOnAndEnd := by
  refine ⟨fun s c k a => ⟨fun hk => ?verify, fun hk hno => lookup_of_none hk (regionAt_none hno),
    fun hk hok r hr hb he => lookup_of_some hk (regionAt_some hok hr hb he)⟩, ?transfer,
    fun s i c ho _ _ _ hothers => exec_masterFalls ho hothers⟩
  case verify => rw [hk]; rfl
  case transfer =>
    intro s x e hin ho _ hserving hcas hto hheld hcount hmatch hpend htable c ch next ch' a goes spent
    obtain ⟨y, t, hexec, h⟩ := exec_plain e hin ho hto hheld ⟨hcas, hcount, hmatch, hpend, hserving, htable⟩
    have hch : s.chans[x.ch].advance x.sysAddr = ch' := advance_more x.sysAddr hcount
    exact ⟨t, hexec, fun hg tg hl => h.target hch hg hl, fun hg d hl => h.fault hch hg hl, h.urgent, fun hg hsp => h.refreshes hg hsp, fun hg hsp h0 =>
      ⟨fun r rest hl hst hd hen => h.runs hg hsp h0 hl hst hd hen, fun htn b rest hq hst hd hen => h.links hg hsp h0 htn hq hst hd hen,
        h.scans hg hsp h0⟩, fun hg h4 hy hno d => h.channel hserving hg h4 hy hno⟩

end Sys2Proof.Proofs.Tenures
end

section
/-! PROOFS. The memory map's requests (R106 to R116) and the age of a ship queue (R132): placements, redefinitions and reshapes, drops
and flushes, and the host's access to the store. -/

open Sys2Proof Sys2Proof.Machine Sys2Proof.Proofs.MapLaws Sys2Proof.Proofs.PassLaws Sys2Proof.Proofs.LinkRequests Sys2Proof.Proofs.Trickle
  Sys2Proof.Proofs.RecordRequests Sys2Proof.Proofs.Demands

namespace Sys2Proof.Proofs.MapRequests

/-! ### A demand of the memory map (R126, R130) -/

theorem modShip_modShip (u : State) (id : RegionId) (f g : ShipQueue → ShipQueue) :
    (u.modShip id f).modShip id g = u.modShip id fun q => g (f q) := by
  have h := regions_modShip u id id f
  rw [if_pos rfl] at h
  unfold State.modShip State.modRegion at h ⊢
  dsimp only at h ⊢
  rw [h, Vector.set_set]

theorem modShip_same {u : State} {id : RegionId} {f : ShipQueue → ShipQueue} (h : f u.regions[id].ship = u.regions[id].ship) :
    u.modShip id f = u := by
  unfold State.modShip State.modRegion
  dsimp only
  rw [h]
  show { u with regions := u.regions.set id u.regions[id] } = u
  rw [show u.regions.set id u.regions[id] = u.regions from Vector.set_getElem_self _]

/-- The memory map joins a pass that runs. -/
theorem demand_map_joins {u : State} {id : RegionId} (hr : u.regions[id].ship.running = true) : u.demand id .map = { u with
    regions := u.regions.set id { u.regions[id] with
      ship := { u.regions[id].ship with waiters := { u.regions[id].ship.waiters with map := true } } } } := by
  have hrun : (u.modShip id fun q => { q with waiters := q.waiters.add .map }).regions[id].ship.running = true := by
    rw [regions_modShip, if_pos rfl]
    exact hr
  unfold State.demand
  exact if_pos hrun

/-- The memory map begins a pass that has bytes to ship. -/
theorem demand_map_begins {u : State} {id : RegionId} (hr : u.regions[id].ship.running = false)
    (he : u.regions[id].ship.entries ≠ []) : u.demand id .map = { u with
      fillLine := u.fillLine ++ [id]
      regions := u.regions.set id { u.regions[id] with ship := { u.regions[id].ship with
        running := true, waiters := { u.regions[id].ship.waiters with map := true } } } } := by
  have hreg : (u.modShip id fun q => { q with waiters := q.waiters.add .map }).regions[id] =
      { u.regions[id] with ship := { u.regions[id].ship with waiters := { u.regions[id].ship.waiters with map := true } } } := by
    rw [regions_modShip, if_pos rfl]
    rfl
  unfold State.demand
  dsimp only
  rw [if_neg (by rw [hreg, hr]; decide), beginPass_queued (by rw [hreg]; exact he), hreg]
  simp [State.modShip, State.modRegion]

/-- With nothing to ship, and nobody told before, the pass ends at once and the memory map is told. -/
theorem demand_map_ends {u : State} {id : RegionId} (hr : u.regions[id].ship.running = false)
    (he : u.regions[id].ship.entries = []) (hw : u.regions[id].ship.waiters = {}) : u.demand id .map = u.mapPassEnded id := by
  have hreg : (u.modShip id fun q => { q with waiters := q.waiters.add .map }).regions[id] =
      { u.regions[id] with ship := { u.regions[id].ship with waiters := { map := true } } } := by
    rw [regions_modShip, if_pos rfl, hw]
    rfl
  unfold State.demand
  dsimp only
  rw [if_neg (by rw [hreg, hr]; decide), beginPass_empty (by rw [hreg]; exact he), endPass_eq_told]
  have hwait : ((u.modShip id fun q => { q with waiters := q.waiters.add .map }).modShip id
      fun q => { q with running := true }).regions[id].ship.waiters = { map := true } := by
    rw [regions_modShip, if_pos rfl, hreg]
  have htold : toldBlocks id ((u.modShip id fun q => { q with waiters := q.waiters.add .map }).modShip id
      fun q => { q with running := true }) = u := by
    unfold toldBlocks
    rw [hwait]
    simp only [State.each_nil, Bool.false_eq_true, if_false]
    rw [modShip_modShip, modShip_modShip]
    refine modShip_same ?_
    rw [← hw, ← hr]
  rw [hwait, if_pos rfl, htold]

/-! ### An entry that changes and demands its pass -/

section
variable {u : State} {id : RegionId} {g : Region}

/-- The state with another entry for one region. -/
def withEntry (id : RegionId) (g : Region) (u : State) : State := { u with regions := u.regions.set id g }

theorem entry_withEntry : (withEntry id g u).regions[id] = g := getElem_set_same _ _ _

theorem withEntry_withEntry (g' : Region) : withEntry id g' (withEntry id g u) = withEntry id g' u := by
  unfold withEntry
  dsimp only
  rw [Vector.set_set]

theorem withEntry_same : withEntry id u.regions[id] u = u := by
  unfold withEntry
  rw [show u.regions.set id u.regions[id] = u.regions from Vector.set_getElem_self _]

theorem demand_joins (hr : g.ship.running = true) : (withEntry id g u).demand id .map =
    withEntry id { g with ship := { g.ship with waiters := { g.ship.waiters with map := true } } } u := by
  have h := demand_map_joins (u := withEntry id g u) (id := id) (by rw [entry_withEntry]; exact hr)
  rw [entry_withEntry] at h
  exact h.trans (withEntry_withEntry _)

theorem demand_begins (hr : g.ship.running = false) (he : g.ship.entries ≠ []) : (withEntry id g u).demand id .map =
    withEntry id { g with ship := { g.ship with running := true, waiters := { g.ship.waiters with map := true } } }
      { u with fillLine := u.fillLine ++ [id] } := by
  have h := demand_map_begins (u := withEntry id g u) (id := id) (by rw [entry_withEntry]; exact hr) (by rw [entry_withEntry]; exact he)
  rw [entry_withEntry] at h
  rw [h]
  exact withEntry_withEntry (u := { u with fillLine := u.fillLine ++ [id] }) _

theorem demand_ends (hr : g.ship.running = false) (he : g.ship.entries = []) (hw : g.ship.waiters = {}) :
    (withEntry id g u).demand id .map = (withEntry id g u).mapPassEnded id :=
  demand_map_ends (by rw [entry_withEntry]; exact hr) (by rw [entry_withEntry]; exact he) (by rw [entry_withEntry]; exact hw)

/-- The memory map told that the pass is over: what it does by the entry (R111, R114). -/
theorem mapPassEnded_withEntry : (withEntry id g u).mapPassEnded id =
    let v := (withEntry id { g with flushWaiters := [] } u).each g.flushWaiters fun tag t => t.replyNow ⟨kRegionFlush, tag, .empty⟩
    if g.cond = .dropping then v.removeRegion id else v := by
  have hmod : ((withEntry id g u).modRegion id fun g => { g with flushWaiters := [] }) = withEntry id { g with flushWaiters := [] } u := by
    unfold State.modRegion
    rw [entry_withEntry]
    exact withEntry_withEntry _
  unfold State.mapPassEnded
  dsimp only
  rw [entry_withEntry, hmod]

/-- One flush waits: it is answered. -/
theorem mapPassEnded_flushed {tag : Nat} (hc : g.cond ≠ .dropping) (hf : g.flushWaiters = [tag]) : (withEntry id g u).mapPassEnded id =
    (withEntry id { g with flushWaiters := [] } u).reply kRegionFlush tag .ok .empty := by
  rw [mapPassEnded_withEntry, hf, if_neg hc]
  rfl

/-- One drop waits: the region is gone, then it is answered. -/
theorem mapPassEnded_dropped {tag : Nat} (hc : g.cond = .dropping) (hf : g.flushWaiters = []) (hs : g.successor = none)
    (hd : g.dropWaiters = [⟨tag, false⟩]) : (withEntry id g u).mapPassEnded id =
      State.reply { withEntry id {} u with written := setRemove id u.written } kRegionDrop tag .ok .empty := by
  rw [mapPassEnded_withEntry, hf, if_pos hc, State.each_nil]
  unfold State.removeRegion
  dsimp only
  rw [entry_withEntry, hs, hd]
  unfold State.modRegion withEntry
  simp only [Vector.set_set]
  rfl

/-- A reshape waits: its successor is placed. -/
theorem mapPassEnded_reshaped {tag : Nat} {f : RegionFields} (hc : g.cond = .dropping) (hf : g.flushWaiters = []) (hs : g.successor = some f)
    (hd : g.dropWaiters = [⟨tag, true⟩]) : (withEntry id g u).mapPassEnded id =
      State.placeRegion id f [⟨kRegionSet, tag, .region id f⟩]
        { withEntry id { g with flushWaiters := [] } u with written := setRemove id u.written } := by
  rw [mapPassEnded_withEntry, hf, if_pos hc, State.each_nil]
  unfold State.removeRegion
  dsimp only
  rw [entry_withEntry, hs, hd]
  rfl

end

/-! ### REGION_DROP and REGION_FLUSH (R111, R112, R114) -/

section
variable {h : Hdr} {u : State} {id : RegionId}

theorem drop_dropping (hc : u.regions[id].cond = .dropping) : serveRegionDrop h id.val u =
    withEntry id { u.regions[id] with dropWaiters := u.regions[id].dropWaiters ++ [⟨h.tag, false⟩] } u := by
  unfold serveRegionDrop
  rw [withRegion_val]
  dsimp only
  split
  · next h => rw [hc] at h; cases h
  · rfl
  · next h => rw [hc] at h; cases h

theorem drop_active (hc : u.regions[id].cond = .active) (hu : u.inUse id = false) : serveRegionDrop h id.val u =
    if u.regions[id].fields.kind = .card then
      State.reply { withEntry id {} u with written := setRemove id u.written } kRegionDrop h.tag .ok .empty
    else (withEntry id { u.regions[id] with
      cond := .dropping, successor := none, dropWaiters := u.regions[id].dropWaiters ++ [⟨h.tag, false⟩] } u).demand id .map := by
  unfold serveRegionDrop
  rw [withRegion_val]
  dsimp only
  split
  · next h => rw [hc] at h; cases h
  · next h => rw [hc] at h; cases h
  · rw [hu, if_neg (by decide)]
    split
    · next hk => rw [if_pos hk]; rfl
    · next hk => rw [if_neg (by rw [hk]; decide)]; rfl

theorem drop_card (hc : u.regions[id].cond = .active) (hu : u.inUse id = false) (hk : u.regions[id].fields.kind = .card) :
    serveRegionDrop h id.val u =
      State.reply { withEntry id {} u with written := setRemove id u.written } kRegionDrop h.tag .ok .empty :=
  (drop_active hc hu).trans (if_pos hk)

theorem drop_mirror (hc : u.regions[id].cond = .active) (hu : u.inUse id = false) (hk : u.regions[id].fields.kind = .mirror) :
    serveRegionDrop h id.val u = (withEntry id { u.regions[id] with
      cond := .dropping, successor := none, dropWaiters := u.regions[id].dropWaiters ++ [⟨h.tag, false⟩] } u).demand id .map :=
  (drop_active hc hu).trans (if_neg (by rw [hk]; decide))

theorem flush_card (hc : u.regions[id].cond ≠ .absent) (hk : u.regions[id].fields.kind = .card) :
    serveRegionFlush h id.val u = u.reply kRegionFlush h.tag .ok .empty := by
  unfold serveRegionFlush
  rw [withRegion_val]
  dsimp only
  split
  · next h => exact absurd h hc
  · rfl
  · next h _ => rw [hk] at h; cases h

theorem flush_mirror (hc : u.regions[id].cond ≠ .absent) (hk : u.regions[id].fields.kind = .mirror) :
    serveRegionFlush h id.val u = (withEntry id { u.regions[id] with
      flushWaiters := u.regions[id].flushWaiters ++ [h.tag] } u).demand id .map := by
  unfold serveRegionFlush
  rw [withRegion_val]
  dsimp only
  split
  · next h => exact absurd h hc
  · next h _ => rw [hk] at h; cases h
  · rfl

end

/-- The request read: its record's reservation is made (R164). -/
def readState (h : Hdr) (s : State) : State := { s with link := s.link.taken s.now h.more }

theorem active_ne {g : Region} (h : g.cond = .active) : g.cond ≠ .absent := by rw [h]; decide

theorem exec_drop {s : State} {h : Hdr} (hs : Served s h) (id : RegionId) :
    exec (.regionDrop h id.val) s = .next (serveRegionDrop h id.val (readState h s)) := exec_served rfl hs

theorem exec_flush {s : State} {h : Hdr} (hs : Served s h) (id : RegionId) :
    exec (.regionFlush h id.val) s = .next (serveRegionFlush h id.val (readState h s)) := exec_served rfl hs

theorem reply_readState (h : Hdr) (s : State) (kind : Nat) (st : Status) (b : Body) :
    (readState h s).reply kind h.tag st b = s.answered h kind st b := reply_of_taken (u := readState h s) (l := s.link) rfl _ _ _ _

/-- Settles O41: by the entry's condition and its pass. -/
theorem dropsFlushesAndAgeBeginAPass : Obligations.DropsFlushesAndAgeBeginAPass := by
  refine ⟨fun s h id hs => ⟨fun hc => ⟨exec_refused rfl hs ?absentDrop, exec_refused rfl hs ?absentFlush⟩, fun hc hu => exec_refused rfl hs ?busy,
    fun hc hk => ⟨?cardFlush, fun hu => ?cardDrop⟩, fun hc hk hr he => ⟨?beginFlush, fun hu => ?beginDrop⟩,
    fun hc hk hr => ⟨?joinFlush, fun hc hu => ?joinDrop⟩, fun hc => ?dropping, fun hc hk hr he hw hd hf => ⟨?endFlush, fun hu => ?endDrop⟩⟩,
    fun s id d hd => ⟨fun hc hk hr he hreach => ?ages, fun hno => ?young⟩⟩
  case absentDrop =>
    simp only [route, serveRegionDrop, withRegion_val, hc]
    rfl
  case absentFlush =>
    simp only [route, serveRegionFlush, withRegion_val, hc]
    rfl
  case busy =>
    have hu' : State.inUse { s with link := s.link.taken s.now h.more } id = true := hu
    simp only [route, serveRegionDrop, withRegion_val, hc, hu', if_true]
    rfl
  case cardFlush =>
    rw [exec_flush hs, flush_card (u := readState h s) (active_ne hc) hk, reply_readState]
  case cardDrop =>
    rw [exec_drop hs, drop_card (u := readState h s) hc hu hk]
    exact congrArg _ (reply_of_taken (l := s.link) rfl _ _ _ _)
  case beginFlush =>
    rw [exec_flush hs]
    exact congrArg Host.Outcome.next ((flush_mirror (u := readState h s) (active_ne hc) hk).trans
      (demand_begins (by exact hr) (by exact he)))
  case beginDrop =>
    rw [exec_drop hs]
    exact congrArg Host.Outcome.next ((drop_mirror (u := readState h s) hc hu hk).trans
      (demand_begins (by exact hr) (by exact he)))
  case joinFlush =>
    rw [exec_flush hs]
    exact congrArg Host.Outcome.next ((flush_mirror (u := readState h s) hc hk).trans
      (demand_joins (by exact hr)))
  case joinDrop =>
    rw [exec_drop hs]
    exact congrArg Host.Outcome.next ((drop_mirror (u := readState h s) hc hu hk).trans
      (demand_joins (by exact hr)))
  case dropping =>
    rw [exec_drop hs]
    exact congrArg Host.Outcome.next ((drop_dropping (u := readState h s) hc).trans rfl)
  case endFlush =>
    have hsame : { s.regions[id] with flushWaiters := [] } = s.regions[id] := by rw [← hf]
    have hback : withEntry id { (readState h s).regions[id] with flushWaiters := [] } (readState h s) = readState h s :=
      (congrArg (fun g => withEntry id g (readState h s)) hsame).trans withEntry_same
    rw [exec_flush hs]
    exact congrArg Host.Outcome.next ((flush_mirror (u := readState h s) (active_ne hc) hk).trans
      ((demand_ends (by exact hr) (by exact he) (by exact hw)).trans
        ((mapPassEnded_flushed (tag := h.tag) (by intro h; exact (nomatch hc.symm.trans h)) (by exact congrArg (· ++ [h.tag]) hf)).trans
          ((congrArg (fun u : State => u.reply kRegionFlush h.tag .ok .empty) hback).trans (reply_readState _ _ _ _ _)))))
  case endDrop =>
    rw [exec_drop hs]
    exact congrArg Host.Outcome.next ((drop_mirror (u := readState h s) hc hu hk).trans
      ((demand_ends (by exact hr) (by exact he) (by exact hw)).trans
        ((mapPassEnded_dropped (tag := h.tag) (by rfl) (by exact hf) (by rfl) (by exact congrArg (· ++ [(⟨h.tag, false⟩ : DropWaiter)]) hd)).trans
          (reply_of_taken (l := s.link) rfl _ _ _ _))))
  case ages =>
    have hm : s.regions[id].isMirror = true := by simp [-Fin.getElem_fin, Region.isMirror, hc, hk]
    have hage : s.ageReached id = true := by simp [-Fin.getElem_fin, State.ageReached, reachedBy, hr, hd, hreach]
    exact congrArg _ ((if_pos hage).trans (trigger_begins hm hr he))
  case young =>
    have hage : s.ageReached id = false := by
      obtain h | h := hno <;> simp [-Fin.getElem_fin, State.ageReached, reachedBy, hd, h]
    exact congrArg _ (if_neg (by rw [hage]; decide))

/-! ### REGION_SET (R106 to R109, R113) -/

section
variable {r : RegionRequest}

/-- A field outside its range, or not what its code allows, refuses the request. -/
theorem appliedRegion_none (h : r.kind = none ∨ accessSet r.access = none ∨ r.base % 256 ≠ 0 ∨ 0xFFFF00 < r.base ∨ r.length = 0 ∨
    r.length % 256 ≠ 0 ∨ 1048576 < r.length ∨ 16777216 < r.base + r.length) : appliedRegion r = none := by
  unfold appliedRegion
  split
  · next k acc hk ha =>
    obtain h | h | h := h
    · rw [hk] at h; cases h
    · rw [ha] at h; cases h
    · refine if_pos ?_
      simp only [Config.addressSpace, Bool.or_eq_true, decide_eq_true_eq]
      omega
  · rfl

/-- The fields of a region as R106 and R108 apply them. -/
def fieldsOf (r : RegionRequest) (k : RegionKind) (acc : List ChanId) : RegionFields where
  base := r.base
  length := r.length
  kind := k
  access := acc
  master := r.master ≠ 0
  threshold := if k = .mirror then some (max 64 (min 1024 ((r.threshold + 63) / 64 * 64))) else none
  age := if k = .mirror then some (max 1 (min 100 r.age)) else none

theorem clamp_eq_max (lo hi n : Nat) (h : lo ≤ hi) : clamp lo hi n = max lo (min hi n) := by
  rw [clamp_eq]
  split
  · omega
  · split <;> omega

theorem appliedRegion_some {k : RegionKind} {acc : List ChanId} (hk : r.kind = some k) (ha : accessSet r.access = some acc)
    (hb : r.base % 256 = 0) (hl : r.length % 256 = 0) (h0 : 0 < r.length) (hmax : r.length ≤ 1048576)
    (hend : r.base + r.length ≤ 16777216) : appliedRegion r = some (fieldsOf r k acc) := by
  unfold appliedRegion
  rw [hk, ha]
  dsimp only
  rw [if_neg ?_]
  · cases k
    · simp only [fieldsOf, appliedThreshold, appliedAge, clamp_eq_max 64 1024 _ (by decide), clamp_eq_max 1 100 _ (by decide), if_true]
    · rfl
  · simp only [Config.addressSpace, Bool.or_eq_true, decide_eq_true_eq]
    omega

end

theorem overlaps_iff {s : State} {id : RegionId} {f : RegionFields} : s.overlaps id f = true ↔
    ∃ j : RegionId, j ≠ id ∧ ∃ o ∈ s.regions[j].held, f.base < o.base + o.length ∧ o.base < f.base + f.length := by
  simp [-Fin.getElem_fin, State.overlaps, RegionFields.meets]

theorem sameShape_iff {f g : RegionFields} : f.sameShape g = true ↔ f.base = g.base ∧ f.length = g.length ∧ f.kind = g.kind := by
  simp [RegionFields.sameShape, and_assoc]

/-- What a REGION_SET that passes its first check does, by the entry's condition (R106). -/
theorem serveRegionSet_eq {h : Hdr} {id : RegionId} {r : RegionRequest} {f : RegionFields} (hf : appliedRegion r = some f) (u : State) :
    serveRegionSet h id.val r u = 
      if u.regions[id].cond = .dropping then u.refuse kRegionSet h.tag .busy
      else if u.regions[id].cond = .absent then
        if u.overlaps id f then u.refuse kRegionSet h.tag .overlap else u.placeRegion id f [⟨kRegionSet, h.tag, .region id f⟩]
      else if u.regions[id].fields.sameShape f then
        if u.overlaps id f then u.refuse kRegionSet h.tag .overlap else u.redefine id f h.tag
      else if u.inUse id then u.refuse kRegionSet h.tag .busy
      else if u.overlaps id f then u.refuse kRegionSet h.tag .overlap
      else u.reshape id f h.tag := by
  unfold serveRegionSet
  rw [regionOf_val, hf]
  dsimp only
  split
  · next hc => rw [if_pos hc]
  · next hc => simp only [hc, reduceCtorEq, if_false, if_true]
  · next hc => simp only [hc, reduceCtorEq, if_false]

/-- A region placed: its entry, and a MIRROR region's bytes zeroed (R105, R107). -/
def placedRegion (id : RegionId) (f : RegionFields) (u : State) : State :=
  { withEntry id { cond := .active, fields := f, ship :=
      { trickling := (withEntry id { cond := .active, fields := f } u).isTrickling id } } u with
    store := if f.kind = .mirror then Memory.zero u.store f.base f.length else u.store }

/-- With no transfer in flight a region is placed at once and its requests answered. -/
theorem placeRegion_each {u : State} {id : RegionId} {f : RegionFields} {ps : List PendingReply} (ht : u.transferring = false) :
    u.placeRegion id f ps = (placedRegion id f u).each ps fun p t => t.replyNow p := by
  have hship : ((u.modRegion id fun _ => { cond := .active, fields := f }).modShip id fun q =>
      { q with trickling := (u.modRegion id fun _ => { cond := .active, fields := f }).isTrickling id }) =
        withEntry id { cond := .active, fields := f, ship :=
          { trickling := (withEntry id { cond := .active, fields := f } u).isTrickling id } } u := by
    show (withEntry id { cond := .active, fields := f } u).modRegion id _ = _
    unfold State.modRegion
    rw [entry_withEntry]
    exact withEntry_withEntry _
  unfold State.placeRegion placedRegion
  dsimp only
  rw [hship]
  split
  · next hk =>
    rw [if_pos hk]
    refine if_neg ?_
    show ¬ u.transferring = true
    rw [ht]
    decide
  · next hk =>
    rw [if_neg (by rw [hk]; decide : ¬ f.kind = .mirror)]
    rfl

theorem placeRegion_now {u : State} {id : RegionId} {f : RegionFields} {p : PendingReply} (ht : u.transferring = false) :
    u.placeRegion id f [p] = (placedRegion id f u).replyNow p := placeRegion_each ht

theorem entry_placedRegion (id : RegionId) (f : RegionFields) (u : State) : (placedRegion id f u).regions[id] =
    { cond := .active, fields := f, ship := { trickling := (withEntry id { cond := .active, fields := f } u).isTrickling id } } :=
  getElem_set_same _ _ _

/-- The bytes of a MIRROR region placed read 0x00, the others as they were (R105). -/
theorem read_placedRegion (id : RegionId) (f : RegionFields) (u : State) (a : Nat) : Memory.read (placedRegion id f u).store a =
    if f.kind = .mirror ∧ f.base ≤ a ∧ a < f.base + f.length then 0 else Memory.read u.store a := by
  show Memory.read (if f.kind = .mirror then Memory.zero u.store f.base f.length else u.store) a = _
  by_cases hkind : f.kind = .mirror
  · rw [if_pos hkind, Memory.read_zero]
    simp only [hkind, true_and]
    by_cases hin : f.base ≤ a ∧ a < f.base + f.length
    · rw [if_pos hin, if_neg (by omega)]
    · rw [if_neg hin, if_pos (by omega)]
  · rw [if_neg hkind, if_neg fun h => hkind h.1]

/-- What a REGION_SET that places its region leaves (R105, R107). -/
structure Placed (s : State) (h : Hdr) (id : RegionId) (f : RegionFields) (t : State) : Prop where
  cond : t.regions[id].cond = .active
  fields : t.regions[id].fields = f
  successor : t.regions[id].successor = none
  drops : t.regions[id].dropWaiters = []
  flushes : t.regions[id].flushWaiters = []
  entries : t.regions[id].ship.entries = []
  total : t.regions[id].ship.dirtyTotal = 0
  running : t.regions[id].ship.running = false
  others : ∀ j : RegionId, j ≠ id → t.regions[j] = s.regions[j]
  kept : t.kept = s.kept
  link : t.link = s.link.answered s.now h.more (.reply 0xA0 h.tag .ok (.region id f))
  chans : t.chans = s.chans
  store : ∀ a : Nat, Memory.read t.store a =
    if f.kind = .mirror ∧ f.base ≤ a ∧ a < f.base + f.length then 0 else Memory.read s.store a

theorem placed_of {s u : State} {h : Hdr} {id : RegionId} {f : RegionFields} (hk : u.kept = s.kept)
    (hl : u.link = s.link.taken s.now h.more) (hc : u.chans = s.chans) (hm : u.store = s.store)
    (hr : ∀ j : RegionId, j ≠ id → u.regions[j] = s.regions[j]) (ht : u.transferring = false) :
    Placed s h id f (u.placeRegion id f [⟨kRegionSet, h.tag, .region id f⟩]) := by
  rw [placeRegion_now ht]
  have hreply := reply_of_taken (u := placedRegion id f u) hl kRegionSet h.tag .ok (.region id f)
  rw [show (placedRegion id f u).replyNow ⟨kRegionSet, h.tag, .region id f⟩ = _ from hreply]
  have hreg := entry_placedRegion id f u
  have hread (a : Nat) := (read_placedRegion id f u a).trans (by rw [hm])
  have hother (j : RegionId) (hj : j ≠ id) : (placedRegion id f u).regions[j] = s.regions[j] :=
    (getElem_set_fin _ _ _ _).trans ((if_neg hj).trans (hr j hj))
  generalize hg : (placedRegion id f u).regions[id] = g at hreg
  exact ⟨by rw [hg, hreg], by rw [hg, hreg], by rw [hg, hreg], by rw [hg, hreg], by rw [hg, hreg], by rw [hg, hreg], by rw [hg, hreg],
    by rw [hg, hreg], hother, hk, rfl, hc, hread⟩

/-! ### A redefinition in place (R109, R131, R132) -/

theorem thresholdCheck_still {v : State} {id : RegionId} (h : v.regions[id].ship.running = true ∨ v.regions[id].isMirror = false) :
    v.thresholdCheck id = v := by
  refine ite_eq_right_iff.mpr fun hc => ?_
  obtain h | h := h
  · exact trigger_running h
  · rw [h] at hc
    cases hc

theorem ageCheck_still {v : State} {id : RegionId} (h : v.regions[id].ship.running = true ∨ v.regions[id].isMirror = false) :
    v.ageCheck id = v := by
  refine ite_eq_right_iff.mpr fun _ => ?_
  obtain h | h := h
  · exact trigger_running h
  · exact if_neg (by rw [h, Bool.false_and]; decide)

/-- Redefined attributes that are due begin the pass, by the threshold or by the age. -/
theorem checks_begin {v : State} {id : RegionId} (hm : v.regions[id].isMirror = true) (hr : v.regions[id].ship.running = false)
    (he : v.regions[id].ship.entries ≠ []) (hdue : v.regions[id].fields.threshold.any (· ≤ v.regions[id].ship.dirtyTotal) = true ∨
      reachedBy v.regions[id].ship.ageDeadline v.now = true) : (v.thresholdCheck id).ageCheck id =
        withEntry id { v.regions[id] with ship := { v.regions[id].ship with running := true } } { v with fillLine := v.fillLine ++ [id] } := by
  by_cases ht : v.regions[id].fields.threshold.any (· ≤ v.regions[id].ship.dirtyTotal) = true
  · have hcheck : v.thresholdCheck id = v.trigger id := if_pos (by rw [hm, ht]; rfl)
    rw [hcheck, trigger_begins hm hr he]
    refine ageCheck_still (.inl ?_)
    exact (congrArg (fun g : Region => g.ship.running) (getElem_set_same _ _ _) :)
  · have hage := hdue.resolve_left ht
    have hcheck : v.thresholdCheck id = v := if_neg (by rw [Bool.and_eq_true]; exact fun h => ht h.2)
    rw [hcheck]
    have hreached : v.ageReached id = true := by rw [State.ageReached, hr, hage]; rfl
    exact (if_pos hreached).trans (trigger_begins hm hr he)

theorem checks_still {v : State} {id : RegionId} (ht : v.regions[id].fields.threshold.any (· ≤ v.regions[id].ship.dirtyTotal) = false)
    (ha : reachedBy v.regions[id].ship.ageDeadline v.now = false) : (v.thresholdCheck id).ageCheck id = v := by
  have hcheck : v.thresholdCheck id = v := if_neg (by rw [ht, Bool.and_false]; decide)
  rw [hcheck]
  exact if_neg (by rw [State.ageReached, ha, Bool.and_false]; decide)

/-- The entry that a redefinition in place leaves, before its checks. -/
def redefined (f : RegionFields) (g : Region) : Region :=
  { g with fields := f, ship := { g.ship with ageDeadline := ageOf g.ship.entries (f.age.getD 0) } }

theorem redefine_eq (s : State) (h : Hdr) (id : RegionId) (f : RegionFields) : State.redefine id f h.tag (readState h s) =
    ((withEntry id (redefined f s.regions[id]) (s.answered h 0x20 .ok (.region id f))).thresholdCheck id).ageCheck id := by
  have hreply := reply_of_taken (u := withEntry id (redefined f s.regions[id]) (readState h s)) (l := s.link) (now := s.now)
    (more := h.more) rfl kRegionSet h.tag .ok (.region id f)
  exact congrArg (fun v : State => (v.thresholdCheck id).ageCheck id) hreply

/-- The condition under which redefined attributes begin a pass at once. -/
def RedefinedDue (s : State) (id : RegionId) (f : RegionFields) : Prop :=
  f.kind = .mirror ∧ s.regions[id].ship.running = false ∧ (f.threshold.getD 0 ≤ s.regions[id].ship.dirtyTotal ∨
    ∃ x rest, s.regions[id].ship.entries = x :: rest ∧ f.age.getD 0 * 1000 ≤ (s.now - x.joined).toNat)

theorem reachedBy_ageOf {es : List ShipEntry} {ms : Nat} {now : Time} : reachedBy (ageOf es ms) now = true ↔
    ∃ x rest, es = x :: rest ∧ ms * 1000 ≤ (now - x.joined).toNat := by
  cases es with
  | nil => simp [reachedBy, ageOf]
  | cons x rest =>
    refine ⟨fun h => ⟨x, rest, rfl, of_decide_eq_true h⟩, ?_⟩
    rintro ⟨_, _, heq, h⟩
    cases heq
    exact decide_eq_true h

section
variable {s : State} {h : Hdr} {id : RegionId} {f : RegionFields}

theorem redefine_due (hc : s.regions[id].cond = .active) (ht : f.kind = .mirror → f.threshold = some (f.threshold.getD 0))
    (hdue : RedefinedDue s id f) (he : s.regions[id].ship.entries ≠ []) : State.redefine id f h.tag (readState h s) =
      withEntry id { redefined f s.regions[id] with ship := { (redefined f s.regions[id]).ship with running := true } }
        { s.answered h 0x20 .ok (.region id f) with fillLine := s.fillLine ++ [id] } := by
  obtain ⟨hk, hr, hcond⟩ := hdue
  have hmirror : (redefined f s.regions[id]).isMirror = true := by
    simp [-Fin.getElem_fin, Region.isMirror, redefined, hc, hk]
  rw [redefine_eq, checks_begin (by rw [entry_withEntry]; exact hmirror) (by rw [entry_withEntry]; exact hr)
    (by rw [entry_withEntry]; exact he) ?_, entry_withEntry]
  · exact withEntry_withEntry (u := { s.answered h 0x20 .ok (.region id f) with fillLine := s.fillLine ++ [id] }) _
  · rw [entry_withEntry]
    refine hcond.imp (fun h => ?_) fun h => reachedBy_ageOf.mpr h
    show f.threshold.any (· ≤ s.regions[id].ship.dirtyTotal) = true
    rw [ht hk]
    exact decide_eq_true h

theorem redefine_still (ht : f.kind = .mirror → f.threshold = some (f.threshold.getD 0)) (hdue : ¬ RedefinedDue s id f) :
    State.redefine id f h.tag (readState h s) = withEntry id (redefined f s.regions[id]) (s.answered h 0x20 .ok (.region id f)) := by
  rw [redefine_eq]
  generalize hv : withEntry id (redefined f s.regions[id]) (s.answered h 0x20 .ok (.region id f)) = v
  have hg : v.regions[id] = redefined f s.regions[id] := by rw [← hv, entry_withEntry]
  have hnow : v.now = s.now := by rw [← hv]; rfl
  by_cases hno : v.regions[id].ship.running = true ∨ v.regions[id].isMirror = false
  · rw [thresholdCheck_still hno, ageCheck_still hno]
  · rw [hg, not_or, Bool.not_eq_true, Bool.not_eq_false] at hno
    obtain ⟨hr, hm⟩ := hno
    have hk : f.kind = .mirror := by
      simp only [Region.isMirror, Bool.and_eq_true, decide_eq_true_eq] at hm
      exact hm.2
    have hnot : ¬ (f.threshold.getD 0 ≤ s.regions[id].ship.dirtyTotal ∨
        ∃ x rest, s.regions[id].ship.entries = x :: rest ∧ f.age.getD 0 * 1000 ≤ (s.now - x.joined).toNat) :=
      fun h => hdue ⟨hk, hr, h⟩
    rw [not_or] at hnot
    refine checks_still ?_ ?_
    · rw [hg]
      show f.threshold.any (· ≤ s.regions[id].ship.dirtyTotal) = false
      rw [ht hk]
      exact decide_eq_false hnot.1
    · rw [hg, hnow, ← Bool.not_eq_true]
      exact fun h => hnot.2 (reachedBy_ageOf.mp h)

end

/-! ### A reshape (R113) -/

section
variable {u : State} {id : RegionId} {f : RegionFields} {tag : Nat}

theorem reshape_card (hk : u.regions[id].fields.kind = .card) : u.reshape id f tag =
    State.placeRegion id f [⟨kRegionSet, tag, .region id f⟩] { u with written := setRemove id u.written } := by
  unfold State.reshape
  rw [hk]

theorem reshape_mirror (hk : u.regions[id].fields.kind = .mirror) : u.reshape id f tag = (withEntry id { u.regions[id] with
    cond := .dropping, successor := some f, dropWaiters := u.regions[id].dropWaiters ++ [⟨tag, true⟩] } u).demand id .map := by
  unfold State.reshape
  split
  · next h => rw [hk] at h; cases h
  · rfl

end

/-- Settles O40: the fields' checks, then by the entry's condition. -/
theorem regionsArePlacedZeroed : Obligations.RegionsArePlacedZeroed := by
  refine ⟨fun s h n r hs hbad => exec_refused rfl hs ?range, ?_⟩
  case range =>
    simp only [route, serveRegionSet, appliedRegion_none hbad]
    cases regionOf n <;> rfl
  intro s h id r k acc hs hk hacc hb hl h0 hmax hend f g meets placed same
  have hf : appliedRegion r = some f := appliedRegion_some hk hacc hb hl h0 hmax hend
  have hexec : exec (.regionSet h id.val r) s = .next (serveRegionSet h id.val r (readState h s)) := exec_served rfl hs
  have hserve := serveRegionSet_eq (h := h) (id := id) hf (readState h s)
  rw [hserve] at hexec
  have hmeets : (readState h s).overlaps id f = true ↔ meets := overlaps_iff
  have hsame : (readState h s).regions[id].fields.sameShape f = true ↔ same := sameShape_iff
  have hrefuse (st : Status) : (readState h s).refuse kRegionSet h.tag st = s.answered h 0x20 st .empty := reply_readState _ _ _ _ _
  have hthr : f.kind = .mirror → f.threshold = some (f.threshold.getD 0) := fun hkind => by
    show (if k = .mirror then some _ else none) = some (Option.getD (if k = .mirror then some _ else none) 0)
    rw [if_pos (show k = .mirror from hkind)]
    rfl
  have hplaced {t : State} (h : Placed s h id f t) : placed t := ⟨h.cond, h.fields, h.successor, h.drops, h.flushes, h.entries, h.total,
    h.running, h.others, h.kept, h.link, h.chans, h.store⟩
  have hne {p q : Condition} (hc : s.regions[id].cond = p) (hpq : p ≠ q) : ¬ (readState h s).regions[id].cond = q :=
    fun hq => hpq (hc.symm.trans hq)
  have hactive {α : Type} {x y z : α} (hc : s.regions[id].cond = .active) :
      (if (readState h s).regions[id].cond = .dropping then x else if (readState h s).regions[id].cond = .absent then y else z) = z :=
    (if_neg (hne hc (by decide))).trans (if_neg (hne hc (by decide)))
  have hshape (hc : s.regions[id].cond = .active) (hsm : ¬ same) (hu : s.inUse id = false) {x y z w v : State} :
      (if (readState h s).regions[id].cond = .dropping then x else if (readState h s).regions[id].cond = .absent then y
        else if (readState h s).regions[id].fields.sameShape f = true then z
        else if (readState h s).inUse id = true then w else v) = v :=
    (hactive hc).trans ((if_neg (hsame.not.mpr hsm)).trans (if_neg (by rw [show (readState h s).inUse id = _ from hu]; decide)))
  refine ⟨fun hc => ?dropping, fun hc hm => ?overlap, fun hc hm ht => ?place, fun hc hsm hm => ?overlapSame,
    fun hc hsm hm => ⟨fun hd => ?still, fun hd he => ?due⟩, fun hc hsm hu => ?busy, fun hc hsm hu hm => ?overlapShape,
    fun hc hsm hu hm => ⟨fun hcard ht => ?card, fun hmir he hr => ?begins, fun hmir he hr hw hd hfl ht => ?ends⟩⟩
  case dropping => exact hexec.trans (congrArg _ ((if_pos hc).trans (hrefuse _)))
  case overlap =>
    exact hexec.trans (congrArg _ ((if_neg (hne hc (by decide))).trans ((if_pos hc).trans ((if_pos (hmeets.mpr hm)).trans (hrefuse _)))))
  case place =>
    refine ⟨_, hexec.trans (congrArg _ ((if_neg (hne hc (by decide))).trans ((if_pos hc).trans (if_neg (hmeets.not.mpr hm))))), ?_⟩
    exact hplaced (placed_of rfl rfl rfl rfl (fun _ _ => rfl) ht)
  case overlapSame =>
    exact hexec.trans (congrArg _ ((hactive hc).trans ((if_pos (hsame.mpr hsm)).trans ((if_pos (hmeets.mpr hm)).trans (hrefuse _)))))
  case still =>
    exact hexec.trans (congrArg _ ((hactive hc).trans ((if_pos (hsame.mpr hsm)).trans ((if_neg (hmeets.not.mpr hm)).trans
      (redefine_still hthr hd)))))
  case due =>
    exact hexec.trans (congrArg _ ((hactive hc).trans ((if_pos (hsame.mpr hsm)).trans ((if_neg (hmeets.not.mpr hm)).trans
      (redefine_due hc hthr hd he)))))
  case busy =>
    exact hexec.trans (congrArg _ ((hactive hc).trans ((if_neg (hsame.not.mpr hsm)).trans ((if_pos hu).trans (hrefuse _)))))
  case overlapShape =>
    exact hexec.trans (congrArg _ ((hshape hc hsm hu).trans ((if_pos (hmeets.mpr hm)).trans (hrefuse _))))
  case card =>
    refine ⟨_, hexec.trans (congrArg _ ((hshape hc hsm hu).trans ((if_neg (hmeets.not.mpr hm)).trans (reshape_card (u := readState h s) hcard)))), ?_, ?_⟩
    · exact hplaced (placed_of rfl rfl rfl rfl (fun _ _ => rfl) ht)
    · rw [placeRegion_now (by exact ht)]
      rfl
  case begins =>
    exact hexec.trans (congrArg _ ((hshape hc hsm hu).trans ((if_neg (hmeets.not.mpr hm)).trans ((reshape_mirror (u := readState h s) hmir).trans
      (demand_begins (by exact hr) (by exact he))))))
  case ends =>
    refine ⟨_, hexec.trans (congrArg _ ((hshape hc hsm hu).trans ((if_neg (hmeets.not.mpr hm)).trans ((reshape_mirror (u := readState h s) hmir).trans
      ((demand_ends (by exact hr) (by exact he) (by exact hw)).trans (mapPassEnded_reshaped (tag := h.tag) (f := f) (by rfl) (by exact hfl)
        (by rfl) (by exact congrArg (· ++ [(⟨h.tag, true⟩ : DropWaiter)]) hd))))))), ?_, ?_⟩
    · refine hplaced (placed_of rfl rfl rfl rfl (fun j hj => ?_) ht)
      exact (getElem_set_fin _ _ _ _).trans (if_neg hj)
    · rw [placeRegion_now (by exact ht)]
      rfl

/-! ### MIRROR_PUT and MIRROR_GET (R115, R116) -/

/-- A MIRROR_PUT of 1 to 1,016 bytes, and a MIRROR_GET of as many, pass the record's checks. -/
theorem recordCheck_mirrorPut {n : Nat} (h1 : 1 ≤ n) (h : n ≤ 1016) : recordCheck kMirrorPut (4 + n) 0 = .ok := by
  simp [recordCheck, allowedLength, kMirrorGet]
  omega

theorem recordCheck_mirrorGet {n : Nat} (h1 : 1 ≤ n) (h : n ≤ 1016) : recordCheck kMirrorGet 6 n = .ok := by
  simp [recordCheck, allowedLength, kMirrorGet]
  omega

section
variable {s : State} {addr n : Nat}

/-- The range lies whole in the extent. -/
def Inside (addr n : Nat) (f : RegionFields) : Prop := f.base ≤ addr ∧ addr + n ≤ f.base + f.length

/-- The range lies in an ACTIVE MIRROR region. -/
def Mirrored (s : State) (addr n : Nat) : Prop :=
  ∃ id : RegionId, s.regions[id].cond = .active ∧ s.regions[id].fields.kind = .mirror ∧ Inside addr n s.regions[id].fields

/-- The range lies in an ACTIVE CARD region, or in an extent that a DROPPING entry holds. -/
def Barred (s : State) (addr n : Nat) : Prop :=
  ∃ id : RegionId, (s.regions[id].cond = .active ∧ s.regions[id].fields.kind = .card ∧ Inside addr n s.regions[id].fields) ∨
    (s.regions[id].cond = .dropping ∧
      (Inside addr n s.regions[id].fields ∨ ∃ f, s.regions[id].successor = some f ∧ Inside addr n f))

theorem covers_iff {f : RegionFields} : f.covers addr n = true ↔ Inside addr n f := by
  simp only [RegionFields.covers, Inside, Bool.and_eq_true, decide_eq_true_eq]

theorem mirrored_iff : ((List.finRange 16).any fun id =>
    s.regions[id].cond = .active && s.regions[id].fields.kind = .mirror && s.regions[id].fields.covers addr n) = true ↔ Mirrored s addr n := by
  simp only [Mirrored, List.any_eq_true, List.mem_finRange, true_and, Bool.and_eq_true, decide_eq_true_eq, covers_iff, and_assoc]

theorem held_covers_iff {g : Region} (hc : g.cond = .dropping) : g.held.any (·.covers addr n) = true ↔
    Inside addr n g.fields ∨ ∃ f, g.successor = some f ∧ Inside addr n f := by
  rw [Region.held, hc]
  simp only [List.any_cons, Bool.or_eq_true, covers_iff, List.any_eq_true, Option.mem_toList]

theorem barred_iff : ((List.finRange 16).any fun id =>
    (s.regions[id].cond = .active && s.regions[id].fields.kind = .card && s.regions[id].fields.covers addr n) ||
      (s.regions[id].cond = .dropping && s.regions[id].held.any (·.covers addr n))) = true ↔ Barred s addr n := by
  simp only [Barred, List.any_eq_true, List.mem_finRange, true_and, Bool.or_eq_true, Bool.and_eq_true, decide_eq_true_eq, covers_iff,
    and_assoc]
  refine exists_congr fun id => or_congr_right (and_congr_right fun hc => ?_)
  rw [← held_covers_iff hc]
  simp only [List.any_eq_true, covers_iff]

/-- The four steps of the check, in order (R115). -/
theorem storeCheck_range (h : 0xFFFFFF < addr) : s.storeCheck addr n = .range :=
  if_pos (by simp only [Config.addressSpace]; omega)

theorem storeCheck_ok (ha : addr ≤ 0xFFFFFF) (hm : Mirrored s addr n) : s.storeCheck addr n = .ok :=
  (if_neg (by simp only [Config.addressSpace]; omega)).trans (if_pos (mirrored_iff.mpr hm))

theorem storeCheck_else (ha : addr ≤ 0xFFFFFF) (hm : ¬ Mirrored s addr n) :
    (Barred s addr n → s.storeCheck addr n = .state) ∧ (¬ Barred s addr n → s.storeCheck addr n = .range) := by
  have hfirst : ∀ {x y z : Status}, (if Config.addressSpace ≤ addr then x else if ((List.finRange 16).any fun id =>
    s.regions[id].cond = .active && s.regions[id].fields.kind = .mirror && s.regions[id].fields.covers addr n) = true then y else z) = z :=
    (if_neg (by simp only [Config.addressSpace]; omega)).trans (if_neg (mirrored_iff.not.mpr hm))
  exact ⟨fun hb => hfirst.trans (if_pos (barred_iff.mpr hb)), fun hb => hfirst.trans (if_neg (barred_iff.not.mpr hb))⟩

end

theorem serveMirrorPut_refused {h : Hdr} {addr : Nat} {bs : List Byte} {u : State} {st : Status}
    (hst : u.storeCheck addr bs.length = st) (hne : st ≠ .ok) : serveMirrorPut h addr bs u = u.refuse kMirrorPut h.tag st := by
  unfold serveMirrorPut
  split
  · next hok => exact absurd (hst.symm.trans hok) hne
  · rw [hst]

theorem serveMirrorGet_refused {h : Hdr} {addr n : Nat} {u : State} {st : Status} (hst : u.storeCheck addr n = st) (hne : st ≠ .ok) :
    serveMirrorGet h addr n u = u.refuse kMirrorGet h.tag st := by
  unfold serveMirrorGet
  split
  · next hok => exact absurd (hst.symm.trans hok) hne
  · rw [hst]

theorem serveMirrorPut_taken {h : Hdr} {addr : Nat} {bs : List Byte} {u : State} (hst : u.storeCheck addr bs.length = .ok) :
    serveMirrorPut h addr bs u = u.submitStoreOp (.put addr bs (some ⟨kMirrorPut, h.tag, .empty⟩)) := by
  unfold serveMirrorPut
  rw [hst]

theorem serveMirrorGet_taken {h : Hdr} {addr n : Nat} {u : State} (hst : u.storeCheck addr n = .ok) :
    serveMirrorGet h addr n u = u.submitStoreOp (.get addr n (some ⟨kMirrorGet, h.tag, .empty⟩)) := by
  unfold serveMirrorGet
  rw [hst]

/-- What a write of a range leaves of every byte. -/
theorem read_writeAll {m : List Host.Cell} (hm : Memory.wf m = true) (addr : Nat) (bs : List Byte) (a : Nat) :
    Memory.read (Memory.writeAll m addr bs) a =
      if ha : addr ≤ a ∧ a < addr + bs.length then bs[a - addr]'(by omega) else Memory.read m a := by
  split
  · next ha =>
    have h := Memory.read_writeAll_inside bs m addr (a - addr) hm (by omega)
    rwa [Nat.add_sub_cancel' ha.1] at h
  · next ha => exact Memory.read_writeAll_outside bs m addr a (by omega)

/-- Settles O42: the check's four steps, then the work at once or after the transfer in flight. -/
theorem mirrorPutAndGetReachTheStore : Obligations.MirrorPutAndGetReachTheStore := by
  intro s h addr bs hs hok h1 hmax
  have hput : exec (.mirrorPut h addr bs) s = .next (serveMirrorPut h addr bs (readState h s)) :=
    exec_served (c := .mirrorPut h addr bs) rfl hs (recordCheck_mirrorPut h1 hmax)
  have hget : exec (.mirrorGet h addr bs.length) s = .next (serveMirrorGet h addr bs.length (readState h s)) :=
    exec_served (c := .mirrorGet h addr bs.length) rfl hs (recordCheck_mirrorGet h1 hmax)
  have hrefused {st : Status} (hst : (readState h s).storeCheck addr bs.length = st) (hne : st ≠ .ok) :
      exec (.mirrorPut h addr bs) s = .next (s.answered h 0x23 st .empty) ∧
        exec (.mirrorGet h addr bs.length) s = .next (s.answered h 0x24 st .empty) :=
    ⟨hput.trans (congrArg _ ((serveMirrorPut_refused hst hne).trans (reply_readState _ _ _ _ _))),
      hget.trans (congrArg _ ((serveMirrorGet_refused hst hne).trans (reply_readState _ _ _ _ _)))⟩
  refine ⟨fun ha => hrefused (storeCheck_range ha) (by decide), fun ha hm => ?_, fun id ha hc hk hb he => ?_⟩
  · obtain ⟨hbar, hfree⟩ := storeCheck_else (s := readState h s) ha hm
    exact ⟨fun hb => hrefused (hbar hb) (by decide), fun hb => hrefused (hfree hb) (by decide)⟩
  · have hst : (readState h s).storeCheck addr bs.length = .ok := storeCheck_ok ha ⟨id, hc, hk, hb, he⟩
    rw [hput, hget, serveMirrorPut_taken hst, serveMirrorGet_taken hst]
    refine ⟨fun ht => ?_, fun ht => ?_⟩
    · have hnow (op : StoreOp) : (readState h s).submitStoreOp op = (readState h s).applyStoreOp op :=
        if_neg (by rw [show (readState h s).transferring = _ from ht]; decide)
      rw [hnow, hnow]
      exact ⟨⟨_, congrArg _ (reply_of_taken (l := s.link) rfl _ _ _ _), read_writeAll hok addr bs⟩, congrArg _ (reply_readState _ _ _ _ _)⟩
    · have hwaits (op : StoreOp) : (readState h s).submitStoreOp op = { readState h s with storeWaits := s.storeWaits ++ [op] } := if_pos ht
      rw [hwaits, hwaits]
      exact ⟨rfl, rfl⟩

end Sys2Proof.Proofs.MapRequests
end

section
/-! PROOFS. A master's memory cycles (R12, R118 to R120, R124, R131, R135). -/

open Sys2Proof Sys2Proof.Machine Sys2Proof.Proofs.Trickle Sys2Proof.Proofs.TransferEnds Sys2Proof.Proofs.RelayRequests
  Sys2Proof.Proofs.MapRequests

namespace Sys2Proof.Proofs.MasterCycles

/-! ### How a cycle is decoded -/

section
variable {s : State} {i : SlotId} {c : ChanId} {a : BitVec 24} {word : Bool} (write : Bool) (data : Half)
  (ho : s.arb.owner = .dma c true) (hi : s.slots[i].closed = true) (heven : word = true → a.toNat % 2 = 0)

theorem not_odd (heven : word = true → a.toNat % 2 = 0) : (word && decide (a.toNat % 2 = 1)) = false := by
  cases word with
  | false => rfl
  | true => rw [heven rfl]; rfl

include ho hi heven

theorem exec_masterCycle_open (hr : s.regionAt a.toNat = none) : exec (.masterCycle ⟨i, a⟩ word write data) s =
    .next (s.silent.openAccess c a.toNat write .openAddress) := by
  have hconn : s.connected i = true := hi
  simp only [exec, execMasterCycle, ho, hconn, not_odd heven, hr, Bool.not_true, Bool.false_eq_true, if_false]

theorem exec_masterCycle_card {id : RegionId} (hr : s.regionAt a.toNat = some id) (hk : s.regions[id].fields.kind = .card) :
    exec (.masterCycle ⟨i, a⟩ word write data) s = .next s.silent := by
  have hconn : s.connected i = true := hi
  simp only [exec, execMasterCycle, ho, hconn, not_odd heven, hr, hk, Bool.not_true, Bool.false_eq_true, if_false]

theorem exec_masterCycle_denied {id : RegionId} (hr : s.regionAt a.toNat = some id) (hk : s.regions[id].fields.kind = .mirror)
    (hm : s.regions[id].fields.master = false) : exec (.masterCycle ⟨i, a⟩ word write data) s =
      .next (s.silent.openAccess c a.toNat write .denied) := by
  have hconn : s.connected i = true := hi
  simp only [exec, execMasterCycle, ho, hconn, not_odd heven, hr, hk, hm, Bool.not_true, Bool.false_eq_true, if_false]

theorem exec_masterCycle_served {id : RegionId} (hr : s.regionAt a.toNat = some id) (hk : s.regions[id].fields.kind = .mirror)
    (hm : s.regions[id].fields.master = true) : exec (.masterCycle ⟨i, a⟩ word write data) s =
      .next (if write then s.serveMasterWrite id a.toNat word data else s.serveMasterRead a.toNat word) := by
  have hconn : s.connected i = true := hi
  simp only [exec, execMasterCycle, ho, hconn, not_odd heven, hr, hk, hm, Bool.not_true, Bool.false_eq_true, if_false]

end

/-- An open access is reported once in a grant, or counted in the notice still held (R120). -/
theorem openAccess_sent {u : State} {c : ChanId} {a : Nat} {write : Bool} {d : OpenDetail} (h : u.openSent = true) :
    u.openAccess c a write d = u := if_pos h

theorem openAccess_first {u : State} {c : ChanId} {a : Nat} {write : Bool} {d : OpenDetail} (h : u.openSent = false)
    (hn : u.heldOpen[c] = none) : u.openAccess c a write d = { u with
      openSent := true, heldOpen := u.heldOpen.set c (some ⟨u.arb.grantTime, a, write, d, u.now, 0⟩) } := by
  unfold State.openAccess
  rw [if_neg (by rw [h]; decide), hn]

theorem openAccess_counted {u : State} {c : ChanId} {a : Nat} {write : Bool} {d : OpenDetail} {n : OpenNotice} (h : u.openSent = false)
    (hn : u.heldOpen[c] = some n) : u.openAccess c a write d = { u with
      openSent := true
      heldOpen := u.heldOpen.set c (some { n with repeats := if n.repeats < 255 then n.repeats + 1 else 255 }) } := by
  unfold State.openAccess
  rw [if_neg (by rw [h]; decide), hn]
  rfl

/-! ### A write (R119, R124, R131, R135) -/

/-- The state of a master's write before trickle and threshold are looked at. -/
def written (id : RegionId) (a : Nat) (word : Bool) (data : Half) (s : State) : State :=
  { s with
    store := Memory.writeAll s.store a (bytesOf word data)
    regions := s.regions.set id { s.regions[id] with ship := marks word s.regions[id] s.now (a - s.regions[id].fields.base) }
    lastMaster := some ⟨true, none⟩, written := setInsert id s.written }

theorem serveMasterWrite_eq (id : RegionId) (a : Nat) (word : Bool) (data : Half) (s : State) :
    s.serveMasterWrite id a word data = (written id a word data s).trickleUpdate.thresholdCheck id := by
  unfold State.serveMasterWrite
  rw [storeCardBytes_eq]
  rfl

theorem regions_written (id r : RegionId) (a : Nat) (word : Bool) (data : Half) (s : State) : (written id a word data s).regions[r] =
    if r = id then { s.regions[id] with ship := marks word s.regions[id] s.now (a - s.regions[id].fields.base) } else s.regions[r] :=
  getElem_set_fin _ _ _ _

/-- A threshold check where bytes are queued begins a pass or changes nothing: nothing but the region's ship queue and the fill line. -/
theorem thresholdCheck_queued {v : State} {id : RegionId} (he : v.regions[id].ship.entries ≠ []) : v.thresholdCheck id =
    if v.regions[id].isMirror = true ∧ v.regions[id].ship.running = false ∧
      v.regions[id].fields.threshold.any (· ≤ v.regions[id].ship.dirtyTotal) = true then
      withEntry id { v.regions[id] with ship := { v.regions[id].ship with running := true } } { v with fillLine := v.fillLine ++ [id] }
    else v := by
  unfold State.thresholdCheck
  dsimp only
  by_cases hm : v.regions[id].isMirror = true
  · by_cases ht : v.regions[id].fields.threshold.any (· ≤ v.regions[id].ship.dirtyTotal) = true
    · rw [if_pos (by rw [hm, ht]; rfl)]
      cases hr : v.regions[id].ship.running with
      | true => rw [if_neg (fun h => nomatch h.2.1), trigger_running hr]
      | false => rw [if_pos ⟨hm, rfl, ht⟩]; exact trigger_begins hm hr he
    · rw [if_neg (by rw [Bool.and_eq_true]; exact fun h => ht h.2), if_neg fun h => ht h.2.2]
  · rw [if_neg (by rw [Bool.and_eq_true]; exact fun h => hm h.1), if_neg fun h => hm h.1]

/-- What a master's write leaves of its region and of everything else. -/
structure MasterWrite (s : State) (id : RegionId) (a : Nat) (word : Bool) (data : Half) (q : ShipQueue) (t : State) : Prop where
  frame : t = { written id a word data s with regions := t.regions, fillLine := t.fillLine }
  entries : t.regions[id].ship.entries = q.entries
  total : t.regions[id].ship.dirtyTotal = q.dirtyTotal
  age : t.regions[id].ship.ageDeadline = q.ageDeadline
  waiters : t.regions[id].ship.waiters = s.regions[id].ship.waiters
  trickling : t.regions[id].ship.trickling = s.isTrickling id
  running : t.regions[id].ship.running = true ↔ s.regions[id].ship.running = true ∨ s.isTrickling id = true ∨
    s.regions[id].fields.threshold.any (· ≤ q.dirtyTotal) = true
  line : s.regions[id].ship.running = false → t.regions[id].ship.running = true → id ∈ t.fillLine

theorem masterWrite {s : State} {id : RegionId} {a : Nat} {word : Bool} (data : Half) {q : ShipQueue} (hm : s.regions[id].isMirror = true)
    (hmarks : marks word s.regions[id] s.now (a - s.regions[id].fields.base) = q) : MasterWrite s id a word data q (s.serveMasterWrite id a word data) := by
  rw [serveMasterWrite_eq]
  obtain ⟨rs, heq, hrs⟩ := trickleUpdate_eq (written id a word data s)
  have hreg := regions_written id id a word data s
  rw [if_pos rfl] at hreg
  have hne : (marks word s.regions[id] s.now (a - s.regions[id].fields.base)).entries ≠ [] := marks_entries_ne_nil _ _ _ _
  have hrun := running_marks word s.regions[id] s.now (a - s.regions[id].fields.base)
  have hwait : (marks word s.regions[id] s.now (a - s.regions[id].fields.base)).waiters = s.regions[id].ship.waiters := by
    unfold marks
    dsimp only
    split <;> rfl
  have htr : (written id a word data s).isTrickling id = s.isTrickling id := by
    simp only [State.isTrickling, hreg]
    rfl
  rw [hmarks] at hreg hne hrun hwait
  have hq : (written id a word data s).trickleUpdate.regions[id] = { s.regions[id] with ship := { q with
      trickling := s.isTrickling id, running := s.regions[id].ship.running || (s.isTrickling id && !s.regions[id].ship.running) } } := by
    have hnil : q.entries.isEmpty = false := by simpa using hne
    rw [heq]
    refine (hrs id).trans ?_
    unfold trickled begins
    rw [htr, hreg]
    dsimp only
    rw [hrun, hnil, Bool.not_false, Bool.and_true]
  have hmirror : (written id a word data s).trickleUpdate.regions[id].isMirror = true := by rw [hq]; exact hm
  rw [thresholdCheck_queued (by rw [hq]; exact hne)]
  have hbegun : s.isTrickling id = true → s.regions[id].ship.running = false →
      id ∈ (written id a word data s).trickleUpdate.fillLine := fun ht hr => by
    rw [heq]
    refine List.mem_append_right _ (List.mem_filter.mpr ⟨List.mem_finRange _, ?_⟩)
    unfold begins
    rw [htr, hreg, ht, hrun, hr]
    simpa using hne
  generalize (written id a word data s).trickleUpdate = v at heq hq hmirror hbegun ⊢
  split
  · next hc =>
    obtain ⟨-, -, hthr⟩ := hc
    rw [hq] at hthr ⊢
    have hent {g : Region} {u : State} : (withEntry id g u).regions[id] = g := entry_withEntry
    refine ⟨?_, ?_, ?_, ?_, ?_, ?_, ?_, ?_⟩
    · rw [heq]; rfl
    · rw [hent]
    · rw [hent]
    · rw [hent]
    · rw [hent]; exact hwait
    · rw [hent]
    · rw [hent]
      exact ⟨fun _ => .inr (.inr hthr), fun _ => rfl⟩
    · exact fun _ _ => List.mem_append_right _ (List.mem_singleton.mpr rfl)
  · next hc =>
    have hno : ¬ (s.regions[id].ship.running = false ∧ s.isTrickling id = false ∧
        s.regions[id].fields.threshold.any (· ≤ q.dirtyTotal) = true) := by
      rintro ⟨hr, ht, hthr⟩
      refine hc ⟨hmirror, ?_, ?_⟩
      · rw [hq, hr, ht]; rfl
      · rw [hq]; exact hthr
    refine ⟨?_, ?_, ?_, ?_, ?_, ?_, ?_, ?_⟩
    · rw [heq]
    · rw [hq]
    · rw [hq]
    · rw [hq]
    · rw [hq]; exact hwait
    · rw [hq]
    · rw [hq]
      dsimp only
      cases hr : s.regions[id].ship.running with
      | true => simp
      | false =>
        cases ht : s.isTrickling id with
        | true => simp
        | false =>
          have : s.regions[id].fields.threshold.any (· ≤ q.dirtyTotal) = false := by
            rw [← Bool.not_eq_true]
            exact fun h => hno ⟨hr, ht, h⟩
          rw [this]
          decide
    · intro hr hrt
      have hrt' : (s.regions[id].ship.running || (s.isTrickling id && !s.regions[id].ship.running)) = true :=
        (congrArg (fun g : Region => g.ship.running) hq).symm.trans hrt
      rw [hr] at hrt'
      exact hbegun (by simpa using hrt') hr

/-- What a write of a value leaves of every byte: the low half first (R119). -/
theorem read_writeAll_bytes {m : List Host.Cell} (hm : Memory.wf m = true) (a : Nat) (data : Half) (b : Nat) :
    Memory.read (Memory.writeAll m a (bytesOf false data)) b = (if b = a then lowByte data else Memory.read m b) ∧
    Memory.read (Memory.writeAll m a (bytesOf true data)) b =
      if b = a then lowByte data else if b = a + 1 then highByte data else Memory.read m b := by
  have hone := Memory.write_wf m a (lowByte data) hm
  refine ⟨?_, ?_⟩
  · show Memory.read (Memory.write m a (lowByte data)) b = _
    split
    · next h => subst h; exact Memory.read_write_same m b _ hm
    · next h => exact Memory.read_write_other m a b _ h
  · show Memory.read (Memory.write (Memory.write m a (lowByte data)) (a + 1) (highByte data)) b = _
    split
    · next h =>
      subst h
      rw [Memory.read_write_other _ _ _ _ (by omega)]
      exact Memory.read_write_same m b _ hm
    · next h =>
      split
      · next h' => subst h'; exact Memory.read_write_same _ _ _ hone
      · next h' =>
        rw [Memory.read_write_other _ _ _ _ h']
        exact Memory.read_write_other _ _ _ _ h

/-- The region at an address is ACTIVE (R104). -/
theorem active_of_regionAt {s : State} {a : Nat} {id : RegionId} (hr : s.regionAt a = some id) : s.regions[id].cond = .active := by
  have h := List.find?_some hr
  simp only [Bool.and_eq_true, decide_eq_true_eq] at h
  exact h.1

theorem mirror_of_regionAt {s : State} {a : Nat} {id : RegionId} (hr : s.regionAt a = some id) (hk : s.regions[id].fields.kind = .mirror) :
    s.regions[id].isMirror = true := by
  simp [-Fin.getElem_fin, Region.isMirror, active_of_regionAt hr, hk]

theorem trickling_of_regionAt {s : State} {a : Nat} {id : RegionId} (hr : s.regionAt a = some id)
    (hk : s.regions[id].fields.kind = .mirror) : s.isTrickling id = true ↔
      ∃ (d : ChanId) (l : LineId), s.chans[d].kind = .fill ∧ s.lines[l].linked = some d ∧ s.lines[l].level = true ∧
        s.regions[id].fields.base ≤ s.chans[d].lastSystemAddress ∧
        s.chans[d].lastSystemAddress < s.regions[id].fields.base + s.regions[id].fields.length := by
  rw [isTrickling_iff]
  exact ⟨fun h => h.2.2, fun h => ⟨by rw [active_of_regionAt hr]; decide, hk, h⟩⟩

/-- Settles O43: no master or no connection, a word at an odd address, and the region at the address. -/
theorem masterCyclesAreDecoded : Obligations.MasterCyclesAreDecoded := by
  intro s i c a data hok
  refine ⟨fun hno word write => ?noMaster, fun hcl word write => ?apart, fun ho hi => ⟨fun hodd write => ?odd,
    fun id hr hk hm => ?served, ?silence⟩⟩
  case noMaster =>
    simp only [exec, execMasterCycle]
    split
    · next c' ho => rw [ho] at hno; cases hno
    · rfl
  case apart =>
    have hconn : s.connected i = false := hcl
    simp only [exec, execMasterCycle]
    split
    · rw [hconn]; rfl
    · rfl
  case odd =>
    have hconn : s.connected i = true := hi
    simp only [exec, execMasterCycle, ho, hconn, hodd]
    rfl
  case served =>
    have hwrite (word : Bool) (he : word = true → a.toNat % 2 = 0) (f : Nat → Byte)
        (hf : ∀ b : Nat, Memory.read (Memory.writeAll s.store a.toNat (bytesOf word data)) b = f b) :
        ∃ t : State, exec (.masterCycle ⟨i, a⟩ word true data) s = .next t ∧ t.written = setInsert id s.written ∧
          t.kept = { s with lastMaster := some ⟨true, none⟩ }.kept ∧
          (∀ d : ChanId, t.chans[d].program = s.chans[d].program) ∧ t.arb = s.arb ∧ ∀ b : Nat, Memory.read t.store b = f b := by
      have hw := masterWrite (a := a.toNat) (word := word) data (mirror_of_regionAt hr hk) rfl
      have hx := exec_masterCycle_served true data ho hi he hr hk hm
      rw [if_pos rfl] at hx
      generalize State.serveMasterWrite id a.toNat word data s = t at hw hx
      refine ⟨t, hx, ?_⟩
      rw [hw.frame]
      exact ⟨rfl, rfl, fun _ => rfl, rfl, hf⟩
    refine ⟨?readByte, fun he => ?readWord, fun _ => ⟨?writeByte, fun he => ?writeWord⟩, fun word he => ?marks⟩
    case readByte => exact exec_masterCycle_served (word := false) false data ho hi (fun h => absurd h (by decide)) hr hk hm
    case readWord => exact exec_masterCycle_served false data ho hi (fun _ => he) hr hk hm
    case writeByte => exact hwrite false (fun h => absurd h (by decide)) _ fun b => (read_writeAll_bytes hok _ _ b).1
    case writeWord => exact hwrite true (fun _ => he) _ fun b => (read_writeAll_bytes hok _ _ b).2
    case marks =>
      intro g off one q trickling ships
      have hw := masterWrite (a := a.toNat) (word := word) data (mirror_of_regionAt hr hk) (q := q) (by cases word <;> rfl)
      have hx := exec_masterCycle_served true data ho hi he hr hk hm
      rw [if_pos rfl] at hx
      have hT : s.isTrickling id = true ↔ trickling := trickling_of_regionAt hr hk
      have hthr : s.regions[id].fields.threshold.any (· ≤ q.dirtyTotal) = true ↔ ∃ n, g.fields.threshold = some n ∧ n ≤ q.dirtyTotal := by
        rw [Option.any_eq_true]
        exact exists_congr fun n => and_congr_right fun _ => decide_eq_true_iff
      generalize State.serveMasterWrite id a.toNat word data s = t at hw hx
      have hrun : t.regions[id].ship.running = true ↔ g.ship.running = true ∨ ships := by
        rw [hw.running, hT, hthr]
      refine ⟨t, hx, ?_, hw.entries, hw.total, hw.age, hw.waiters, by rw [hw.trickling]; exact hT, hrun, fun h0 hs => hw.line h0 (hrun.mpr (.inr hs))⟩
      rw [hw.frame]
      rfl
  case silence =>
    intro word write he silent reported
    have hsent (d : OpenDetail) (hx : exec (.masterCycle ⟨i, a⟩ word write data) s = .next (s.silent.openAccess c a.toNat write d)) :
        reported d :=
      ⟨fun hs hn => hx.trans (congrArg _ (openAccess_first hs hn)), fun n hs hn => hx.trans (congrArg _ (openAccess_counted hs hn)),
        fun hs => hx.trans (congrArg _ (openAccess_sent hs))⟩
    exact ⟨fun hr => hsent _ (exec_masterCycle_open write data ho hi he hr), fun id hr =>
      ⟨fun hk => exec_masterCycle_card write data ho hi he hr hk, fun hk hm => hsent _ (exec_masterCycle_denied write data ho hi he hr hk hm)⟩⟩

end Sys2Proof.Proofs.MasterCycles
end

section
/-! PROOFS. The FILL notice's packing and the payloads' lengths (R127, 11.8), and the admission of a pass (R125, R127, R128, R130). -/

open Sys2Proof Sys2Proof.Machine Sys2Proof.Proofs.MapLaws Sys2Proof.Proofs.PassLaws Sys2Proof.Proofs.Trickle
  Sys2Proof.Proofs.MapRequests Sys2Proof.Proofs.Tenures

namespace Sys2Proof.Proofs.Packing

/-! ### The packing (R127) -/

theorem zip_tail_concat {α : Type} {xs : List α} {x : α} (y : α) (h : xs.getLast? = some x) :
    (xs ++ [y]).zip (xs ++ [y]).tail = xs.zip xs.tail ++ [(x, y)] := by
  induction xs with
  | nil => cases h
  | cons a xs ih =>
    cases xs with
    | nil =>
      cases h
      rfl
    | cons b xs =>
      have := ih (by simpa using h)
      simp only [List.cons_append, List.tail_cons, List.zip_cons_cons] at this ⊢
      rw [this]

/-- The region offsets of a span, and of an entry. -/
def Span.offsets (sp : Span) : List Nat := (List.range sp.len).map (sp.off + ·)

def entryOffsets (e : ShipEntry) : List Nat := (List.range e.span).map (e.granule * 64 + e.lo + ·)

theorem offsets_widened (off len n : Nat) :
    Span.offsets ⟨off, len + n⟩ = Span.offsets ⟨off, len⟩ ++ (List.range n).map (off + len + ·) := by
  simp only [Span.offsets, List.range_add, List.map_append, List.map_map]
  refine congrArg _ (List.map_congr_left fun i _ => ?_)
  simp only [Function.comp]
  omega

/-- How many entries extend the piece before them. -/
def joined (es : List ShipEntry) : Nat := (es.zip es.tail).countP fun p => p.1.extends p.2

/-- A packing under way: entries `es` taken, their pieces `done`, newest first, the payload `used`, the entry just taken `last`. -/
structure Packed (es : List ShipEntry) (used : Nat) (last : Option ShipEntry) (done : List Span) : Prop where
  newestEntry : last = es.getLast?
  size : used = 2 + (done.map fun x => 6 + x.len).sum
  fits : used ≤ 1024
  spans : (done.map Span.len).sum = (es.map ShipEntry.span).sum
  offsets : done.reverse.flatMap Span.offsets = es.flatMap entryOffsets
  pieces : done.length + joined es = es.length
  newest : ∀ d ds, done = d :: ds → ∃ x, es.getLast? = some x ∧ d.off + d.len = x.granule * 64 + x.hi + 1

theorem packed_nil : Packed [] 2 none [] := ⟨rfl, rfl, by decide, rfl, rfl, rfl, fun _ _ h => nomatch h⟩

section
variable {es : List ShipEntry} {used : Nat} {last : Option ShipEntry} {done : List Span} {e : ShipEntry}

theorem span_ends (h : e.lo ≤ e.hi) : e.granule * 64 + e.lo + e.span = e.granule * 64 + e.hi + 1 := by
  unfold ShipEntry.span
  omega

/-- An entry that extends the newest piece. -/
theorem Packed.extend {d : Span} {ds : List Span} {x : ShipEntry} (h : Packed es used last (d :: ds)) (hx : es.getLast? = some x)
    (hj : x.extends e = true) (he : e.lo ≤ e.hi) (hf : used + e.span ≤ 1024) :
    Packed (es ++ [e]) (used + e.span) (some e) (⟨d.off, d.len + e.span⟩ :: ds) := by
  obtain ⟨x', hx', hend⟩ := h.newest d ds rfl
  obtain rfl : x' = x := Option.some.inj (hx'.symm.trans hx)
  have hext : x'.hi = 63 ∧ e.granule = x'.granule + 1 ∧ e.lo = 0 := by
    simpa only [ShipEntry.extends, Bool.and_eq_true, decide_eq_true_eq, and_assoc] using hj
  have hstart : d.off + d.len = e.granule * 64 + e.lo := by omega
  have hspans := h.spans
  have hused := h.size
  have hoff := h.offsets
  have hp := h.pieces
  refine ⟨by simp, ?_, hf, ?_, ?_, ?_, ?_⟩
  · simp only [List.map_cons, List.sum_cons] at hused ⊢
    omega
  · simp only [List.map_cons, List.sum_cons, List.map_append, List.sum_append, List.map_nil, List.sum_nil] at hspans ⊢
    omega
  · rw [List.reverse_cons, List.flatMap_append] at hoff ⊢
    rw [List.flatMap_append, ← hoff, List.append_assoc]
    simp only [List.flatMap_cons, List.flatMap_nil, List.append_nil, offsets_widened, hstart]
    rfl
  · simp only [joined, zip_tail_concat e hx, List.countP_append, List.length_append, List.length_cons] at hp ⊢
    simp [hj]
    omega
  · intro d' ds' heq
    cases heq
    refine ⟨e, by simp, ?_⟩
    have := span_ends he
    show d.off + (d.len + e.span) = _
    omega

/-- An entry that begins a piece. -/
theorem Packed.begin (h : Packed es used last done) (hj : ∀ x, es.getLast? = some x → x.extends e = false) (he : e.lo ≤ e.hi)
    (hf : used + 6 + e.span ≤ 1024) : Packed (es ++ [e]) (used + 6 + e.span) (some e) (⟨e.granule * 64 + e.lo, e.span⟩ :: done) := by
  have hspans := h.spans
  have hused := h.size
  have hoff := h.offsets
  have hp := h.pieces
  refine ⟨by simp, ?_, hf, ?_, ?_, ?_, ?_⟩
  · simp only [List.map_cons, List.sum_cons]
    omega
  · simp only [List.map_cons, List.sum_cons, List.map_append, List.sum_append, List.map_nil, List.sum_nil]
    omega
  · rw [List.reverse_cons, List.flatMap_append, List.flatMap_append, hoff]
    rfl
  · have hjoined : joined (es ++ [e]) = joined es := by
      cases hx : es.getLast? with
      | none => rw [List.getLast?_eq_none_iff.mp hx]; rfl
      | some x => simp [joined, zip_tail_concat e hx, List.countP_append, hj x hx]
    rw [hjoined]
    simp only [List.length_append, List.length_cons, List.length_nil]
    omega
  · intro d' ds' heq
    cases heq
    exact ⟨e, by simp, span_ends he⟩

end

/-- The packing goes on as far as it can: the first entry left does not fit. -/
theorem packEntries_packed (rest : List ShipEntry) (hok : ∀ e ∈ rest, e.lo ≤ e.hi ∧ e.hi < 64) {es : List ShipEntry} {used : Nat}
    {last : Option ShipEntry} {done : List Span} (h : Packed es used last done) (hnil : done = [] → es = []) :
    ∃ (taken : List ShipEntry) (used' : Nat) (last' : Option ShipEntry) (done' : List Span), Packed taken used' last' done' ∧
      es ++ rest = taken ++ (packEntries used last done rest).2 ∧ (packEntries used last done rest).1 = done'.reverse ∧
      ∀ y ys, (packEntries used last done rest).2 = y :: ys → ∃ x, taken.getLast? = some x ∧
        1024 < used' + (if x.extends y = true then 0 else 6) + y.span := by
  induction rest generalizing es used last done with
  | nil => exact ⟨es, used, last, done, h, rfl, rfl, fun _ _ h => nomatch h⟩
  | cons e rest ih =>
    obtain ⟨he, he'⟩ := hok e (List.mem_cons_self ..)
    have hrest := fun y hy => hok y (List.mem_cons_of_mem _ hy)
    have hgo {used' : Nat} {done' : List Span} (h' : Packed (es ++ [e]) used' (some e) done') (hn : done' ≠ []) :=
      ih hrest h' fun h => absurd h hn
    simp only [List.append_assoc, List.cons_append, List.nil_append] at hgo
    have hstop (hno : ∃ x, es.getLast? = some x ∧ 1024 < used + (if x.extends e = true then 0 else 6) + e.span) :
        ∃ (taken : List ShipEntry) (used' : Nat) (last' : Option ShipEntry) (done' : List Span), Packed taken used' last' done' ∧
          es ++ e :: rest = taken ++ e :: rest ∧ done.reverse = done'.reverse ∧
          ∀ y ys, e :: rest = y :: ys → ∃ x, taken.getLast? = some x ∧ 1024 < used' + (if x.extends y = true then 0 else 6) + y.span :=
      ⟨es, used, last, done, h, rfl, rfl, fun y ys heq => by cases heq; exact hno⟩
    unfold packEntries
    cases done with
    | nil =>
      have hes := hnil rfl
      subst hes
      have hused : used = 2 := h.size
      have hspan : e.span ≤ 64 := by unfold ShipEntry.span; omega
      have hfit : used + 6 + e.span ≤ 1024 := by omega
      simp only [Config.maxPayload, if_pos hfit]
      exact hgo (h.begin (fun _ hx => nomatch hx) he hfit) (List.cons_ne_nil _ _)
    | cons d ds =>
      obtain ⟨x, hx, -⟩ := h.newest d ds rfl
      have hlast : last = some x := h.newestEntry.trans hx
      subst hlast
      simp only [Config.maxPayload, Option.any_some]
      by_cases hj : x.extends e = true
      · rw [if_pos hj]
        by_cases hfit : used + e.span ≤ 1024
        · rw [if_pos hfit]
          exact hgo (h.extend hx hj he hfit) (List.cons_ne_nil _ _)
        · rw [if_neg hfit]
          refine hstop ⟨x, hx, ?_⟩
          rw [if_pos hj]
          omega
      · rw [if_neg hj]
        by_cases hfit : used + 6 + e.span ≤ 1024
        · rw [if_pos hfit]
          refine hgo (h.begin (fun x' hx' => ?_) he hfit) (List.cons_ne_nil _ _)
          obtain rfl : x = x' := Option.some.inj (hx.symm.trans hx')
          exact Bool.eq_false_iff.mpr hj
        · rw [if_neg hfit]
          refine hstop ⟨x, hx, ?_⟩
          rw [if_neg hj]
          omega

/-! ### The payloads (11.8) -/

theorem length_leBytes (n v : Nat) : (leBytes n v).length = n := by
  induction n generalizing v with
  | zero => rfl
  | succ n ih => rw [leBytes, List.length_cons, ih]

theorem length_fillPayload (id : RegionId) (ps : List Piece) :
    (fillPayload id ps).length = 2 + (ps.map fun p => 6 + p.bytes.length).sum := by
  have hpiece (p : Piece) : p.encode.length = 6 + p.bytes.length := by
    simp only [Piece.encode, List.length_append, length_leBytes]
  simp only [fillPayload, List.length_append, List.length_cons, List.length_nil, List.length_flatMap, hpiece]

theorem length_interruptPayload (o : Origin) (time : Time) (ls : List LineReport) :
    (interruptPayload o time ls).length = 6 + 6 * ls.length := by
  have hline (r : LineReport) : r.encode.length = 6 := by
    simp only [LineReport.encode, List.length_append, List.length_cons, List.length_nil, length_leBytes]
  simp only [interruptPayload, List.length_append, List.length_cons, List.length_nil, List.length_flatMap, hline, length_leBytes,
    List.map_const', List.sum_replicate, smul_eq_mul]
  omega

/-- Settles O44: the packing by its invariant, the payloads by their parts. -/
theorem noticesFitTheirPayload : Obligations.NoticesFitTheirPayload := by
  refine ⟨?_, length_fillPayload, length_interruptPayload⟩
  intro es hok p joins size
  obtain ⟨taken, used, last, done, hp, heq, hpieces, hstop⟩ := packEntries_packed es hok packed_nil fun _ => rfl
  have hmap {α : Type} (f : Span → α) : (p.1.map f) = (done.map f).reverse := by
    rw [show p.1 = done.reverse from hpieces, List.map_reverse]
  have hsize : size = used := by
    show 2 + (p.1.map fun x => 6 + x.len).sum = used
    rw [hmap, List.sum_reverse]
    exact hp.size.symm
  refine ⟨taken, heq, hsize ▸ hp.fits, ?_, fun hne htaken => ?_, ?_, ?_, fun x y rest hrest hx => ?_⟩
  · rw [hmap, List.sum_reverse]
    exact hp.spans
  · subst htaken
    cases hleft : p.2 with
    | nil => exact hne (heq.trans hleft)
    | cons y ys =>
      obtain ⟨x, hx, -⟩ := hstop y ys hleft
      cases hx
  · rw [show p.1 = done.reverse from hpieces]
    exact hp.offsets
  · rw [show p.1 = done.reverse from hpieces, List.length_reverse]
    exact hp.pieces
  · obtain ⟨x', hx', hlt⟩ := hstop y rest hrest
    obtain rfl : x' = x := Option.some.inj (hx'.symm.trans hx)
    rw [hsize]
    exact hlt

end Sys2Proof.Proofs.Packing

namespace Sys2Proof.Proofs.PassAdmission

/-! ### Replies in their order -/

/-- The record of a reply that waited. -/
def replyOf (p : PendingReply) : Report := .reply (p.kind + 0x80) p.tag .ok p.body

/-- Replies that waited join the tail in order, each by its reservation. -/
theorem each_replyNow_placed {α : Type} (xs : List α) (r : α → PendingReply) (s : State) (h : xs.length ≤ s.link.reservations) :
    (s.each xs fun x t => t.replyNow (r x)) = { s with link := { s.link with
      reports := s.link.reports ++ xs.map fun x => replyOf (r x), reservations := s.link.reservations - xs.length } } := by
  induction xs generalizing s with
  | nil => simp [State.each]
  | cons x xs ih =>
    rw [List.length_cons] at h
    have hplace : s.replyNow (r x) = { s with link := { s.link with
        reports := s.link.reports ++ [replyOf (r x)], reservations := s.link.reservations - 1 } } := by
      rw [State.replyNow, State.reply, State.modLink, Link.place, if_neg (by omega), replyKind]
      rfl
    rw [State.each_cons, hplace, ih _ (by show xs.length ≤ s.link.reservations - 1; omega)]
    simp only [List.map_cons, List.append_assoc, List.singleton_append, List.length_cons]
    rw [Nat.sub_sub, Nat.add_comm]

/-! ### What a pass ships (R125, R127, R128) -/

/-- The queue once the notice has taken its entries. -/
def leftQueue (g : Region) : ShipQueue :=
  { g.ship with
    entries := (packEntries 2 none [] g.ship.entries).2
    dirtyTotal := g.ship.dirtyTotal - ((g.ship.entries.take
      (g.ship.entries.length - (packEntries 2 none [] g.ship.entries).2.length)).map ShipEntry.span).sum
    ageDeadline := (packEntries 2 none [] g.ship.entries).2.head?.map fun x => ⟨x.joined, g.fields.age.getD 0 * 1000⟩ }

/-- The FILL notice: the pieces with the bytes the store holds now. -/
def fillNotice (id : RegionId) (s : State) : Notice :=
  .fill id ((packEntries 2 none [] s.regions[id].ship.entries).1.map fun x => ⟨s.regions[id].fields.base + x.off,
    (List.range x.len).map fun i => Memory.read s.store (s.regions[id].fields.base + x.off + i)⟩)

theorem noticed_eq (id : RegionId) (s : State) : noticed id s = withEntry id { s.regions[id] with ship := leftQueue s.regions[id] } { s with
    fillLine := s.fillLine.tail, link := { s.link with reports := s.link.reports ++ [.notice (fillNotice id s)] } } := rfl

/-! ### The end of the pass (R111, R113, R114, R130) -/

section
variable {u : State} {id : RegionId} {e : Region}

/-- The blocks told of the end of a pass, over an entry: the channels and the relay know, the pass is IDLE. -/
theorem toldBlocks_withEntry : ∃ (cs : Vector Chan 7) (r : Relay), toldBlocks id (withEntry id e u) =
    withEntry id { e with ship := { e.ship with running := false, waiters := {} } } { u with chans := cs, relay := r } := by
  refine ⟨(toldBlocks id (withEntry id e u)).chans, (toldBlocks id (withEntry id e u)).relay, ?_⟩
  have h := toldBlocks_eq id (withEntry id e u)
  rw [entry_withEntry] at h
  rw [h]
  unfold withEntry
  simp only [Vector.set_set]

/-- A dropped region is gone, then its requests are answered. -/
theorem removeRegion_gone (hs : e.successor = none) : (withEntry id e u).removeRegion id =
    State.each { withEntry id {} u with written := setRemove id u.written } e.dropWaiters fun w t => t.replyNow (w.reply id {}) := by
  unfold State.removeRegion
  dsimp only
  rw [entry_withEntry, hs]
  unfold State.modRegion withEntry
  simp only [Vector.set_set]

/-- A reshaped region's successor is placed, then its requests are answered. -/
theorem removeRegion_replaced {f : RegionFields} (hs : e.successor = some f) (ht : u.transferring = false) :
    (withEntry id e u).removeRegion id = (placedRegion id f { withEntry id e u with written := setRemove id u.written }).each e.dropWaiters
      fun w t => t.replyNow (w.reply id f) := by
  unfold State.removeRegion
  dsimp only
  rw [entry_withEntry, hs]
  dsimp only
  rw [placeRegion_each (by exact ht)]
  exact List.foldl_map

/-- The replies a pass's end brings through the memory map: the flushes', and those of a region that goes (R111, R113, R114). -/
def flushReplies (e : Region) : List Report := e.flushWaiters.map fun tag => .reply 0xA2 tag .ok .empty

def dropReplies (id : RegionId) (e : Region) : List Report :=
  e.dropWaiters.map fun w => replyOf (w.reply id (e.successor.getD {}))

theorem each_flushes (v : State) : ∃ l : Link,
    (v.each e.flushWaiters fun tag t => t.replyNow ⟨kRegionFlush, tag, .empty⟩) = { v with link := l } ∧
      (e.flushWaiters.length ≤ v.link.reservations → l = { v.link with
        reports := v.link.reports ++ flushReplies e, reservations := v.link.reservations - e.flushWaiters.length }) := by
  refine ⟨_, each_replyNow_eq e.flushWaiters (fun tag => ⟨kRegionFlush, tag, .empty⟩) v, fun h => ?_⟩
  rw [each_replyNow_placed _ _ _ h]
  rfl

theorem each_drops (v : State) (f : RegionFields) : ∃ l : Link,
    (v.each e.dropWaiters fun w t => t.replyNow (w.reply id f)) = { v with link := l } ∧
      (e.dropWaiters.length ≤ v.link.reservations →
        l.reports = v.link.reports ++ e.dropWaiters.map fun w => replyOf (w.reply id f)) := by
  refine ⟨_, each_replyNow_eq e.dropWaiters (fun w => w.reply id f) v, fun h => ?_⟩
  rw [each_replyNow_placed _ _ _ h]

/-- The memory map told of the end of a pass on an ACTIVE region. -/
theorem mapPassEnded_active (hc : e.cond ≠ .dropping) : ∃ l : Link, (withEntry id e u).mapPassEnded id =
    { withEntry id { e with flushWaiters := [] } u with link := l } ∧
      (e.flushWaiters.length ≤ u.link.reservations → l.reports = u.link.reports ++ flushReplies e) := by
  have h := mapPassEnded_withEntry (u := u) (id := id) (g := e)
  dsimp only at h
  rw [if_neg hc] at h
  obtain ⟨l, hl, hplaced⟩ := each_flushes (e := e) (withEntry id { e with flushWaiters := [] } u)
  exact ⟨l, h.trans hl, fun hle => by rw [hplaced hle]; rfl⟩

/-- The memory map told of the end of a DROPPING region's pass: the flushes are answered, then the region goes. -/
theorem mapPassEnded_dropping (hc : e.cond = .dropping) : ∃ l : Link, (withEntry id e u).mapPassEnded id =
    (withEntry id { e with flushWaiters := [] } { u with link := l }).removeRegion id ∧
      (e.flushWaiters.length ≤ u.link.reservations → l = { u.link with
        reports := u.link.reports ++ flushReplies e, reservations := u.link.reservations - e.flushWaiters.length }) := by
  have h := mapPassEnded_withEntry (u := u) (id := id) (g := e)
  dsimp only at h
  rw [if_pos hc] at h
  obtain ⟨l, hl, hplaced⟩ := each_flushes (e := e) (withEntry id { e with flushWaiters := [] } u)
  rw [hl] at h
  exact ⟨l, h, hplaced⟩

theorem mapPassEnded_gone (hc : e.cond = .dropping) (hs : e.successor = none) : ∃ l : Link, (withEntry id e u).mapPassEnded id =
    { withEntry id {} u with written := setRemove id u.written, link := l } ∧
      (e.flushWaiters.length + e.dropWaiters.length ≤ u.link.reservations →
        l.reports = u.link.reports ++ (flushReplies e ++ dropReplies id e)) := by
  obtain ⟨l, hl, hplaced⟩ := mapPassEnded_dropping (u := u) (id := id) hc
  obtain ⟨m, hm, hdrops⟩ := each_drops (id := id) (e := e)
    { withEntry id {} { u with link := l } with written := setRemove id u.written } {}
  refine ⟨m, (hl.trans (removeRegion_gone hs)).trans hm, fun hle => ?_⟩
  have hl' := hplaced (by omega)
  rw [hdrops (by show e.dropWaiters.length ≤ l.reservations; rw [hl']; show _ ≤ u.link.reservations - _; omega)]
  show l.reports ++ _ = _
  rw [hl', ← List.append_assoc, dropReplies, hs]
  rfl

theorem mapPassEnded_replaced {f : RegionFields} (hc : e.cond = .dropping) (hs : e.successor = some f) (ht : u.transferring = false) :
    ∃ l : Link, (withEntry id e u).mapPassEnded id =
      { placedRegion id f { withEntry id { e with flushWaiters := [] } u with written := setRemove id u.written } with link := l } ∧
      (e.flushWaiters.length + e.dropWaiters.length ≤ u.link.reservations →
        l.reports = u.link.reports ++ (flushReplies e ++ dropReplies id e)) := by
  obtain ⟨l, hl, hplaced⟩ := mapPassEnded_dropping (u := u) (id := id) hc
  obtain ⟨m, hm, hdrops⟩ := each_drops (id := id) (e := e) (placedRegion id f
    { withEntry id { e with flushWaiters := [] } { u with link := l } with written := setRemove id u.written }) f
  refine ⟨m, (hl.trans (removeRegion_replaced hs ht)).trans hm, fun hle => ?_⟩
  have hl' := hplaced (by omega)
  rw [hdrops (by show e.dropWaiters.length ≤ l.reservations; rw [hl']; show _ ≤ u.link.reservations - _; omega)]
  show l.reports ++ _ = _
  rw [hl', ← List.append_assoc, dropReplies, hs]
  rfl

end

theorem dropReplies_eq (id : RegionId) (e : Region) : dropReplies id e = e.dropWaiters.map fun x =>
    if x.reshape = true then .reply 0xA0 x.tag .ok (.region id (e.successor.getD {})) else .reply 0xA1 x.tag .ok .empty := by
  refine List.map_congr_left fun w _ => ?_
  unfold DropWaiter.reply
  split <;> rfl

/-- The entry of a region whose pass has ended, but for what the memory map does. -/
def endedEntry (g : Region) : Region := { g with ship := { leftQueue g with running := false, waiters := {} } }

/-- The state whose pass has ended once the notice is placed and the blocks are told, before the memory map is. -/
def shippedState (id : RegionId) (cs : Vector Chan 7) (r : Relay) (s : State) : State := { s with
  fillLine := s.fillLine.tail, chans := cs, relay := r
  link := { s.link with reports := s.link.reports ++ [.notice (fillNotice id s)] } }

theorem admitFill_last {s : State} {id : RegionId} (h : (packEntries 2 none [] s.regions[id].ship.entries).2 = []) :
    s.admitFill id = (noticed id s).endPass id := (admitFill_eq id s).trans (if_pos (by rw [h]; rfl))

/-- With nothing left the pass is over: the blocks are told, and the memory map where it waits. -/
theorem admitFill_ends {s : State} {id : RegionId} (h : (packEntries 2 none [] s.regions[id].ship.entries).2 = []) :
    ∃ (cs : Vector Chan 7) (r : Relay), s.admitFill id = if s.regions[id].ship.waiters.map = true then
      (withEntry id (endedEntry s.regions[id]) (shippedState id cs r s)).mapPassEnded id
      else withEntry id (endedEntry s.regions[id]) (shippedState id cs r s) := by
  rw [admitFill_last h, noticed_eq]
  obtain ⟨cs, r, hcs⟩ := toldBlocks_withEntry (u := { s with
    fillLine := s.fillLine.tail, link := { s.link with reports := s.link.reports ++ [.notice (fillNotice id s)] } }) (id := id)
    (e := { s.regions[id] with ship := leftQueue s.regions[id] })
  refine ⟨cs, r, ?_⟩
  rw [endPass_eq_told, hcs, entry_withEntry]
  rfl

theorem admitFill_goes_on {s : State} {id : RegionId} (h : (packEntries 2 none [] s.regions[id].ship.entries).2 ≠ []) :
    s.admitFill id = withEntry id { s.regions[id] with ship := leftQueue s.regions[id] } { s with
      fillLine := s.fillLine.tail ++ [id], link := { s.link with reports := s.link.reports ++ [.notice (fillNotice id s)] } } := by
  rw [admitFill_eq, if_neg (by simpa using h), noticed_eq]
  rfl

theorem exec_fillPassAdmit {s : State} {id : RegionId} (hroom : s.link.canAdmit = true) (hfirst : s.firstClaimant = some (.fill id)) :
    exec .fillPassAdmit s = .next (if s.transferring then s else s.admitFill id) := by
  simp only [exec, execFillPassAdmit, State.admissible, hroom, if_true, hfirst, Claimant.isFill, Bool.true_and, Bool.not_eq_true']
  cases s.transferring <;> rfl

/-- The relay told of the end of a pass (R143). -/
theorem relay_admitFill {s : State} {id : RegionId} (h : (packEntries 2 none [] s.regions[id].ship.entries).2 = []) :
    (s.admitFill id).relay = if s.regions[id].ship.waiters.relay = true then
      { s.relay with
        awaited := setRemove id s.relay.awaited
        hand := if s.relay.hand = .flushing ∧ setRemove id s.relay.awaited = [] then .claiming else s.relay.hand }
      else s.relay := by
  rw [admitFill_last h, relay_endPass, noticed_eq, entry_withEntry]
  simp only [Bool.and_eq_true, decide_eq_true_eq, List.isEmpty_iff]
  rfl

theorem awaited_admitFill {s : State} {id : RegionId} (h : (packEntries 2 none [] s.regions[id].ship.entries).2 = []) (c : ChanId) :
    (s.admitFill id).chans[c].awaitedRegions = if c ∈ s.regions[id].ship.waiters.chans then
      setRemove id s.chans[c].awaitedRegions else s.chans[c].awaitedRegions := by
  rw [admitFill_last h, chans_endPass, noticed_eq, entry_withEntry]
  show (if c ∈ s.regions[id].ship.waiters.chans then _ else _ : Chan).awaitedRegions = _
  split <;> rfl

/-- Settles O45: what is taken, then whether entries are left, whether the memory map waits, and whether the region is DROPPING. -/
theorem admittedPassesShip : Obligations.AdmittedPassesShip := by
  intro s id rest hroom hfirst hline
  have hx := exec_fillPassAdmit hroom hfirst
  refine ⟨fun ht => ?_, ?_⟩
  · rw [hx, if_pos ht]
  intro ht g base p taken q w flushes drops
  rw [if_neg (by rw [ht]; decide)] at hx
  have hcalm := s.calm_admitFill id
  have hcop := TransferEnds.copied_admitFill id s
  have harb : (s.admitFill id).arb = s.arb := State.arb_of_outer hcop.outer
  have hdrops : dropReplies id (endedEntry g) = drops := dropReplies_eq _ _
  have hother (e : Region) (u : State) (hu : u.regions = s.regions) (j : RegionId) (hj : j ≠ id) : (withEntry id e u).regions[j] = s.regions[j] := by
    unfold withEntry
    rw [hu]
    exact (getElem_set_fin _ _ _ _).trans (if_neg hj)
  by_cases hp : p.2 = []
  · obtain ⟨cs, r, heq⟩ := admitFill_ends hp
    have hrelay := relay_admitFill hp
    have hawait := awaited_admitFill hp
    obtain ⟨-, -, ⟨more, hmore⟩, -⟩ := State.calm_endPass id (noticed id s)
    rw [← admitFill_last hp] at hmore
    have hreps : (s.admitFill id).link.reports = s.link.reports ++ .notice (fillNotice id s) :: more := by
      rw [hmore, noticed_eq]
      exact List.append_assoc _ _ _
    have hcancel {xs : List Report} (h : (s.admitFill id).link.reports = (shippedState id cs r s).link.reports ++ xs) : more = xs := by
      rw [hreps] at h
      have h' : s.link.reports ++ ([.notice (fillNotice id s)] ++ more) = s.link.reports ++ ([.notice (fillNotice id s)] ++ xs) :=
        h.trans (List.append_assoc _ _ _)
      exact List.append_cancel_left (List.append_cancel_left h')
    have hothers (j : RegionId) (hj : j ≠ id) : (s.admitFill id).regions[j] = s.regions[j] := by
      obtain ⟨e, he, -⟩ := regions_endPass id (noticed id s)
      rw [admitFill_last hp, he, getElem_set_fin, if_neg hj, noticed_eq]
      exact hother _ _ rfl j hj
    have hfill : (s.admitFill id).fillLine = rest := by
      rw [admitFill_last hp, fillLine_endPass, noticed_eq]
      show s.fillLine.tail = rest
      rw [hline]
      rfl
    generalize s.admitFill id = t at *
    refine ⟨t, more, hx, hcalm.apart, hcop.lines, harb, hreps, hothers, fun h => absurd hp h, fun _ => ⟨hfill, hawait, hrelay,
      fun hm => ?alone, fun hm hc => ?flushed, fun hm hc => ?removed⟩⟩
    case alone =>
      have ht' : t = withEntry id (endedEntry g) (shippedState id cs r s) := heq.trans (if_neg (by rw [show w.map = false from hm]; decide))
      refine ⟨hcancel (by rw [ht', List.append_nil]; rfl), ?_⟩
      rw [ht', entry_withEntry]
      rfl
    case flushed =>
      obtain ⟨l, hl, hplaced⟩ := mapPassEnded_active (u := shippedState id cs r s) (id := id) (e := endedEntry g) hc
      have ht' := (heq.trans (if_pos hm)).trans hl
      refine ⟨fun hle => hcancel (by rw [ht']; exact hplaced hle), ?_⟩
      rw [ht']
      exact entry_withEntry
    case removed =>
      cases hs : g.successor with
      | none =>
        obtain ⟨l, hl, hplaced⟩ := mapPassEnded_gone (u := shippedState id cs r s) (id := id) (e := endedEntry g) hc hs
        have ht' := (heq.trans (if_pos hm)).trans hl
        refine ⟨by rw [ht']; rfl, fun hle => hcancel (by rw [ht', ← hdrops]; exact hplaced hle), fun _ => ⟨?_, by rw [ht']; rfl⟩,
          fun f hf => (nomatch hf)⟩
        rw [ht']
        exact entry_withEntry
      | some f =>
        obtain ⟨l, hl, hplaced⟩ := mapPassEnded_replaced (u := shippedState id cs r s) (id := id) (e := endedEntry g) hc hs ht
        have ht' := (heq.trans (if_pos hm)).trans hl
        refine ⟨by rw [ht']; rfl, fun hle => hcancel (by rw [ht', ← hdrops]; exact hplaced hle), fun h => (nomatch h), fun f' hf => ?_⟩
        cases hf
        obtain ⟨tr, hreg⟩ : ∃ tr : Bool, t.regions[id] = { cond := .active, fields := f, ship := { trickling := tr } } :=
          ⟨_, by rw [ht']; exact entry_placedRegion id f _⟩
        refine ⟨by rw [hreg], by rw [hreg], by rw [hreg], by rw [hreg], by rw [hreg], by rw [hreg], by rw [hreg], fun _ a => ?_⟩
        rw [ht']
        exact read_placedRegion id f _ a
  · have heq := admitFill_goes_on hp
    refine ⟨s.admitFill id, [], hx, hcalm.apart, hcop.lines, harb, ?_, ?_, fun _ => ⟨rfl, ?_, ?_, ?_, ?_⟩, fun h => absurd h hp⟩
    · rw [heq]; rfl
    · rw [heq]; exact hother _ _ rfl
    · rw [heq, ← show s.fillLine.tail = rest by rw [hline]; rfl]; rfl
    · rw [heq, entry_withEntry]; rfl
    · rw [heq]; rfl
    · rw [heq]; rfl

end Sys2Proof.Proofs.PassAdmission
end

section
/-! PROOFS. The cycles of the card bus: their lengths and outcomes, the shared lines, and what a card sees (R12, R19 to R30, R44, R47,
R51, R96). -/

open Sys2Proof Sys2Proof.Machine Sys2Proof.Proofs.TransferEnds

namespace Sys2Proof.Proofs.Cycles

/-! ### The data lines (R12, R23) -/

section
variable {s : State} {e : BusEnd} {k : Nat}

/-- A connected card drives a data line to a level. -/
def Drives (s : State) (as : List Answer) (k : Nat) (v : Bool) : Prop :=
  ∃ a ∈ as, s.slots[a.slot].closed = true ∧ a.lines.getLsbD k = true ∧ a.data.getLsbD k = v

theorem drives_cons {a : Answer} {as : List Answer} {v : Bool} : Drives s (a :: as) k v ↔
    (s.slots[a.slot].closed = true ∧ a.lines.getLsbD k = true ∧ a.data.getLsbD k = v) ∨ Drives s as k v := by
  simp only [Drives, List.exists_mem_cons_iff]

theorem drivenLines_iff (as : List Answer) (hk : k < 16) :
    ((s.drivenLines as).1.getLsbD k = true ↔ Drives s as k true) ∧ ((s.drivenLines as).2.getLsbD k = true ↔ Drives s as k false) := by
  induction as with
  | nil => simp [State.drivenLines, Drives]
  | cons a as ih =>
    obtain ⟨hhigh, hlow⟩ := ih
    rw [drives_cons, drives_cons, ← hhigh, ← hlow]
    have hcons : s.drivenLines (a :: as) = if s.connected a.slot then
        ((s.drivenLines as).1 ||| a.lines &&& a.data, (s.drivenLines as).2 ||| a.lines &&& ~~~a.data) else s.drivenLines as := rfl
    rw [hcons]
    by_cases hc : s.slots[a.slot].closed = true
    · rw [if_pos (show s.connected a.slot = true from hc)]
      simp only [BitVec.getLsbD_or, BitVec.getLsbD_and, BitVec.getLsbD_not, hk, decide_true, Bool.true_and, Bool.or_eq_true,
        Bool.and_eq_true, Bool.not_eq_true', hc, true_and]
      exact ⟨or_comm, or_comm⟩
    · rw [if_neg (show ¬ s.connected a.slot = true from hc)]
      simp only [hc, false_and, false_or, Bool.false_eq_true, and_self]

/-- A data line at the end phase. -/
theorem dataLines_bit (hk : k < 16) : (s.dataLines e).getLsbD k =
    (!(s.drivenLines e.answers).2.getLsbD k || ((s.drivenLines e.answers).1.getLsbD k && e.contested.getLsbD k)) := by
  simp only [State.dataLines, BitVec.getLsbD_or, BitVec.getLsbD_and, BitVec.getLsbD_not, hk, decide_true, Bool.true_and]

/-- The level of a data line by who drives it (R12, R23; log entry 22). -/
theorem dataLines_level (hk : k < 16) :
    (¬ Drives s e.answers k true → ¬ Drives s e.answers k false → (s.dataLines e).getLsbD k = true) ∧
    (∀ v : Bool, Drives s e.answers k v → ¬ Drives s e.answers k (!v) → (s.dataLines e).getLsbD k = v) ∧
    (Drives s e.answers k true → Drives s e.answers k false → (s.dataLines e).getLsbD k = e.contested.getLsbD k) := by
  obtain ⟨hhigh, hlow⟩ := drivenLines_iff (s := s) e.answers hk
  rw [dataLines_bit hk, ← hhigh, ← hlow]
  refine ⟨fun _ hl => ?_, fun v => ?_, fun hh hl => ?_⟩
  · rw [Bool.not_eq_true] at hl
    rw [hl]
    rfl
  · cases v with
    | true =>
      rw [← hhigh, Bool.not_true, ← hlow, Bool.not_eq_true]
      intro hh hl
      rw [hl]
      rfl
    | false =>
      rw [← hlow, Bool.not_false, ← hhigh, Bool.not_eq_true]
      intro hl hh
      rw [hl, hh]
      rfl
  · rw [hh, hl]
    rfl

theorem lowLines_bit (hk : k < 8) : (s.lowLines e).getLsbD k = (s.dataLines e).getLsbD k := by
  simp [State.lowLines, lowByte, hk]

theorem highLines_bit (hk : k < 8) : (s.highLines e).getLsbD k = (s.dataLines e).getLsbD (8 + k) := by
  simp [State.highLines, highByte, hk]

theorem lowLines_eq {v : Byte} (h : ∀ k : Nat, k < 8 → (s.dataLines e).getLsbD k = v.getLsbD k) : s.lowLines e = v :=
  BitVec.eq_of_getLsbD_eq fun k hk => (lowLines_bit hk).trans (h k hk)

theorem highLines_eq {v : Byte} (h : ∀ k : Nat, k < 8 → (s.dataLines e).getLsbD (8 + k) = v.getLsbD k) : s.highLines e = v :=
  BitVec.eq_of_getLsbD_eq fun k hk => (highLines_bit hk).trans (h k hk)

theorem allOnes_bit (hk : k < 8) : (0xFF : Byte).getLsbD k = true := by
  have : ∀ k < 8, (0xFF : Byte).getLsbD k = true := by decide
  exact this k hk

/-- One card that answers alone. -/
theorem drives_single {i : SlotId} {m v : Half} {b : Bool} (hi : s.slots[i].closed = true) :
    Drives s [⟨i, m, v⟩] k b ↔ m.getLsbD k = true ∧ v.getLsbD k = b := by
  simp [-Fin.getElem_fin, Drives, hi]

/-- A line that the one card that answers drives has its level, another reads 1. -/
theorem dataLines_single {i : SlotId} {m v : Half} (hi : s.slots[i].closed = true) (he : e.answers = [⟨i, m, v⟩]) (hk : k < 16) :
    (s.dataLines e).getLsbD k = if m.getLsbD k = true then v.getLsbD k else true := by
  obtain ⟨hnone, hone, -⟩ := dataLines_level (s := s) (e := e) hk
  simp only [he, drives_single hi] at hnone hone
  split
  · next hm => exact hone _ ⟨hm, rfl⟩ (by simp)
  · next hm => exact hnone (fun h => hm h.1) fun h => hm h.1

theorem mask_low (hk : k < 8) : (0x00FF : Half).getLsbD k = true ∧ (0x00FF : Half).getLsbD (8 + k) = false ∧
    (0xFFFF : Half).getLsbD k = true ∧ (0xFFFF : Half).getLsbD (8 + k) = true := by
  have : ∀ k < 8, (0x00FF : Half).getLsbD k = true ∧ (0x00FF : Half).getLsbD (8 + k) = false ∧
    (0xFFFF : Half).getLsbD k = true ∧ (0xFFFF : Half).getLsbD (8 + k) = true := by decide
  exact this k hk

theorem byte_low {i : SlotId} {m v : Half} (hi : s.slots[i].closed = true) (he : e.answers = [⟨i, m, v⟩])
    (hm : ∀ k < 8, m.getLsbD k = true) : s.lowLines e = v.truncate 8 :=
  lowLines_eq fun k hk => by
    rw [dataLines_single hi he (by omega), if_pos (hm k hk)]
    simp [hk]

end

/-! ### The samples (R12, R13, R19, R21) -/

section
variable {s : State} {sw : List (List SlotId)} {x : LineSample}

/-- A slot was connected when a sample was taken (log entry 37). -/
def Joined (s : State) (sw : List (List SlotId)) (x : LineSample) (i : SlotId) : Prop := s.connectedAfter sw x.changes i = true

theorem finds_iff : s.finds sw x = true ↔ ∃ i ∈ x.slots, Joined s sw x i := by
  rw [State.finds, List.any_eq_true]
  rfl

theorem length_takeWhile_all {α : Type} {p : α → Bool} {xs : List α} (h : ∀ x ∈ xs, p x = true) : (xs.takeWhile p).length = xs.length := by
  rw [List.takeWhile_eq_self_iff.mpr h]

theorem takeWhile_stops {α : Type} {p : α → Bool} {before after : List α} {y : α} (hb : ∀ x ∈ before, p x = true) (hy : p y = false) :
    (before ++ y :: after).takeWhile p = before := by
  rw [List.takeWhile_append_of_pos hb, List.takeWhile_cons, if_neg (by rw [hy]; decide), List.append_nil]

end

/-! ### How an access ends (R22, R24 to R30) -/

section
variable {s : State} {a : Access} {e : BusEnd}

/-- The cycle of the width in force runs to the wait limit (R22). -/
def Late (s : State) (a : Access) (e : BusEnd) (w : Nat) : Prop :=
  a.timedOut = true ∨ (s.readyHeld a.switched e ≠ 0 ∧ limitClocks a.clock a.limit ≤ w + s.readyHeld a.switched e)

theorem late_iff (w : Nat) : cycleTimesOut a.timedOut w a.limit a.clock (s.readyHeld a.switched e) = true ↔ Late s a e w := by
  simp only [cycleTimesOut, Late, Bool.or_eq_true, Bool.and_eq_true, decide_eq_true_eq]

theorem timesOut_of_late {w : Nat} (h : Late s a e w) :
    cycleTimesOut a.timedOut w a.limit a.clock (s.readyHeld a.switched e) = true := (late_iff w).mpr h

theorem timesOut_of_not_late {w : Nat} (h : ¬ Late s a e w) :
    cycleTimesOut a.timedOut w a.limit a.clock (s.readyHeld a.switched e) = false := by
  rw [← Bool.not_eq_true, late_iff]
  exact h

/-- A connected slot's card asserts the 16-bit select when it is sampled. -/
def Selected (s : State) (a : Access) (e : BusEnd) : Prop := ∃ i ∈ e.select.slots, Joined s a.switched e.select i

/-- The access is one 16-bit cycle, or two of 8 bits (R26 to R29). -/
def One16 (s : State) (a : Access) (e : BusEnd) : Prop := a.plan = .one16 ∨ (a.plan = .bySelect ∧ Selected s a e)

def Two8 (s : State) (a : Access) (e : BusEnd) : Prop := a.plan = .two8 ∨ (a.plan = .bySelect ∧ ¬ Selected s a e)

theorem resolved_one16 (h : One16 s a e) : s.resolved a e = .one16 := by
  unfold State.resolved
  obtain h | ⟨h, hs⟩ := h
  · rw [h]
  · rw [h]
    exact if_pos (finds_iff.mpr hs)

theorem resolved_two8 (h : Two8 s a e) : s.resolved a e = .two8 := by
  unfold State.resolved
  obtain h | ⟨h, hs⟩ := h
  · rw [h]
  · rw [h]
    exact if_neg fun hf => hs (finds_iff.mp hf)

theorem accessEnd_refused (h : a.plan = .refused) : s.accessEnd a e = some ⟨0, .align, none⟩ := by
  simp only [State.accessEnd, State.resolved, h]

theorem accessEnd_one8 (h : a.plan = .one8) :
    (¬ Late s a e a.waits8 →
      s.accessEnd a e = some ⟨(s.lowLines e).zeroExtend 16, .ok, some (a.waits8 + 3 + s.readyHeld a.switched e)⟩) ∧
    (Late s a e a.waits8 → s.accessEnd a e = some ⟨0x00FF, .timeout, some (limitClocks a.clock a.limit + 2)⟩) := by
  refine ⟨fun hl => ?_, fun hl => ?_⟩
  · simp only [State.accessEnd, State.resolved, h, timesOut_of_not_late hl, cycleClocks, Bool.false_eq_true, if_false]
  · simp only [State.accessEnd, State.resolved, h, timesOut_of_late hl, cycleClocks, if_true]
    rfl

theorem accessEnd_one16 (h : One16 s a e) :
    (¬ Late s a e a.waits16 → s.accessEnd a e = some ⟨halfOf (s.lowLines e) (s.highLines e), .ok,
      some (a.waits16 + 3 + s.readyHeld a.switched e)⟩) ∧
    (Late s a e a.waits16 → s.accessEnd a e = some ⟨0xFFFF, .timeout, some (limitClocks a.clock a.limit + 2)⟩) := by
  refine ⟨fun hl => ?_, fun hl => ?_⟩
  · simp only [State.accessEnd, resolved_one16 h, timesOut_of_not_late hl, cycleClocks, Bool.false_eq_true, if_false]
  · simp only [State.accessEnd, resolved_one16 h, timesOut_of_late hl, cycleClocks, if_true]

theorem accessEnd_first (h : Two8 s a e) (h1 : a.second = false) : s.accessEnd a e = none := by
  simp only [State.accessEnd, resolved_two8 h, h1, Bool.false_eq_true, if_false]

theorem accessEnd_second (h : Two8 s a e) (h2 : a.second = true) :
    (¬ Late s a e a.waits8 → s.accessEnd a e = some ⟨halfOf a.firstByte (s.lowLines e), if a.firstTimedOut then .timeout else .ok,
      some (a.waits8 + 3 + s.readyHeld a.switched e)⟩) ∧
    (Late s a e a.waits8 → s.accessEnd a e = some ⟨0xFF00 ||| a.firstByte.zeroExtend 16, .timeout,
      some (limitClocks a.clock a.limit + 2)⟩) := by
  refine ⟨fun hl => ?_, fun hl => ?_⟩
  · simp only [State.accessEnd, resolved_two8 h, h2, timesOut_of_not_late hl, cycleClocks, Bool.false_eq_true, if_false, if_true,
      Bool.or_false]
  · simp only [State.accessEnd, resolved_two8 h, h2, timesOut_of_late hl, cycleClocks, if_true, Bool.or_true]
    rfl

/-! ### The first of two cycles (R24, R27, R29, R30) -/

theorem exec_firstCycleEnd_one (hf : s.inFlight = .access a) (h : One16 s a e) : exec (.accessFirstCycleEnd e) s = .next s := by
  have hnone : s.firstCycleEnd a e = none := by
    unfold State.firstCycleEnd
    rw [resolved_one16 h]
    split <;> rfl
  simp only [exec, execAccessFirstCycleEnd, hf, hnone]

theorem exec_firstCycleEnd_two (hf : s.inFlight = .access a) (h : Two8 s a e) (h1 : a.second = false) {out : Bool}
    (hout : cycleTimesOut a.timedOut a.waits8 a.limit a.clock (s.readyHeld a.switched e) = out) :
    exec (.accessFirstCycleEnd e) s = .next { s with
      lastClocks := cycleClocks out a.waits8 a.limit a.clock (s.readyHeld a.switched e)
      inFlight := .access { a with
        plan := .two8, second := true, timedOut := false, switched := [], firstByte := if out then 0xFF else s.lowLines e
        firstTimedOut := out } } := by
  have hsome : s.firstCycleEnd a e = some ({ a with
      plan := .two8, second := true, timedOut := false, switched := [], firstByte := if out then 0xFF else s.lowLines e
      firstTimedOut := out }, cycleClocks out a.waits8 a.limit a.clock (s.readyHeld a.switched e)) := by
    unfold State.firstCycleEnd
    rw [if_neg (by rw [h1]; decide), if_pos (resolved_two8 h), ← hout]
  simp only [exec, execAccessFirstCycleEnd, hf, hsome]

end

/-! ### What a card sees (R12, R19, R44, R47, R51, R96) -/

section
variable {s : State} {i : SlotId}

theorem seenBy_connected (h : s.slots[i].closed = true) : s.seenBy i = (s.pins, s.acknowledge) := if_pos h

theorem driven_byte {a : Access} (hw : a.write = true) (hr : a.plan ≠ .one16) : ∃ v : Half, a.driven = some v ∧
    lowByte v = if a.second = true ∧ a.plan ≠ .bySelect then highByte a.value else lowByte a.value := by
  unfold Access.driven
  rw [if_neg (by rw [hw]; decide)]
  split
  · next h => exact absurd h hr
  · next h => exact ⟨_, rfl, (if_neg fun hc => hc.2 h).symm⟩
  · next h1 h2 =>
    refine ⟨_, rfl, ?_⟩
    rw [lowByte_zeroExtend]
    by_cases hsec : a.second = true
    · rw [if_pos hsec, if_pos ⟨hsec, h2⟩]
    · rw [if_neg hsec, if_neg fun hc => hsec hc.1]

theorem acknowledge_master {c : ChanId} (ho : s.arb.owner = .dma c true) (hf : ∀ x : Transfer, s.inFlight ≠ .transfer x) :
    s.acknowledge = some c := by
  unfold State.acknowledge
  rw [ho]
  cases h : s.inFlight with
  | transfer x => exact absurd h (hf x)
  | none => rfl
  | access a => rfl
  | refresh r => rfl

end

/-- Settles O25: the lines and samples, the access's end by its plan, the wait limit, and what a card sees. -/
theorem cyclesRunAndEnd : Obligations.CyclesRunAndEnd := by
  refine ⟨fun _ _ _ _ => rfl, fun w limit e k => ?limit, rfl, rfl, fun s e => ⟨?isolated, ?single, ?lines, ?samples⟩, ?access, ?wait, ?seen⟩
  case limit =>
    show limitClocks k limit + 2 = _
    omega
  case isolated =>
    intro hno
    have hnone (k : Nat) (v : Bool) : ¬ Drives s e.answers k v := fun ⟨a, ha, hc, _⟩ => absurd (hc.symm.trans (hno a ha)) (by decide)
    exact ⟨lowLines_eq fun k hk => ((dataLines_level (by omega)).1 (hnone k _) (hnone k _)).trans (allOnes_bit hk).symm,
      highLines_eq fun k hk => ((dataLines_level (by omega)).1 (hnone _ _) (hnone _ _)).trans (allOnes_bit hk).symm⟩
  case single =>
    intro i v hi
    refine ⟨fun he => ⟨byte_low hi he fun k hk => (mask_low hk).1, highLines_eq fun k hk => ?_⟩,
      fun he => ⟨byte_low hi he fun k hk => (mask_low hk).2.2.1, highLines_eq fun k hk => ?_⟩⟩
    · rw [dataLines_single hi he (by omega), if_neg (by rw [(mask_low hk).2.1]; decide), allOnes_bit hk]
    · rw [dataLines_single hi he (by omega), if_pos (mask_low hk).2.2.2]
      simp [hk]
  case lines =>
    intro k hk line drives
    have hline : line = (s.dataLines e).getLsbD k := by
      show (if k < 8 then _ else _) = _
      split
      · next h => exact lowLines_bit h
      · next h =>
        rw [highLines_bit (by omega), Nat.add_sub_cancel' (by omega)]
    rw [hline]
    exact dataLines_level hk
  case samples =>
    intro sw joined
    have hj (x : LineSample) (i : SlotId) : Joined s sw x i ↔ joined x i := by
      unfold Joined State.connectedAfter
      show _ ↔ match sw[x.changes]? with
        | some before => i ∈ before
        | none => s.slots[i].closed = true
      cases sw[x.changes]? with
      | none => exact Iff.rfl
      | some before => exact List.contains_iff_mem
    have hf (x : LineSample) : s.finds sw x = true ↔ ∃ i ∈ x.slots, joined x i := by
      rw [finds_iff]
      simp only [hj]
    refine ⟨fun hall => length_takeWhile_all fun x hx => (hf x).mpr (hall x hx), fun before after sample he hb hs => ?_⟩
    have hno : s.finds sw sample = false := by
      rw [← Bool.not_eq_true, hf]
      rintro ⟨i, hi, h⟩
      exact hs i hi h
    rw [State.readyHeld, he, takeWhile_stops (fun x hx => (hf x).mpr (hb x hx)) hno]
  case access =>
    intro s a e late selected one16 two8
    have hsel : Selected s a e ↔ selected := by
      unfold Selected Joined State.connectedAfter
      show _ ↔ ∃ i ∈ e.select.slots, match a.switched[e.select.changes]? with
        | some before => i ∈ before
        | none => s.slots[i].closed = true
      cases a.switched[e.select.changes]? with
      | none => exact Iff.rfl
      | some before => simp only [List.contains_iff_mem]
    have h16 : One16 s a e ↔ one16 := or_congr_right (and_congr_right fun _ => hsel)
    have h8 : Two8 s a e ↔ two8 := or_congr_right (and_congr_right fun _ => not_congr hsel)
    refine ⟨accessEnd_refused, fun h => (accessEnd_one8 h).1, fun h => (accessEnd_one8 h).2, fun h => (accessEnd_one16 (h16.mpr h)).1,
      fun h => (accessEnd_one16 (h16.mpr h)).2, fun h => accessEnd_first (h8.mpr h), fun h h2 => (accessEnd_second (h8.mpr h) h2).1,
      fun h h2 => (accessEnd_second (h8.mpr h) h2).2, fun hf h => exec_firstCycleEnd_one hf (h16.mpr h),
      fun hf h h1 => ⟨fun hl => ?_, fun hl => ?_⟩⟩
    · exact exec_firstCycleEnd_two hf (h8.mpr h) h1 (timesOut_of_not_late hl)
    · exact exec_firstCycleEnd_two hf (h8.mpr h) h1 (timesOut_of_late hl)
  case wait =>
    intro s i
    refine ⟨fun a hf hp hi => ?_, fun x hf hi => ?_, fun hi => ?_⟩
    · have hc : s.connected i = true := hi
      simp only [exec, execWaitLimitExpiry, hc, Bool.not_true, Bool.false_eq_true, if_false, hf, if_neg hp]
    · have hc : s.connected i = true := hi
      simp only [exec, execWaitLimitExpiry, hc, Bool.not_true, Bool.false_eq_true, if_false, hf]
    · have hc : s.connected i = false := hi
      simp only [exec, execWaitLimitExpiry, hc, Bool.not_false, if_true]
  case seen =>
    intro s i
    refine ⟨fun hi => if_neg (by rw [show s.connected i = _ from hi]; decide), fun hi => ?_⟩
    rw [seenBy_connected hi]
    refine ⟨fun hf => ?_, fun r hf => ?_, fun x hf => ?_, fun a hf hp => ⟨a.driven, ?_, fun hw => ?_, fun hw h1 => ?_, driven_byte⟩,
      fun c ho hf => acknowledge_master ho hf⟩
    · simp only [State.pins, hf]
    · simp only [State.pins, hf]
    · simp only [State.pins, State.acknowledge, hf, Transfer.pins]
    · simp only [State.pins, hf, if_neg hp]
      rfl
    · simp only [Access.driven, hw, Bool.not_false, if_true]
    · simp only [Access.driven, hw, h1, Bool.not_true, Bool.false_eq_true, if_false]

end Sys2Proof.Proofs.Cycles
end

section
/-! PROOFS. The admission of the first claimant's notice (R15, R49, R52, R73, R74, R88, R120, R145, R159, R167, R173). -/

open Sys2Proof Sys2Proof.Machine Sys2Proof.Proofs.MapLaws Sys2Proof.Proofs.Trickle Sys2Proof.Proofs.Claimants
  Sys2Proof.Proofs.Demands Sys2Proof.Proofs.SharedLines Sys2Proof.Proofs.RelayRequests Sys2Proof.Proofs.CensusReads

namespace Sys2Proof.Proofs.Admission

theorem exec_noticeAdmit {s : State} {k : Claimant} (hroom : s.link.canAdmit = true) (hk : s.firstClaimant = some k)
    (hf : k.isFill = false) : exec .noticeAdmit s = .next (s.placeClaimant k) := by
  simp only [exec, execNoticeAdmit, State.admissible, hroom, if_true, hk, hf, Bool.false_eq_true, if_false]

theorem exec_noticeAdmit_full {s : State} (h : s.link.reservations + s.link.reports.length ≥ 32) : exec .noticeAdmit s = .next s := by
  have hno : s.link.canAdmit = false := by
    have : ¬ s.link.reservations < Config.reportCapacity - s.link.reports.length := by
      simp only [Config.reportCapacity]
      omega
    unfold Link.canAdmit Link.freeEntries
    rw [decide_eq_false this]
    simp
  simp only [exec, execNoticeAdmit, State.admissible, hno, Bool.false_eq_true, if_false]

/-- What no admission changes. -/
def Untouched (s t : State) : Prop :=
  t.now = s.now ∧ t.bus = s.bus ∧ t.rules = s.rules ∧ t.drives = s.drives ∧ t.pending = s.pending ∧ (s.Settled → t.store = s.store)

theorem Untouched.refl (s : State) : Untouched s s := ⟨rfl, rfl, rfl, rfl, rfl, fun _ => rfl⟩

theorem untouched_of_apart {s t : State} (h : s.Apart t) : Untouched s t := by
  obtain ⟨hk, -, -, hstore⟩ := h
  exact ⟨(congrArg (fun k => k.1.1) hk :), (congrArg (fun k => k.1.2.2.2.2.1) hk :), (congrArg (fun k => k.1.2.2.2.2.2) hk :),
    (congrArg (fun k => k.1.2.2.2.1) hk :), (congrArg (fun k => k.2.2.2.2.2) hk :), hstore⟩

/-- What joins after a notice joins in the same step. -/
theorem more_of_apart {s v t : State} {n : Notice} (hv : v.link.reports = s.link.reports ++ [.notice n]) (h : v.Apart t) :
    ∃ more : List Report, t.link.reports = s.link.reports ++ .notice n :: more := by
  obtain ⟨-, -, ⟨more, hm⟩, -⟩ := h
  exact ⟨more, by rw [hm, hv, List.append_assoc]; rfl⟩

/-! ### The INTERRUPT notice (R145) -/

/-- The lines of an admitted notice go into service. -/
def served (r : Line) : Line := { r with pending := false, merged := false, inService := true, chosen := false }

theorem each_served (ls : List LineId) (s : State) : ∃ us : Vector Line 11, (s.each ls fun l t => t.modLine l served) = { s with lines := us } ∧
    ∀ n : LineId, us[n] = if n ∈ ls then served s.lines[n] else s.lines[n] := by
  induction ls generalizing s with
  | nil => exact ⟨s.lines, rfl, fun n => by simp⟩
  | cons l ls ih =>
    obtain ⟨us, heq, hus⟩ := ih (s.modLine l served)
    refine ⟨us, by rw [State.each_cons, heq]; rfl, fun n => ?_⟩
    have hl : (s.modLine l served).lines[n] = if n = l then served s.lines[l] else s.lines[n] := getElem_set_fin _ _ _ _
    rw [hus n, hl]
    by_cases hn : n = l
    · subst hn
      have hs : (if n ∈ ls then served (served s.lines[n]) else served s.lines[n]) = served s.lines[n] := by split <;> rfl
      simpa [-Fin.getElem_fin] using hs
    · simp [-Fin.getElem_fin, hn]

theorem mem_chosenLines {s : State} {l : LineId} : l ∈ s.chosenLines ↔ s.lines[l].chosen = true := by
  simp [-Fin.getElem_fin, State.chosenLines]

/-- The notice placed, its lines in service before the relay's check. -/
theorem admitInterrupt_answered (s : State) : ∃ us : Vector Line 11,
    (∀ l : LineId, us[l] = if s.lines[l].chosen = true then served s.lines[l] else s.lines[l]) ∧
    Answered s { s with lines := us, relay := { s.relay with hand := .empty, awaited := [] } }
      (.notice (.interrupt s.relay.origin s.now (s.chosenLines.map s.lineReport))) s.admitInterrupt := by
  obtain ⟨us, heq, hus⟩ := each_served s.chosenLines (s.notice (.interrupt s.relay.origin s.now (s.chosenLines.map s.lineReport)))
  refine ⟨us, fun l => ?_, ?_⟩
  · rw [hus l]
    simp only [mem_chosenLines]
    rfl
  · have h := answered_relayCheck (s := s) (us := us) (rl := { s.relay with hand := .empty, awaited := [] })
      (l := { s.link with reports := s.link.reports ++
        [.notice (.interrupt s.relay.origin s.now (s.chosenLines.map s.lineReport))] }) rfl (.refl _) (before_refl _) rfl
    unfold State.admitInterrupt
    dsimp only
    rw [show (s.notice (.interrupt s.relay.origin s.now (s.chosenLines.map s.lineReport))).each s.chosenLines
      (fun l t => t.modLine l fun r => { r with pending := false, merged := false, inService := true, chosen := false }) = _ from heq]
    exact h

/-! ### The census (R73, R74) -/

theorem census_of_apart {s t : State} (h : s.Apart t) : t.census = s.census := (congrArg (fun k => k.2.1) h.1 :)

/-- The census with its end placed, before the stops that waited are answered. -/
def endPlaced (s : State) : State :=
  (s.notice (.censusEnd s.census.findings s.census.bytesRead s.census.timedOut s.census.reason)).modCensus fun c =>
    { c with state := .idle, stopWaiters := [] }

theorem apart_admitCensusEnd (s : State) : (endPlaced s).Apart s.admitCensusEnd :=
  (State.calm_each (fun tag t => t.reply kCensusStop tag .ok .empty) (fun _ t => t.calm_reply _ _ _ _) s.census.stopWaiters _).apart

/-- Settles O13: each block's held form, by the claimant. -/
theorem firstClaimantIsAdmitted : Obligations.FirstClaimantIsAdmitted := by
  intro s
  refine ⟨exec_noticeAdmit_full, fun k hroom hfirst hf => ?_⟩
  have hexec := exec_noticeAdmit hroom hfirst hf
  have hpres := (firstClaimant_eq_some_iff.mp hfirst).1
  obtain ⟨hnow, hbus, hrules, hdrives, hpending, hstore⟩ := Untouched.refl s
  cases k with
  | fill id => cases hf
  | quiet =>
    obtain ⟨q, hq⟩ := Option.isSome_iff_exists.mp hpres
    have ht : s.placeClaimant .quiet = (s.notice (.quiet q)).modLink fun l => { l with heldQuiet := none } := by
      show s.admitQuiet = _
      rw [State.admitQuiet, hq]
    rw [ht] at hexec
    exact ⟨_, .quiet q, [], hexec, rfl, rfl, rfl, rfl, rfl, rfl, fun _ => rfl, ⟨q, hq, rfl⟩, rfl, rfl⟩
  | slot i =>
    obtain ⟨x, hx⟩ := Option.isSome_iff_exists.mp hpres
    have ht : s.placeClaimant (.slot i) = (s.notice (.slot i x s.slots[i].state)).modSlot i fun sl => { sl with heldNotice := none } := by
      show s.admitSlot i = _
      rw [State.admitSlot, hx]
    rw [ht] at hexec
    exact ⟨_, .slot i x s.slots[i].state, [], hexec, rfl, rfl, rfl, rfl, rfl, rfl, fun _ => rfl, ⟨x, hx, rfl⟩, rfl, rfl⟩
  | interrupt =>
    obtain ⟨us, hus, h⟩ := admitInterrupt_answered s
    obtain ⟨more, hmore⟩ := h.reports
    obtain ⟨hnow, hbus, hrules, hdrives, hpending, hstore⟩ := untouched_of_apart h.apart
    refine ⟨s.admitInterrupt, _, more, hexec, hmore, hnow, hbus, hrules, hdrives, hpending, hstore, rfl, fun l hl => ?_, fun vs hvs => ?_⟩
    · have hserved : us[l] = served s.lines[l] := (hus l).trans (if_pos hl)
      have ht := line_of_relayChecked h.checked (l := l) (by show us[l].eligible = false; rw [hserved]; rfl)
      rw [ht.trans hserved]
      exact ⟨rfl, rfl, rfl, rfl⟩
    · obtain rfl : vs = us := vector_ext fun l => (hvs l).trans (hus l).symm
      exact h.checked
  | channel c => exact ⟨_, _, [], hexec, rfl, rfl, rfl, rfl, rfl, rfl, fun _ => rfl, rfl, rfl, rfl⟩
  | overstay c =>
    obtain ⟨x, hx⟩ := Option.isSome_iff_exists.mp hpres
    have ht : s.placeClaimant (.overstay c) = (s.notice (.overstay (chanNumber c) x)).modArb fun a =>
        { a with heldOverstay := a.heldOverstay.set c none } := by
      show s.admitOverstay c = _
      rw [State.admitOverstay, hx]
    rw [ht] at hexec
    exact ⟨_, .overstay (chanNumber c) x, [], hexec, rfl, rfl, rfl, rfl, rfl, rfl, fun _ => rfl, ⟨x, hx, rfl⟩, rfl, rfl⟩
  | openAccess c =>
    obtain ⟨x, hx⟩ := Option.isSome_iff_exists.mp hpres
    have ht : s.placeClaimant (.openAccess c) = { s.notice (.openAccess (chanNumber c) x) with heldOpen := s.heldOpen.set c none } := by
      show s.admitOpenAccess c = _
      rw [State.admitOpenAccess, hx]
    rw [ht] at hexec
    exact ⟨_, .openAccess (chanNumber c) x, [], hexec, rfl, rfl, rfl, rfl, rfl, rfl, fun _ => rfl, ⟨x, hx, rfl⟩, rfl, rfl⟩
  | refresh =>
    obtain ⟨x, hx⟩ := Option.isSome_iff_exists.mp hpres
    have ht : s.placeClaimant .refresh = (s.notice (.refresh x)).modArb fun a => { a with heldRefresh := none } := by
      show s.admitRefresh = _
      rw [State.admitRefresh, hx]
    rw [ht] at hexec
    exact ⟨_, .refresh x, [], hexec, rfl, rfl, rfl, rfl, rfl, rfl, fun _ => rfl, ⟨x, hx, rfl⟩, rfl, rfl⟩
  | timer i =>
    obtain ⟨x, hx⟩ := Option.isSome_iff_exists.mp hpres
    have ht : s.placeClaimant (.timer i) = (s.notice (.timer i.val x)).modTimer i fun r => { r with heldNotice := none } := by
      show s.admitTimer i = _
      rw [State.admitTimer, hx]
    rw [ht] at hexec
    exact ⟨_, .timer i.val x, [], hexec, rfl, rfl, rfl, rfl, rfl, rfl, fun _ => rfl, ⟨x, hx, rfl⟩, rfl, rfl⟩
  | censusFind =>
    obtain ⟨x, hx⟩ := Option.isSome_iff_exists.mp hpres
    have ht : s.placeClaimant .censusFind = ((s.notice (.censusFind x)).modCensus fun c =>
        { c with heldFind := none, state := if c.state = .paused then .scanning else c.state }).arbitrate := by
      show s.admitCensusFind = _
      rw [State.admitCensusFind, hx]
    have hcalm := (State.calm_arbitrate ((s.notice (.censusFind x)).modCensus fun c =>
      { c with heldFind := none, state := if c.state = .paused then .scanning else c.state })).apart
    rw [← ht] at hcalm
    generalize s.placeClaimant .censusFind = t at hexec hcalm
    obtain ⟨more, hmore⟩ := more_of_apart (s := s) (n := .censusFind x) rfl hcalm
    obtain ⟨hnow, hbus, hrules, hdrives, hpending, hstore⟩ := untouched_of_apart hcalm
    exact ⟨t, .censusFind x, more, hexec, hmore, hnow, hbus, hrules, hdrives, hpending, hstore, ⟨x, hx, rfl⟩, census_of_apart hcalm⟩
  | censusEnd =>
    have hcalm := apart_admitCensusEnd s
    have hplaced := admitCensusEnd_placed (s := s)
    rw [show s.placeClaimant .censusEnd = s.admitCensusEnd from rfl] at hexec
    generalize s.admitCensusEnd = t at hexec hcalm hplaced
    obtain ⟨more, hmore⟩ := more_of_apart (s := s)
      (n := .censusEnd s.census.findings s.census.bytesRead s.census.timedOut s.census.reason) rfl hcalm
    obtain ⟨hnow, hbus, hrules, hdrives, hpending, hstore⟩ := untouched_of_apart hcalm
    refine ⟨t, _, more, hexec, hmore, hnow, hbus, hrules, hdrives, hpending, hstore, rfl, census_of_apart hcalm, fun hle => ?_⟩
    rw [hplaced hle] at hmore
    exact (List.cons.inj (List.append_cancel_left hmore)).2.symm

end Sys2Proof.Proofs.Admission
end

section
/-! PROOFS. The watchdog's stages (R172, R173) on the channels, timers, slots, batches and the census. -/

open Sys2Proof Sys2Proof.Machine Sys2Proof.Proofs.MapLaws Sys2Proof.Proofs.Trickle Sys2Proof.Proofs.PassFrame
  Sys2Proof.Proofs.Batches Sys2Proof.Proofs.CensusReads

namespace Sys2Proof.Proofs.Watchdog

/-! ### What is done to each channel in turn -/

/-- What is done to each of several channels by itself, replies placed beside it, each channel takes from its own record. -/
theorem each_chan_eq {f : ChanId → State → State} {g : Arbiter → ChanId → Chan → Chan}
    (hf : ∀ (c : ChanId) (s : State), ∃ l : Link, f c s = { s with chans := s.chans.set c (g s.arb c s.chans[c]), link := l } ∧
      s.link.Placed l) (ids : List ChanId) (hn : ids.Nodup) (s : State) :
    ∃ (cs : Vector Chan 7) (l : Link), s.each ids f = { s with chans := cs, link := l } ∧ s.link.Placed l ∧
      ∀ c : ChanId, cs[c] = if c ∈ ids then g s.arb c s.chans[c] else s.chans[c] := by
  induction ids generalizing s with
  | nil => exact ⟨s.chans, s.link, rfl, s.link.placed_refl, fun c => by simp⟩
  | cons id ids ih =>
    rw [List.nodup_cons] at hn
    obtain ⟨hid, hn⟩ := hn
    obtain ⟨l, heq, hl⟩ := hf id s
    obtain ⟨cs, m, hrest, hm, hcs⟩ := ih hn (f id s)
    have hchan (c : ChanId) : (f id s).chans[c] = if c = id then g s.arb id s.chans[id] else s.chans[c] := by
      rw [heq]
      exact getElem_set_fin _ _ _ _
    have harb : (f id s).arb = s.arb := by rw [heq]
    have hlink : (f id s).link = l := by rw [heq]
    refine ⟨cs, m, by rw [State.each_cons, hrest, heq], Link.placed_trans (hlink ▸ hl) hm, fun c => ?_⟩
    rw [hcs c, harb, hchan c]
    by_cases hc : c = id
    · subst hc
      rw [if_neg hid, if_pos rfl, if_pos List.mem_cons_self]
    · rw [if_neg hc]
      simp only [List.mem_cons, hc, false_or]

/-- The channel as stage 1 leaves it (R89). -/
def quieted (a : Arbiter) (c : ChanId) (ch : Chan) : Chan :=
  if ch.state = .masked then ch
  else if ch.state = .serving ∧ a.owner.isChan c = true then { ch with maskPending := some .quiet }
  else masked ch .quiet

theorem quietChan_eq (c : ChanId) (s : State) : ∃ l : Link, s.quietChan c =
    { s with chans := s.chans.set c (quieted s.arb c s.chans[c]), link := l } ∧ s.link.Placed l := by
  have hself : s.chans.set c s.chans[c] = s.chans := Vector.set_getElem_self c.isLt
  unfold State.quietChan quieted
  split
  · exact ⟨s.link, by rw [hself], s.link.placed_refl⟩
  · by_cases h : s.chans[c].state = .serving ∧ s.arb.owner.isChan c = true
    · rw [if_pos h, if_pos (by rw [h.1, h.2]; rfl)]
      exact ⟨s.link, rfl, s.link.placed_refl⟩
    · rw [if_neg h, if_neg (by simpa using h)]
      exact ⟨_, maskChan_eq c .quiet s, s.placed_maskChan c .quiet⟩

theorem gatesOff_timer (s : State) (i : TimerId) : s.gatesOff.timers[i] = { s.timers[i] with gate := false, due := false } := by
  simp only [State.gatesOff, Fin.getElem_fin, Vector.getElem_map, Timer.setGate, Bool.and_false]

/-! ### The cycle queue -/

/-- Of the link unit the records and the reservations alone have changed. -/
def RecordsOnly (s t : State) : Prop :=
  t.link = { s.link with reports := t.link.reports, reservations := t.link.reservations }

theorem recordsOnly_after {s t u : State} (h' : RecordsOnly t u) (h : RecordsOnly s t) : RecordsOnly s u := by
  unfold RecordsOnly at *
  rw [h', h]

theorem recordsOnly_reply (s : State) (kind tag : Nat) (st : Status) (b : Body) : RecordsOnly s (s.reply kind tag st b) := by
  unfold RecordsOnly State.reply State.modLink Link.place
  dsimp only
  split <;> rfl

theorem recordsOnly_endBatch (stop : Nat) (s : State) : RecordsOnly s (s.endBatch stop) := by
  have heach (tags : List Nat) (t : State) :
      RecordsOnly t (t.each tags fun tag u => u.reply kBatch tag .cancelled (.batch 0 noStop [])) := by
    induction tags generalizing t with
    | nil => rfl
    | cons tag tags ih => exact recordsOnly_after (ih _) (recordsOnly_reply t _ _ _ _)
  have hanswer (t : State) : RecordsOnly t t.answerCancelled := heach t.cancelled { t with cancelled := [] }
  unfold State.endBatch
  split
  · rfl
  · next b rest _ =>
    have hhead : RecordsOnly s (if b.discard then s else if b.posted && b.status = .ok then s.release
        else s.reply kBatch b.tag b.status (.batch b.next stop b.results)) := by
      split
      · rfl
      · split
        · rfl
        · exact recordsOnly_reply s _ _ _ _
    exact recordsOnly_after (hanswer _) hhead

/-- Where a batch that stage 2 stops between its accesses stands: at no entry when it claims the bus, else at the POLL or the DELAY
it abandons (R65; log entry 14). -/
def stopOf (b : Batch) : Nat := if b.step = .claiming then 255 else b.next

/-- Its results, a POLL's last value and tries among them. -/
def resultsOf (b : Batch) : List EntryResult :=
  if b.step = .pollWait then b.results ++ [.poll b.pollLast b.pollTries] else b.results

section
variable {s : State} {b : Batch} {rest : List Batch}

theorem cancelBatches_empty (hq : s.queue = []) : s.cancelBatches = s := by
  unfold State.cancelBatches
  rw [hq]

theorem cancelBatches_stays (hq : s.queue = b :: rest) (h : b.discard = true ∨ b.step = .cycle) :
    s.cancelBatches = { s with cancelled := s.cancelled ++ rest.map Batch.tag, queue := [{ b with cancel := true }] } := by
  unfold State.cancelBatches
  rw [hq]
  dsimp only
  obtain hd | hs := h
  · rw [if_pos hd]
  · rw [hs]
    exact ite_self _

theorem cancelBatches_ended (hq : s.queue = b :: rest) (hd : b.discard = false) (hs : b.step ≠ .cycle) :
    s.cancelBatches = State.endBatch (stopOf b) { s with
      cancelled := s.cancelled ++ rest.map Batch.tag
      queue := [{ b with cancel := true, status := .cancelled, results := resultsOf b }] } := by
  unfold State.cancelBatches stopOf resultsOf
  rw [hq]
  dsimp only
  rw [hd, if_neg Bool.false_ne_true]
  cases hstep : b.step with
  | claiming => rfl
  | pollWait => rfl
  | delay => rfl
  | cycle => exact absurd hstep hs

/-- Whatever stands in the queue, stage 2 changes the queue, the tags that wait and the records. -/
theorem cancelBatches_frame (s : State) : QueueOnly s s.cancelBatches ∧ RecordsOnly s s.cancelBatches := by
  cases hq : s.queue with
  | nil =>
    rw [cancelBatches_empty hq]
    exact ⟨queueOnly_refl s, rfl⟩
  | cons b rest =>
    by_cases h : b.discard = true ∨ b.step = .cycle
    · rw [cancelBatches_stays hq h]
      exact ⟨⟨rfl, [], (List.append_nil _).symm⟩, rfl⟩
    · rw [not_or, Bool.not_eq_true] at h
      rw [cancelBatches_ended hq h.1 h.2]
      exact ⟨queueOnly_after (queueOnly_endBatch _ _) ⟨rfl, [], (List.append_nil _).symm⟩, recordsOnly_endBatch _ _⟩

/-- A batch that is left is cancelled, its access in flight. -/
theorem queue_cancelBatches (h : ∀ b ∈ s.queue, b.discard = true → b.step = .cycle) :
    ∀ b ∈ s.cancelBatches.queue, b.step = .cycle ∧ b.cancel = true := by
  cases hq : s.queue with
  | nil =>
    rw [cancelBatches_empty hq, hq]
    exact fun b hb => absurd hb List.not_mem_nil
  | cons b rest =>
    by_cases hs : b.step = .cycle
    · rw [cancelBatches_stays hq (.inr hs)]
      intro c hc
      obtain rfl := List.mem_singleton.mp hc
      exact ⟨hs, rfl⟩
    · have hd : b.discard = false := by
        rw [← Bool.not_eq_true]
        exact fun hd => hs (h b (hq ▸ List.mem_cons_self) hd)
      rw [cancelBatches_ended hq hd hs, queue_endBatch _ rfl]
      exact fun c hc => absurd hc List.not_mem_nil

theorem cancelBatches_answered (hq : s.queue = b :: rest) (hd : b.discard = false) (hs : b.step ≠ .cycle)
    (hr : (s.cancelled ++ rest.map Batch.tag).length < s.link.reservations) :
    s.cancelBatches.queue = [] ∧ s.cancelBatches.cancelled = [] ∧ s.cancelBatches.link.reports = s.link.reports ++
      .reply 0x94 b.tag .cancelled (.batch b.next (stopOf b) (resultsOf b)) ::
        (s.cancelled ++ rest.map Batch.tag).map fun tag => .reply 0x94 tag .cancelled (.batch 0 255 []) := by
  rw [cancelBatches_ended hq hd hs]
  have hend := endBatch_replied (s := { s with
      cancelled := s.cancelled ++ rest.map Batch.tag
      queue := [{ b with cancel := true, status := .cancelled, results := resultsOf b }] }) (stopOf b) rfl hd
    (.inr (fun h => nomatch h)) hr
  rw [hend]
  exact ⟨rfl, rfl, rfl⟩

end

/-! ### The census -/

theorem stopCensus_frame (s : State) : s.stopCensus = { s with census := s.stopCensus.census } := by
  unfold State.stopCensus
  split
  · rfl
  · rfl
  · split <;> rfl
  · rfl

theorem stopCensus_over {s : State} (h : s.census.state = .idle ∨ s.census.state = .ending) : s.stopCensus = s := by
  unfold State.stopCensus
  obtain h | h := h <;> rw [h]

theorem stopCensus_running {s : State} (h : s.census.state = .paused ∨ s.census.state = .scanning) :
    s.stopCensus.census.reason = some .stopped ∧ (s.arb.owner ≠ .census → s.stopCensus.census.state = .ending) := by
  have hnone (ho : s.arb.owner ≠ .census) : s.censusReading = false := by
    unfold State.censusReading
    rw [decide_eq_false ho, Bool.false_and]
  obtain h | h := h
  · rw [stopCensus_ends (.inr (.inl ⟨h, rfl⟩))]
    exact ⟨rfl, fun _ => rfl⟩
  · by_cases hr : s.censusReading = true
    · rw [stopCensus_reading h hr]
      exact ⟨rfl, fun ho => absurd hr (by rw [hnone ho]; exact Bool.false_ne_true)⟩
    · rw [stopCensus_ends (.inr (.inr ⟨h, Bool.not_eq_true _ ▸ hr, rfl⟩))]
      exact ⟨rfl, fun _ => rfl⟩

/-- Stage 2 on the queue and the census, each apart from the other. -/
theorem cancelled_eq (p : State) : p.cancelBatches.stopCensus = { p with
    queue := p.cancelBatches.queue
    cancelled := p.cancelBatches.cancelled
    link := { p.link with reports := p.cancelBatches.link.reports, reservations := p.cancelBatches.link.reservations }
    census := p.stopCensus.census } := by
  obtain ⟨⟨hframe, -⟩, hlink⟩ := cancelBatches_frame p
  have hcensus (q : List Batch) (c : List Nat) (l : Link) :
      ({ p with queue := q, cancelled := c, link := l } : State).stopCensus.census = p.stopCensus.census := by
    unfold State.stopCensus State.censusReading
    dsimp only
    split
    · rfl
    · rfl
    · split <;> rfl
    · rfl
  generalize p.cancelBatches = u at *
  rw [stopCensus_frame]
  have hu : u.stopCensus.census = p.stopCensus.census := by
    rw [hframe]
    exact hcensus _ _ _
  rw [hu, ← hlink]
  exact congrArg (fun v : State => { v with census := p.stopCensus.census }) hframe

/-! ### The stages -/

theorem park_stands {sl : Slot} (now : Time) (h : ¬ (sl.state = .held ∨ sl.state = .settling ∨ sl.state = .online)) :
    sl.park now = sl := by
  unfold Slot.park
  split
  · next hs => exact absurd (.inl hs) h
  · next hs => exact absurd (.inr (.inl hs)) h
  · next hs => exact absurd (.inr (.inr hs)) h
  · rfl

theorem park_parks {sl : Slot} (now : Time) (h : sl.state = .held ∨ sl.state = .settling ∨ sl.state = .online) :
    sl.park now = (sl.enter .parked none).produce now .parked := by
  unfold Slot.park
  obtain h | h | h := h <;> rw [h]

section
variable {s : State} {d : Deadline}

/-- Before the deadline neither stage does anything. -/
theorem stages_wait (hd : s.link.watchdogAt = some d) (hr : d.reached s.now = false) :
    exec .watchdogStage1 s = .next s ∧ exec .watchdogStage2 s = .next s := by
  have hno (p : Bool) : ¬ (p && d.reached s.now) = true := by simp [hr]
  constructor
  · simp only [exec, execWatchdogStage1, hd, if_neg (hno _)]
  · simp only [exec, execWatchdogStage2, hd, if_neg (hno _)]

/-- The link unit once stage 1 is taken. -/
def quietLink (l : Link) (d : Deadline) : Link :=
  { l with stage := 1, watchdogAt := some (watchdogFrom d.due l.interval) }.produceQuiet 1 d.due

theorem exec_watchdogStage1 (hd : s.link.watchdogAt = some d) (hr : d.reached s.now = true) (hs : s.link.stage = 0) :
    exec .watchdogStage1 s = .next
      (({ s with link := quietLink s.link d } : State).each (List.finRange 7) State.quietChan).gatesOff := by
  simp only [exec, execWatchdogStage1, hd]
  exact if_pos (by simp [hs, hr])

/-- The state once stage 2 is taken and the slots are parked. -/
def parked (s : State) : State := ({ s with link := { s.link with stage := 2, watchdogAt := none } } : State).parkSlots

theorem exec_watchdogStage2 (hd : s.link.watchdogAt = some d) (hr : d.reached s.now = true) (hs : s.link.stage = 1) :
    exec .watchdogStage2 s = .next
      ((parked s).cancelBatches.stopCensus.modLink (·.produceQuiet 2 d.due)) := by
  simp only [exec, execWatchdogStage2, hd]
  exact if_pos (by simp [hs, hr])

end

/-- Settles O15: stage 1 goes through the channels one by one; stage 2 parks the slots, and the batches are cancelled and the census
stopped apart from each other. -/
theorem watchdogStagesFallDue : Obligations.WatchdogStagesFallDue := by
  unfold Obligations.WatchdogStagesFallDue
  intro s d hd
  refine ⟨stages_wait hd, fun hr => ?_⟩
  intro replaced
  refine ⟨fun hs => ⟨_, exec_watchdogStage1 hd hr hs, ?_⟩, fun hs => ⟨_, exec_watchdogStage2 hd hr hs, ?_⟩⟩
  · obtain ⟨cs, l, heq, ⟨rs, rfl, -⟩, hcs⟩ := each_chan_eq quietChan_eq (List.finRange 7) (List.nodup_finRange 7)
      { s with link := quietLink s.link d }
    rw [heq]
    refine ⟨rfl, rfl, rfl, gatesOff_timer _, fun c => ?_, rfl, rfl, rfl, rfl, rfl, rfl, rfl, rfl, rfl⟩
    exact (hcs c).trans (if_pos (List.mem_finRange c))
  · rw [cancelled_eq]
    have hslot (i : SlotId) : (s.slots.map fun sl : Slot => sl.park s.now)[i] = s.slots[i].park s.now := Vector.getElem_map ..
    refine ⟨rfl, rfl, rfl, fun i h => (hslot i).trans ((park_parks s.now h).trans rfl),
      fun i h => (hslot i).trans (park_stands s.now h), queue_cancelBatches (s := parked s), fun hq => ?_,
      fun b rest hq hb => ?_, fun h => (congrArg State.census (stopCensus_over (s := parked s) h) :),
      stopCensus_running (s := parked s), rfl, rfl, rfl, rfl, rfl, rfl, rfl, rfl, rfl⟩
    · have h := cancelBatches_empty (s := parked s) hq
      exact ⟨(congrArg State.queue h).trans hq, (congrArg (fun t : State => t.link.reports) h :)⟩
    · refine ⟨fun hstep => ?_, fun hstep hroom => ?_⟩
      · have h := cancelBatches_stays (s := parked s) hq (.inr hstep)
        exact ⟨congrArg State.queue h, congrArg State.cancelled h, (congrArg (fun t : State => t.link.reports) h :)⟩
      · obtain ⟨hqueue, hwait, hreports⟩ := cancelBatches_answered (s := parked s) hq hb hstep
          hroom
        refine ⟨hqueue, hwait, hreports.trans (congrArg (s.link.reports ++ ·) ?_)⟩
        unfold stopOf resultsOf
        split
        · next h =>
          rw [if_neg (by rw [h]; decide)]
          rfl
        · split <;> rfl

end Sys2Proof.Proofs.Watchdog
end

section
/-! PROOFS. The link reset: what it does to the blocks, and the relay's check after it (R175). -/

open Sys2Proof Sys2Proof.Machine Sys2Proof.Proofs.PassLaws Sys2Proof.Proofs.Laws Sys2Proof.Proofs.StepLaws
  Sys2Proof.Proofs.Trickle Sys2Proof.Proofs.PassFrame Sys2Proof.Proofs.Demands Sys2Proof.Proofs.SharedLines
  Sys2Proof.Proofs.Watchdog

namespace Sys2Proof.Proofs.LinkReset

/-! ### The blocks one by one -/

/-- The channel as a link reset leaves it (R90). -/
def unlinked (a : Arbiter) (c : ChanId) (ch : Chan) : Chan :=
  if ch.state = .serving ∧ a.owner.isChan c = true then { ch with maskPending := some .link, maskWaiters := [] }
  else masked ch .link

theorem linkChan_eq (c : ChanId) (s : State) : ∃ l : Link, s.linkChan c =
    { s with chans := s.chans.set c (unlinked s.arb c s.chans[c]), link := l } ∧ s.link.Placed l := by
  refine ⟨s.link, ?_, s.link.placed_refl⟩
  unfold State.linkChan unlinked
  by_cases h : s.chans[c].state = .serving ∧ s.arb.owner.isChan c = true
  · rw [if_pos h, if_pos (by rw [h.1, h.2]; rfl)]
    rfl
  · rw [if_neg h, if_neg (by simpa using h)]
    rfl

/-- With no reservation nothing is placed (R175; log entry 18). -/
theorem placed_nothing {l m : Link} (h : l.Placed m) (hr : l.reservations = 0) : m = l := by
  obtain ⟨rs, rfl, hlen⟩ := h
  obtain rfl : rs = [] := List.length_eq_zero_iff.mp (by omega)
  simp

theorem queue_discardBatches (s : State) : ∀ b ∈ s.discardBatches.queue, b.step = .cycle ∧ b.discard = true := by
  intro b hb
  unfold State.discardBatches at hb
  dsimp only at hb
  split at hb
  · next h _ _ =>
    split at hb
    · next hs =>
      obtain rfl := List.mem_singleton.mp hb
      exact ⟨hs, rfl⟩
    · cases hb
  · cases hb

theorem lane_discardRuns (s : State) : ∀ r ∈ s.discardRuns.lane, r.step = .cycle ∧ r.discard = true := by
  intro r hr
  unfold State.discardRuns at hr
  dsimp only at hr
  split at hr
  · next h _ _ =>
    split at hr
    · next hs =>
      obtain rfl := List.mem_singleton.mp hr
      exact ⟨hs, rfl⟩
    · cases hr
  · cases hr

theorem linkResetCensus_frame (s : State) : s.linkResetCensus = { s with census := s.linkResetCensus.census } := by
  unfold State.linkResetCensus
  split
  · rfl
  · split <;> rfl

theorem census_linkReset {s : State} (h : ¬ (s.arb.owner = .census ∧ s.orphan = false)) :
    s.linkResetCensus.census.state = .idle := by
  have hno : ¬ s.censusReading = true := by simpa [State.censusReading] using h
  unfold State.linkResetCensus
  split
  · next hs => exact hs
  · rfl

/-! ### The blocks together -/

/-- The link unit and the blocks that forget their work, the channels apart. -/
def dropped (s : State) : State :=
  (s.modLink fun l => l.afterLinkReset s.now).discardBatches.discardRuns.gatesOff.linkResetCensus

/-- What then waits for the host on the map and the lines is forgotten. -/
def forgets (s : State) : State :=
  State.clearService { s with regions := s.regions.map Region.forgetTags, storeWaits := s.storeWaits.map StoreOp.forgetTags }

theorem exec_linkReset (s : State) :
    exec .linkReset s = .next (forgets ((dropped s).each (List.finRange 7) State.linkChan)).relayCheck := rfl

/-- Every block as a link reset leaves it, before the relay's check. -/
structure Forgotten (s w : State) : Prop where
  link : w.link = s.link.afterLinkReset s.now
  kept : w.kept = { s with timers := w.timers, census := w.census }.kept
  bus : w.arb = s.arb ∧ w.inFlight = s.inFlight ∧ w.openSent = s.openSent
  map : w.fillLine = s.fillLine ∧ w.written = s.written ∧ w.store = s.store ∧
    w.storeWaits = s.storeWaits.map StoreOp.forgetTags
  relay : w.relay = s.relay
  chans : ∀ c : ChanId, w.chans[c] = unlinked s.arb c s.chans[c]
  timers : ∀ i : TimerId, w.timers[i] = { s.timers[i] with gate := false, due := false }
  queue : ∀ b ∈ w.queue, b.step = .cycle ∧ b.discard = true
  lane : ∀ r ∈ w.lane, r.step = .cycle ∧ r.discard = true
  census : ¬ (s.arb.owner = .census ∧ s.orphan = false) → w.census.state = .idle
  lines : ∀ l : LineId, w.lines[l] = { s.lines[l] with inService := false }
  regions : ∀ r : RegionId, w.regions[r] = s.regions[r].forgetTags
  law : PassesOk s → PassesOk w

theorem keeps_dropped (s : State) : Keeps s (dropped s) := by
  have hlink : Keeps s (s.modLink fun l => l.afterLinkReset s.now) := keeps_modLink _ s fun _ => Nat.zero_le _
  have hlane (u : State) : Keeps u u.discardRuns := .of_view rfl fun _ _ h => h
  exact .after (keeps_linkResetCensus _) (.after (keeps_gatesOff _) (.after (hlane _) (.after (keeps_discardBatches _) hlink)))

theorem keeps_forgets (s : State) : Keeps s (forgets s) := by
  have hlines (u : State) : Keeps u u.clearService := .of_view rfl fun _ _ h => h
  exact .after (hlines _) (keeps_forgetTags s)

/-- The link unit and the blocks that forget their work, each by itself. -/
theorem dropped_eq (s : State) : dropped s = { s with
    link := s.link.afterLinkReset s.now
    cancelled := []
    queue := s.discardBatches.queue
    lane := s.discardRuns.lane
    timers := s.gatesOff.timers
    census := s.linkResetCensus.census } := by
  have hcensus (l : Link) (q : List Batch) (c : List Nat) (r : List Run) (v : Vector Timer 4) :
      ({ s with link := l, queue := q, cancelled := c, lane := r, timers := v } : State).linkResetCensus.census =
        s.linkResetCensus.census := by
    unfold State.linkResetCensus State.censusReading
    dsimp only
    split
    · rfl
    · split <;> rfl
  rw [← hcensus (s.link.afterLinkReset s.now) s.discardBatches.queue [] s.discardRuns.lane s.gatesOff.timers]
  exact linkResetCensus_frame _

/-- A link reset leaves the channels as each stands, and nothing is placed for the host. -/
theorem each_linkChan (s : State) : ∃ cs : Vector Chan 7, (dropped s).each (List.finRange 7) State.linkChan =
    { dropped s with chans := cs } ∧ ∀ c : ChanId, cs[c] = unlinked s.arb c s.chans[c] := by
  obtain ⟨cs, l, heq, hl, hcs⟩ := each_chan_eq linkChan_eq (List.finRange 7) (List.nodup_finRange 7) (dropped s)
  have hlink : (dropped s).link.reservations = 0 := by rw [dropped_eq]; rfl
  obtain rfl := placed_nothing hl hlink
  refine ⟨cs, heq, fun c => (hcs c).trans ((if_pos (List.mem_finRange c)).trans ?_)⟩
  rw [dropped_eq]

theorem forgotten (s : State) : Forgotten s (forgets ((dropped s).each (List.finRange 7) State.linkChan)) := by
  have hlaw := (Keeps.after (keeps_forgets _) (.after (.each _ keeps_linkChan (List.finRange 7) _) (keeps_dropped s))).passes
  obtain ⟨cs, heq, hcs⟩ := each_linkChan s
  rw [heq, dropped_eq] at hlaw ⊢
  exact {
    link := rfl
    kept := rfl
    bus := ⟨rfl, rfl, rfl⟩
    map := ⟨rfl, rfl, rfl, rfl⟩
    relay := rfl
    chans := hcs
    timers := gatesOff_timer s
    queue := queue_discardBatches s
    lane := lane_discardRuns s
    census := census_linkReset
    lines := fun _ => Vector.getElem_map ..
    regions := fun _ => Vector.getElem_map ..
    law := hlaw }

/-! ### The relay's check after it -/

/-- What the relay's check finds is what it would find with in_service alone cleared. -/
theorem Forgotten.before {s w : State} (h : Forgotten s w) {us : Vector Line 11}
    (hus : ∀ l : LineId, us[l] = { s.lines[l] with inService := false }) : Before { s with lines := us } w where
  lines := vector_ext fun l => (h.lines l).trans (hus l).symm
  address c := by
    rw [h.chans c, unlinked]
    split <;> rfl
  mirror a := by
    unfold State.mirrorAt
    refine congrArg (fun p : RegionId → Bool => (List.finRange 16).find? p) (funext fun r => ?_)
    rw [h.regions r]
    rfl
  entries r := (congrArg (fun g : Region => g.ship.entries) (h.regions r) :)
  runs r hr := (congrArg (fun g : Region => g.ship.running) (h.regions r)).trans hr
  begun r hr := .inl ((congrArg (fun g : Region => g.ship.running) (h.regions r)).symm.trans hr)
  awaited := congrArg Relay.awaited h.relay
  law hp := ((passesOk_iff w).mp (h.law ⟨hp.line, hp.mirror, hp.chans, hp.relay, hp.hand, hp.map⟩)).1

/-- With a busy hand, or no line both pending and unmasked, the check does nothing. -/
theorem Forgotten.still {s w : State} (h : Forgotten s w)
    (hs : s.relay.hand ≠ .empty ∨ ∀ l : LineId, s.lines[l].pending = false ∨ s.lines[l].masked = true) : w.relayCheck = w := by
  refine relayCheck_still (hs.imp (fun hh => by rw [h.relay]; exact hh) fun hl => ?_)
  refine List.filter_eq_nil_iff.mpr fun l _ => ?_
  rw [h.lines l]
  obtain hp | hm := hl l
  · simp only [Line.eligible, hp, Bool.false_and, Bool.false_eq_true, not_false_eq_true]
  · simp only [Line.eligible, hm, Bool.not_true, Bool.and_false, Bool.false_and, Bool.false_eq_true, not_false_eq_true]

/-- With nothing about to be placed before the reset there is nothing about to be placed after it. -/
theorem Forgotten.settled {s w : State} (h : Forgotten s w) (hs : s.Settled) : w.Settled := by
  obtain ⟨-, -, -, hwaits⟩ := h.map
  exact ⟨by rw [hwaits, hs.1]; rfl, fun r => (congrArg Region.successor (h.regions r)).trans (hs.2 r)⟩

/-- Settles O6: the blocks one by one, then the relay's check, which leaves them. -/
theorem linkResetForgetsTheHost : Obligations.LinkResetForgetsTheHost := by
  unfold Obligations.LinkResetForgetsTheHost
  intro s
  refine ⟨_, exec_linkReset s, ?_⟩
  have h := forgotten s
  generalize forgets ((dropped s).each (List.finRange 7) State.linkChan) = w at h
  have hstill := h.still
  have hck := checked_relayCheck w
  have hplaced := placed_nothing w.placed_relayCheck (by rw [h.link]; rfl)
  have hrelay (us : Vector Line 11) (hus : ∀ l : LineId, us[l] = { s.lines[l] with inService := false }) :
      State.RelayChecked { s with lines := us } w.relayCheck :=
    relayChecked_of (h.before hus) h.relay (State.now_of_kept h.kept :) (.refl _)
  generalize w.relayCheck = t at hck hplaced hrelay hstill
  obtain ⟨harb, hflight, hopen⟩ := h.bus
  obtain ⟨hfill, hwritten, hstore, -⟩ := h.map
  have hlane : t.lane = w.lane := congrArg (fun o => o.1.2.2.2.2.2.2.2.2.1) hck.outer
  have htimers := State.timers_of_outer hck.outer
  have hcensus := State.census_of_outer hck.outer
  have hchan (c : ChanId) {α : Type} (f : Chan → α) (hf : ∀ ch, f (bare ch) = f ch) :
      f t.chans[c] = f (unlinked s.arb c s.chans[c]) := by
    rw [← h.chans c, ← hf, hck.chans c, hf]
  have hlines (l : LineId) : { t.lines[l] with chosen := false } = { s.lines[l] with chosen := false, inService := false } := by
    rw [hck.lines l, h.lines l]
  refine ⟨hplaced.trans h.link, ?_, (State.arb_of_outer hck.outer).trans harb, (congrArg (fun o => o.2.1) hck.outer :).trans hflight,
    (congrArg (fun o => o.2.2.2.2.2.1) hck.outer :).trans hopen, fun hs => (hck.calm.apart.2.2.2 (h.settled hs)).trans hstore,
    fun c hc => ?_, fun c hs ho => ?_, fun c => ?_, fun i => by rw [htimers]; exact h.timers i,
    by rw [State.queue_of_outer hck.outer]; exact h.queue, by rw [hlane]; exact h.lane,
    fun hc => by rw [hcensus]; exact h.census hc, hlines, hrelay, fun hs => ?_⟩
  · rw [State.kept_of_outer hck.outer, h.kept, htimers, hcensus]
  · have hu : unlinked s.arb c s.chans[c] = masked s.chans[c] .link := if_neg hc
    exact ⟨(hchan c Chan.state fun _ => rfl).trans (congrArg Chan.state hu),
      (hchan c Chan.maskReason fun _ => rfl).trans (congrArg Chan.maskReason hu),
      (hchan c Chan.maskPending fun _ => rfl).trans (congrArg Chan.maskPending hu)⟩
  · have hu : unlinked s.arb c s.chans[c] = { s.chans[c] with maskPending := some .link, maskWaiters := [] } := if_pos ⟨hs, ho⟩
    exact ⟨((hchan c Chan.state fun _ => rfl).trans (congrArg Chan.state hu)).trans hs,
      (hchan c Chan.maskPending fun _ => rfl).trans (congrArg Chan.maskPending hu)⟩
  · have hsame : (unlinked s.arb c s.chans[c]).program = s.chans[c].program ∧ (unlinked s.arb c s.chans[c]).maskWaiters = [] ∧
        (unlinked s.arb c s.chans[c]).causes = s.chans[c].causes := by
      unfold unlinked
      split <;> exact ⟨rfl, rfl, rfl⟩
    obtain ⟨hprogram, hwaiters, hcauses⟩ := hsame
    exact ⟨(hchan c Chan.program fun _ => rfl).trans hprogram, (hchan c Chan.maskWaiters fun _ => rfl).trans hwaiters,
      (hchan c Chan.causes fun _ => rfl).trans hcauses⟩
  · obtain rfl := hstill hs
    exact ⟨hfill, hwritten, h.relay, h.regions⟩

end Sys2Proof.Proofs.LinkReset
end

section
/-! PROOFS. DEVICE_RESET on every block, and the end of the cycle it leaves on the bus (R38, R54, R174). -/

open Sys2Proof Sys2Proof.Machine Sys2Proof.Proofs.LinkRequests Sys2Proof.Proofs.Grants

namespace Sys2Proof.Proofs.DeviceReset

/-! ### The cycle left in flight ends -/

theorem map_headGranted {α β : Type} {p : α → Prop} {f : α → α} {g : α → β} (hg : ∀ x, g (f x) = g x) {xs ys : List α}
    (h : HeadGranted p f xs ys) : ys.map g = xs.map g := by
  obtain rfl | ⟨x, rest, rfl, -, rfl⟩ := h
  · rfl
  · rw [List.map_cons, List.map_cons, hg]

/-- The end of an orphan cycle, its outcome discarded. -/
structure Ended (s t : State) : Prop where
  orphan : t.orphan = false
  apart : State.Apart { s with bus := State.reset.bus, rules := [] } t
  lines : t.lines = s.lines
  arb : t.arb.owed = s.arb.owed ∧ t.arb.row = s.arb.row ∧
    t.arb.refreshAt = if s.bus.refresh = true then s.arb.refreshAt else some ⟨halfMicros s.now, 30⟩
  queue : t.queue.map Batch.results = s.queue.map Batch.results
  lane : t.lane.map Run.results = s.lane.map Run.results

theorem ended_orphanEnd (s : State) (clocks : Option Nat) : Ended s (s.cycleDone clocks).orphanEnd := by
  have hcalm : State.Calm { s with bus := State.reset.bus, rules := [] } (s.cycleDone clocks).orphanEnd := by
    refine State.calm_trans ?_ (s.cycleDone clocks).calm_orphanEnd
    exact State.calm_of_eq rfl rfl ⟨[], (List.append_nil _).symm⟩ rfl rfl rfl
  have hg := granted_grantPoint { s.cycleDone clocks with
    bus := {}, rules := [],
    arb := { s.arb with refreshAt := if s.bus.refresh = true then s.arb.refreshAt else some (refreshFrom s.now 150) } }
  have heq : (s.cycleDone clocks).orphanEnd = State.grantPoint { s.cycleDone clocks with
    bus := {}, rules := [],
    arb := { s.arb with refreshAt := if s.bus.refresh = true then s.arb.refreshAt else some (refreshFrom s.now 150) } } := rfl
  rw [heq] at hcalm ⊢
  refine ⟨hg.orphan, hcalm.apart, hg.lines, ?_, (map_headGranted (g := Batch.results) (by exact fun _ => rfl) hg.queue :),
    (map_headGranted (g := Run.results) (by exact fun _ => rfl) hg.lane :)⟩
  exact ⟨(congrArg Arbiter.owed hg.arb :), (congrArg Arbiter.row hg.arb :), (congrArg Arbiter.refreshAt hg.arb :)⟩

section
variable {s : State} (ho : s.orphan = true)
include ho

/-- A command by which an orphan cycle ends discards what it brings. -/
theorem transferEnd_discards {x : Transfer} (e : BusEnd) (hf : s.inFlight = .transfer x) :
    ∃ clocks, exec (.transferEnd e) s = .next (s.cycleDone clocks).orphanEnd :=
  ⟨some (cycleClocks (cycleTimesOut x.timedOut x.waits x.limit x.clock (s.readyHeld x.switched e)) x.waits x.limit x.clock
    (s.readyHeld x.switched e)), by simp only [exec, execTransferEnd, hf, ho, if_true]⟩

theorem refreshCycleEnd_discards {r : RefreshCycle} (hf : s.inFlight = .refresh r) :
    ∃ clocks, exec .refreshCycleEnd s = .next (s.cycleDone clocks).orphanEnd :=
  ⟨some (r.waits + 3), by simp only [exec, execRefreshCycleEnd, hf, ho, if_true]⟩

variable {a : Access} {e : BusEnd} {r : AccessEnd} (hf : s.inFlight = .access a) (hr : s.accessEnd a e = some r)
include hf hr

theorem batchEntryEnd_discards (hown : s.arb.owner = .link) :
    exec (.batchEntryEnd e) s = .next (s.cycleDone r.clocks).orphanEnd := by
  simp only [exec, execBatchEntryEnd, hf, hown, hr, ho, if_true]

theorem pollReadEnd_discards (hown : s.arb.owner = .link) :
    exec (.pollReadEnd e) s = .next (s.cycleDone r.clocks).orphanEnd := by
  simp only [exec, execPollReadEnd, hf, hown, hr, ho, if_true]

theorem censusReadEnd_discards (hown : s.arb.owner = .census) :
    exec (.censusReadEnd e) s = .next (s.cycleDone r.clocks).orphanEnd := by
  simp only [exec, execCensusReadEnd, hf, hown, hr, ho, if_true]

theorem timedEntryEnd_discards {i : TimerId} (hown : s.arb.owner = .timed i) :
    exec (.timedEntryEnd e) s = .next (s.cycleDone r.clocks).orphanEnd := by
  simp only [exec, execTimedEntryEnd, hf, hown, hr, ho, if_true]

end

/-! ### Every block -/

/-- The slots connected when the reset takes effect. -/
def openedBy (s : State) : List SlotId := (List.finRange 4).filter fun j => s.slots[j].closed

/-- What the cycle kept is told of them (log entry 37). -/
def changeOf (s : State) : List (List SlotId) := if openedBy s = [] then [] else [openedBy s]

/-- The link unit after the reply, the rest of the transfer discarded. -/
def resetLink (l : Link) (h : Hdr) : Link :=
  { ({} : Link) with
    configured := true, parser := if h.more then .discarding else .idle, transferBytes := l.transferBytes
    reports := l.reports ++ [.reply 0x83 h.tag .ok .empty], awaitReset := true }

theorem exec_deviceReset {s : State} {h : Hdr} (hs : Served s h) :
    exec (.deviceReset h) s = .next (State.afterDeviceReset (s.answered h 0x03 .ok .empty) (resetLink s.link h)) := by
  rw [exec_served rfl hs]
  obtain ⟨⟨hconf, hpipe, -, -⟩, -, -⟩ := hs
  have hreply : State.reply { s with link := s.link.taken s.now h.more } kDeviceReset h.tag .ok .empty =
      s.answered h 0x03 .ok .empty := reply_of_taken (u := { s with link := s.link.taken s.now h.more }) rfl _ _ _ _
  have hlink : (s.answered h 0x03 .ok .empty).link.afterDeviceReset = resetLink s.link h := by
    simp only [State.answered, Link.answered, Link.afterDeviceReset, resetLink, hconf, hpipe]
    cases h.more <;> rfl
  exact congrArg Host.Outcome.next ((congrArg (fun u : State => u.afterDeviceReset u.link.afterDeviceReset) hreply).trans
    (congrArg _ hlink))

/-- The state at power-on, but for what is not the part's, and the link unit. -/
def restored (s : State) (l : Link) : State :=
  { State.reset with pending := s.pending, drives := s.drives, free := s.free, link := l, lastClocks := s.lastClocks }

/-- The state after the reset with a cycle on the bus. -/
def orphaned (s : State) (l : Link) : State :=
  { restored s l with
    inFlight := if openedBy s = [] then s.inFlight else s.inFlight.addChange (openedBy s)
    orphan := true, bus := { s.bus with refresh := true, period := 150 }, rules := s.rules
    arb := { owner := s.arb.owner } }

/-- With no cycle on the bus nothing waits (R174). -/
theorem afterDeviceReset_idle {s : State} (l : Link) (h : s.inFlight.onBus = false) : s.afterDeviceReset l = restored s l :=
  if_neg (by rw [h]; exact Bool.false_ne_true)

/-- With a cycle on the bus it stays, told of the slots that leave it, with its owner, the settings and the rules (R38, R54). -/
theorem afterDeviceReset_busy {s : State} (l : Link) (h : s.inFlight.onBus = true) : s.afterDeviceReset l = orphaned s l := by
  unfold State.afterDeviceReset orphaned
  rw [if_pos h, State.noteSwitches]
  have hreset (u : State) (hu : u.slots = State.reset.slots) : u.connectedSlots = [] := by
    unfold State.connectedSlots State.connected
    rw [hu]
    decide
  rw [hreset]
  · by_cases ho : openedBy s = []
    · rw [if_pos ho]
      exact if_pos ho.symm
    · rw [if_neg ho]
      exact if_neg fun h => ho h.symm
  · rfl

section
variable {s : State} {h : Hdr} (hs : Served s h)
include hs

theorem exec_deviceReset_idle (hb : s.inFlight.onBus = false) :
    exec (.deviceReset h) s = .next (restored s (resetLink s.link h)) :=
  (exec_deviceReset hs).trans (congrArg Host.Outcome.next (afterDeviceReset_idle (s := s.answered h 0x03 .ok .empty) _ hb))

theorem exec_deviceReset_busy (hb : s.inFlight.onBus = true) :
    exec (.deviceReset h) s = .next (orphaned s (resetLink s.link h)) :=
  (exec_deviceReset hs).trans (congrArg Host.Outcome.next (afterDeviceReset_busy (s := s.answered h 0x03 .ok .empty) _ hb))

end

section
variable {s : State} (l : Link)

theorem orphaned_transfer {x : Transfer} (hf : s.inFlight = .transfer x) :
    (orphaned s l).inFlight = .transfer { x with switched := x.switched ++ changeOf s } := by
  unfold orphaned changeOf
  rw [hf]
  split
  · rw [List.append_nil]
  · rfl

theorem orphaned_refresh {x : RefreshCycle} (hf : s.inFlight = .refresh x) : (orphaned s l).inFlight = .refresh x := by
  unfold orphaned
  rw [hf]
  exact ite_self _

theorem orphaned_access {x : Access} (hf : s.inFlight = .access x) :
    (orphaned s l).inFlight = .access { x with switched := x.switched ++ changeOf s } := by
  unfold orphaned changeOf
  rw [hf]
  split
  · rw [List.append_nil]
  · rfl

end

/-- Settles O5: the blocks together with nothing on the bus, and with each kind of cycle on it; then that cycle's end. -/
theorem deviceResetReturnsEveryBlock : Obligations.DeviceResetReturnsEveryBlock := by
  unfold Obligations.DeviceResetReturnsEveryBlock
  refine ⟨fun s h hs => ?_, fun s ho => ?_⟩
  · intro opened change
    cases hbus : s.inFlight.onBus with
    | false =>
      refine ⟨_, exec_deviceReset_idle hs hbus, rfl, rfl, rfl, rfl, rfl, rfl, rfl, rfl, rfl, rfl, rfl, rfl, rfl, rfl, rfl, rfl,
        rfl, rfl, rfl, rfl, rfl, ?_⟩
      intro kept
      refine ⟨fun _ => ⟨rfl, rfl, rfl, rfl, rfl⟩, fun x hf => ?_, fun x hf => ?_, fun x hf hp => ?_⟩ <;> rw [hf] at hbus
      · cases hbus
      · cases hbus
      · exact absurd hp (of_decide_eq_false hbus)
    | true =>
      refine ⟨_, exec_deviceReset_busy hs hbus, rfl, rfl, rfl, rfl, rfl, rfl, rfl, rfl, rfl, rfl, rfl, rfl, rfl, rfl, rfl, rfl,
        rfl, rfl, rfl, rfl, rfl, ?_⟩
      intro kept
      have hkept : kept := ⟨rfl, rfl, rfl, rfl⟩
      refine ⟨fun hnone => ?_, fun x hf => ⟨hkept, orphaned_transfer _ hf⟩, fun x hf => ⟨hkept, orphaned_refresh _ hf⟩,
        fun x hf _ => ⟨hkept, orphaned_access _ hf⟩⟩
      obtain hf | ⟨x, hf, hp⟩ := hnone <;> rw [hf] at hbus
      · cases hbus
      · exact absurd hp (of_decide_eq_true hbus)
  · intro discarded
    have hends {c : Instr} (h : ∃ clocks, exec c s = .next (s.cycleDone clocks).orphanEnd) : discarded c := by
      obtain ⟨clocks, hexec⟩ := h
      obtain ⟨horphan, hapart, hlines, ⟨howed, hrow, hrefresh⟩, hqueue, hlane⟩ := ended_orphanEnd s clocks
      exact ⟨_, hexec, horphan, hapart, hlines, howed, hrow, hqueue, hlane, hrefresh⟩
    refine ⟨fun x e hf => hends (transferEnd_discards ho e hf), fun r hf => hends (refreshCycleEnd_discards ho hf),
      fun a e hf hend => ?_⟩
    obtain ⟨r, hr⟩ := Option.ne_none_iff_exists'.mp hend
    exact ⟨fun hown => ⟨hends ⟨_, batchEntryEnd_discards ho hf hr hown⟩, hends ⟨_, pollReadEnd_discards ho hf hr hown⟩⟩,
      fun hown => hends ⟨_, censusReadEnd_discards ho hf hr hown⟩, fun i hown => hends ⟨_, timedEntryEnd_discards ho hf hr hown⟩⟩

end Sys2Proof.Proofs.DeviceReset
end
